-- ==== Sys2Proof/Word.lean ====
section
/-! DEFINITION. Words, bytes, exact numbers and sparse tables: the plain data every other file uses.
Widths and byte order follow R4: little-endian, bit 0 least significant. -/
namespace Sys2Proof

/-- A byte. -/
abbrev Byte := BitVec 8
/-- A 16-bit halfword. -/
abbrev W16 := BitVec 16
/-- A 32-bit word. -/
abbrev W32 := BitVec 32
/-- A 64-bit word. -/
abbrev W64 := BitVec 64

/-- A table sparse in its keys, ascending, without repeats; an absent key has the reader's default. -/
abbrev Tab (α : Type) := List (Nat × α)

/-- The entry of `k`, if there is one. -/
def tget {α : Type} : Tab α → Nat → Option α
  | [], _ => none
  | (j, x) :: t, k => if j = k then some x else tget t k

/-- The entry of `k`, or `d`. -/
def tgetD {α : Type} (t : Tab α) (k : Nat) (d : α) : α := (tget t k).getD d

/-- `t` with `x` at `k`. -/
def tput {α : Type} : Tab α → Nat → α → Tab α
  | [], k, x => [(k, x)]
  | (j, y) :: t, k, x =>
    if k < j then (k, x) :: (j, y) :: t
    else if k = j then (k, x) :: t
    else (j, y) :: tput t k x

/-- `t` without `k`. -/
def tdel {α : Type} (t : Tab α) (k : Nat) : Tab α := t.filter (fun e => e.1 ≠ k)

/-- `t` with the entry of `k` (or the default `d`) changed by `f`. -/
def tmod {α : Type} (t : Tab α) (k : Nat) (d : α) (f : α → α) : Tab α := tput t k (f (tgetD t k d))

/-- A list of bytes at ascending addresses, none equal to 0: an unlisted address reads 0 (log 6). -/
abbrev Cells := List (Nat × BitVec 8)

/-- An exact rational; `den` is never 0 where the model builds one. -/
structure Q where
  num : Int := 0
  den : Nat := 1
  deriving DecidableEq, Repr, Inhabited

/-- An extended real: what a floating-point code stands for (R218). Finite non-zero values are `fin`. -/
inductive XR where
  | nan (sig : Bool)
  | inf (neg : Bool)
  | zero (neg : Bool)
  | fin (q : Q)
  deriving DecidableEq, Repr, Inhabited

end Sys2Proof
end

