-- ==== Sys2Proof/Syntax.lean ====
section
/-! DEFINITION. The steps of the part: one constructor of `Instr` for each row of the opcode table. Events and register
writes carry the unit they happen to and what arrives with them; Xamal, Swevar and kiln operations carry their operand fields. -/
namespace Sys2Proof

/-- A source operand of a Xamal word (R296, R297): the field, its kind and its trap bit. -/
inductive Src where
  | v (n : BitVec 8) (trap : Bool)
  | s (n : BitVec 8) (trap : Bool)
  | imm (i : BitVec 8)
  | mask (m : BitVec 4)
  | zero
  deriving DecidableEq, Repr, Inhabited

/-- The destination of a Xamal word by its kind DK (R296). An unused destination is `v 0`. -/
inductive Dst where
  | v (n : BitVec 8)
  | s (n : BitVec 8)
  | m (n : BitVec 8)
  | sp (n : BitVec 8)
  deriving DecidableEq, Repr, Inhabited

/-- The second word of a Xamal instruction, by its format (R299). -/
inductive Ext where
  | none
  | i (imm : W64)
  | b (ofs : W32)
  | m (off : BitVec 24) (scope order : BitVec 3) (uo : Bool) (place cache pgh : BitVec 2) (tag nlm1 : BitVec 6)
  | c (from_ to_ : BitVec 5) (slot : BitVec 3)
  | x (st1 st2 : BitVec 2) (za zb : BitVec 6) (fsa fsb : BitVec 3) (row : BitVec 9) (imm8 : BitVec 8)
  deriving DecidableEq, Repr, Inhabited

/-- The fields of a Xamal instruction (R296): mask, operands, function and second word. -/
structure XOp where
  msk : BitVec 4 := 15
  mn : Bool := false
  dst : Dst := .v 0
  a : Src := .v 0 false
  b : Src := .v 0 false
  c : Src := .v 0 false
  fn : BitVec 7 := 0
  ext : Ext := .none
  deriving DecidableEq, Repr, Inhabited

/-- The fields of a Swevar vector slot but its opcode (R400). -/
structure VOp where
  ty : BitVec 4
  pred : BitVec 4
  d : BitVec 6
  a : BitVec 6
  b : BitVec 6
  c : BitVec 6
  fn : BitVec 10
  deriving DecidableEq, Repr, Inhabited

/-- The fields of a Swevar SF slot but its opcode (R401). -/
structure FOp where
  ty : BitVec 4
  pred : BitVec 4
  d : BitVec 6
  a : BitVec 6
  fn : BitVec 7
  deriving DecidableEq, Repr, Inhabited

/-- The fields of a Swevar memory slot but its opcode (R402). -/
structure MOp where
  pred : BitVec 4
  d : BitVec 6
  a : BitVec 5
  imm : BitVec 20
  deriving DecidableEq, Repr, Inhabited

/-- Who writes a hub register: the host over the ICL, or a kiln core through HUBWIN (R76). -/
inductive Writer where
  | host
  | kiln (k : Nat)
  deriving DecidableEq, Repr, Inhabited

/-- A service record of R33 before its SEQ, FRAME_POS are given. -/
structure SvcRec where
  kind : BitVec 8
  unit : W16
  addr : W64
  count : W64
  deriving DecidableEq, Repr, Inhabited

/-- A message of the fabric as it reaches this device (R19, R37). -/
structure IftMsg where
  src : W16
  copy : Nat
  fabric : BitVec 12
  dst : BitVec 57
  total : Nat
  offset : Nat
  data : List Byte
  pub : Option (BitVec 12)
  flag : Option (BitVec 8 × BitVec 6)
  deriving DecidableEq, Repr, Inhabited

/-- An access of the companion processor (R16): a read, a write of bytes, or an atomic addition of 8 bytes, `sc` where it is an `SC` operation (R255). -/
inductive HostAccess where
  | read (pa len : Nat)
  | write (pa : Nat) (data : List Byte)
  | atomicAdd (pa : Nat) (val : W64) (sc : Bool)
  deriving DecidableEq, Repr, Inhabited

/-- The protected unit of an SRAM, of 8 aligned bytes, that an uncorrectable error strikes (R27): by its store and the byte or register within it. `other`
is one whose data no context consumes, named by a unit number. -/
inductive ErrPlace where
  /-- the L2, by physical address -/
  | l2 (pa : Nat)
  | l1 (core pa : Nat)
  | regionCache (region pa : Nat)
  | localMem (gid off : Nat)
  | vreg (gid coil reg lane : Nat)
  | sreg (gid coil reg : Nat)
  | tile (gid stream pos : Nat)
  | scale (gid z : Nat)
  | accRow (gid row : Nat)
  /-- a glaze core's scratchpad, by address -/
  | scratch (core addr : Nat)
  /-- a glaze core's vector register, scalar register, predicate, `q` register, table entry, or latch -/
  | glazeReg (core kind n : Nat)
  /-- a bundle of a glaze core's FIFO -/
  | bundle (core pos : Nat)
  /-- a dictionary entry of a head's kernel -/
  | dictionary (head n : Nat)
  | other (unit : Nat)
  deriving DecidableEq, Repr, Inhabited

/-- What a thermal sensor reports (R23, R72): the payload of its record, the cores at 105 °C or above, and those that have cooled below it. -/
structure ThermalReport where
  payload : BitVec 96
  hot : List Nat := []
  cool : List Nat := []
  deriving DecidableEq, Repr, Inhabited

/-- What a controller reports of a frame (R13, R14): its number and the errors corrected since its last report. -/
structure FrameReport where
  frame : Nat
  corrected : Nat
  deriving DecidableEq, Repr, Inhabited

/-- A slice that is retired (R26): its number, and the dirty lines, by line number, that cannot be corrected as they move. -/
structure SliceMove where
  slice : Nat
  bad : List Nat := []
  deriving DecidableEq, Repr, Inhabited

/-- The steps of the opcode table: first the operations that have encodings, then the events and register writes. -/
inductive Instr where
  /-- R317. Advances the PC. -/
  | nop (x : XOp)
  /-- R317. Branches to PC + OFS. -/
  | bra (x : XOp)
  /-- R317. Branches per thread when an integer comparison holds. -/
  | brc (x : XOp)
  /-- R317. Branches to CODE + a. -/
  | brx (x : XOp)
  /-- R317. Writes a link and branches to PC + OFS. -/
  | call (x : XOp)
  /-- R317. Writes a link and branches to CODE + a. -/
  | callx (x : XOp)
  /-- R317. Returns to CODE + a. -/
  | ret (x : XOp)
  /-- R319. Ends each active thread, leaving its masks and keys. -/
  | exit (x : XOp)
  /-- R320. Raises TRAP_INSN on the active threads. -/
  | trap (x : XOp)
  /-- R320. Raises BKPT on the active threads. -/
  | bkpt (x : XOp)
  /-- R321. Ends the sticky path's turn when FAIR is 1. -/
  | yield (x : XOp)
  /-- R321. Holds the active threads for n cc. -/
  | sleep (x : XOp)
  /-- R322. Reads a special register. -/
  | gets (x : XOp)
  /-- R322. Writes a special register. -/
  | sets (x : XOp)
  /-- R323. Sets the thread's membership bit of a mask. -/
  | mjoin (x : XOp)
  /-- R323. Clears the thread's membership and arrival bits of a mask. -/
  | mleave (x : XOp)
  /-- R323. Arrives at a mask and waits until every member has arrived. -/
  | mwait (x : XOp)
  /-- R324. Writes a mask membership through MaskWrite. -/
  | mset (x : XOp)
  /-- R325. Copies a mask membership into a register. -/
  | mget (x : XOp)
  /-- R324. Sets membership to the active threads whose a is non-zero. -/
  | mbal (x : XOp)
  /-- R324. Writes a logical combination of masks as a membership. -/
  | mlog (x : XOp)
  /-- R325. Counts the 1 bits of a value. -/
  | mpop (x : XOp)
  /-- R325. Gives the index of the lowest 1 bit of a value. -/
  | mfirst (x : XOp)
  /-- R326. Integer move. -/
  | mov (x : XOp)
  /-- R326. Moves an immediate from the second word. -/
  | movi (x : XOp)
  /-- R326. Integer add, wrapping or saturating. -/
  | iadd (x : XOp)
  /-- R326. Integer subtract, wrapping or saturating. -/
  | isub (x : XOp)
  /-- R326. Low half of an integer product. -/
  | imul (x : XOp)
  /-- R326. High half of an integer product. -/
  | imulh (x : XOp)
  /-- R326. Integer multiply-add. -/
  | imad (x : XOp)
  /-- R326. Integer minimum. -/
  | imin (x : XOp)
  /-- R326. Integer maximum. -/
  | imax (x : XOp)
  /-- R326. Integer absolute value. -/
  | iabs (x : XOp)
  /-- R327. Integer comparison into a register or a mask. -/
  | icmp (x : XOp)
  /-- R327. Selects a or b by c. -/
  | sel (x : XOp)
  /-- R328. Bitwise AND. -/
  | and (x : XOp)
  /-- R328. Bitwise OR. -/
  | or (x : XOp)
  /-- R328. Bitwise XOR. -/
  | xor (x : XOp)
  /-- R328. a AND NOT b. -/
  | andn (x : XOp)
  /-- R328. Bitwise NOT. -/
  | not (x : XOp)
  /-- R328. Left shift. -/
  | shl (x : XOp)
  /-- R328. Logical right shift. -/
  | shr (x : XOp)
  /-- R328. Arithmetic right shift. -/
  | sar (x : XOp)
  /-- R328. Rotate left. -/
  | rot (x : XOp)
  /-- R329. Bit-field extract. -/
  | bfe (x : XOp)
  /-- R329. Bit-field insert. -/
  | bfi (x : XOp)
  /-- R328. Population count. -/
  | popc (x : XOp)
  /-- R328. Count of leading zeros. -/
  | clz (x : XOp)
  /-- R328. Bit reversal. -/
  | brev (x : XOp)
  /-- R330. Forms a 64-bit scaled address. -/
  | lea (x : XOp)
  /-- R331. Moves values between the lanes of the issue group. -/
  | shfl (x : XOp)
  /-- R332. Integer prefix scan over the active lanes. -/
  | iscan (x : XOp)
  /-- R332. Integer reduction over the active lanes. -/
  | iredc (x : XOp)
  /-- R333. Moves one lane's register to a uniform register. -/
  | vtos (x : XOp)
  /-- R333. Moves a uniform value into one lane's register. -/
  | stov (x : XOp)
  /-- R336. Floating-point add, rounded once. -/
  | fadd (x : XOp)
  /-- R336. Floating-point subtract, rounded once. -/
  | fsub (x : XOp)
  /-- R336. Floating-point multiply, rounded once. -/
  | fmul (x : XOp)
  /-- R336. Fused multiply-add, rounded once. -/
  | ffma (x : XOp)
  /-- R337. Floating-point minimum under R236. -/
  | fmin (x : XOp)
  /-- R337. Floating-point maximum under R236. -/
  | fmax (x : XOp)
  /-- R338. Floating-point comparison into a register or a mask. -/
  | fcmp (x : XOp)
  /-- R339. Floating-point class mask. -/
  | fclass (x : XOp)
  /-- R340. Floating-point reduction by the fixed pair tree. -/
  | fredc (x : XOp)
  /-- R341. Correctly rounded reciprocal. -/
  | frcp (x : XOp)
  /-- R341. Correctly rounded reciprocal square root. -/
  | frsq (x : XOp)
  /-- R341. Correctly rounded square root. -/
  | fsqrt (x : XOp)
  /-- R341. Correctly rounded division. -/
  | fdiv (x : XOp)
  /-- R341. Correctly rounded 2^a. -/
  | fexp2 (x : XOp)
  /-- R341. Correctly rounded log2 a. -/
  | flog2 (x : XOp)
  /-- R341. Correctly rounded sine. -/
  | fsin (x : XOp)
  /-- R341. Correctly rounded cosine. -/
  | fcos (x : XOp)
  /-- R341. Correctly rounded tanh. -/
  | ftanh (x : XOp)
  /-- R341. Correctly rounded erf. -/
  | ferf (x : XOp)
  /-- R343. Converts between element formats. -/
  | cvt (x : XOp)
  /-- R344. Converts between floating-point formats and integer types. -/
  | cvti (x : XOp)
  /-- R345. Quantises a / b with one rounding. -/
  | qnt (x : XOp)
  /-- R346. Packs two narrowed elements into a register. -/
  | pack (x : XOp)
  /-- R346. Unpacks two narrow elements, widened to FP32. -/
  | unpk (x : XOp)
  /-- R349. Evaluates a fragment attribute. -/
  | attri (x : XOp)
  /-- R354. Samples a texture at level 0. -/
  | texs (x : XOp)
  /-- R354. Samples a texture at a given level. -/
  | texl (x : XOp)
  /-- R355. Gathers one channel of a bilinear footprint. -/
  | texg (x : XOp)
  /-- R352. Reads a target pixel in a PROG pass. -/
  | tbld (x : XOp)
  /-- R352. Writes a target pixel in a PROG pass. -/
  | tbst (x : XOp)
  /-- R347. Writes a vertex record into local memory. -/
  | emitv (x : XOp)
  /-- R348. Submits one triangle per active thread to the pipeline. -/
  | emitp (x : XOp)
  /-- R350. Restricts the fragment's coverage. -/
  | cover (x : XOp)
  /-- R351. Ends the thread, and its fragment writes nothing. -/
  | kill (x : XOp)
  /-- R359. Global load. -/
  | ld (x : XOp)
  /-- R359. Global store. -/
  | st (x : XOp)
  /-- R359. Uniform load, performed once for the coil. -/
  | ldu (x : XOp)
  /-- R359. Load from local memory. -/
  | ldl (x : XOp)
  /-- R359. Store to local memory. -/
  | stl (x : XOp)
  /-- R360. Declares a load-block with a completion tag. -/
  | ldblk (x : XOp)
  /-- R361. Prefetch hint. -/
  | pref (x : XOp)
  /-- R361. Writes a line back to the point of a scope. -/
  | wbl (x : XOp)
  /-- R361. Writes a line back, then drops its clean copies. -/
  | invl (x : XOp)
  /-- R362. Memory fence. -/
  | fence (x : XOp)
  /-- R364. Integer atomic with return. -/
  | atom (x : XOp)
  /-- R364. Floating-point atomic with return. -/
  | atomf (x : XOp)
  /-- R365. Compare-and-swap of up to 128 bits. -/
  | cas (x : XOp)
  /-- R364. Atomic without return. -/
  | red (x : XOp)
  /-- R366. Atomic on local memory, which may count a barrier object. -/
  | atoml (x : XOp)
  /-- R367. Group barrier. -/
  | bar (x : XOp)
  /-- R367. Cluster barrier. -/
  | cbar (x : XOp)
  /-- R368. Increments a counting flag of a core. -/
  | flaginc (x : XOp)
  /-- R368. Waits until a flag reaches n, then subtracts n. -/
  | flagwait (x : XOp)
  /-- R370. Enters an ordered section at a sequence number. -/
  | osenter (x : XOp)
  /-- R371. Leaves an ordered section and advances nextseq. -/
  | osleave (x : XOp)
  /-- R371. Leaves an ordered section and frees its key entry. -/
  | osleaveLast (x : XOp)
  /-- R372. Consumes a sequence number without entering the section. -/
  | osskip (x : XOp)
  /-- R373. Reads the state of a key entry. -/
  | osqry (x : XOp)
  /-- R374. Publishes a publish-table entry at a scope. -/
  | publish (x : XOp)
  /-- R380. Puts a slot into a multicast ring. -/
  | ringput (x : XOp)
  /-- R380. Takes the next slot of a ring for a consumer. -/
  | ringget (x : XOp)
  /-- R380. Releases a ring slot for a consumer. -/
  | ringrel (x : XOp)
  /-- R381. Returns vector granules to the group pool. -/
  | reggive (x : XOp)
  /-- R381. Claims vector granules from the group pool. -/
  | regclaim (x : XOp)
  /-- R379. Arms a TCB. -/
  | taskarm (x : XOp)
  /-- R379. Decrements a TCB's dependence counter. -/
  | taskarmDec (x : XOp)
  /-- R379. Ends a task part, or parks the coil as a worker. -/
  | taskend (x : XOp)
  /-- R379. Ends the current task as FAULTED. -/
  | taskendAbort (x : XOp)
  /-- R375. Kicks copy descriptors into the copy-request queue. -/
  | ckick (x : XOp)
  /-- R376. Waits for a barrier object's PHASE to change. -/
  | bowait (x : XOp)
  /-- R377. Waits for every masked tag bit. -/
  | waitall (x : XOp)
  /-- R377. Waits for any masked tag bit. -/
  | waitany (x : XOp)
  /-- R377. Reads the masked tag bits without waiting. -/
  | ffready (x : XOp)
  /-- R377. Clears tag bits. -/
  | tagclr (x : XOp)
  /-- R378. Device-side launch of a record. -/
  | launch (x : XOp)
  /-- R390. Multiplies the head tiles into accumulator rows. -/
  | mma (x : XOp)
  /-- R390. Multiplies a sparse A head tile by a B tile into accumulator rows. -/
  | mmas (x : XOp)
  /-- R391. Initialises an accumulator row. -/
  | acinit (x : XOp)
  /-- R391. Renormalises an accumulator row. -/
  | acnorm (x : XOp)
  /-- R392. Converts rows and writes them to memory under a tag. -/
  | acdrain (x : XOp)
  /-- R391. Writes one mantissa of a row. -/
  | acload (x : XOp)
  /-- R391. Reads one mantissa of a row. -/
  | acrd (x : XOp)
  /-- R391. Reads AE and AG of a row. -/
  | acguard (x : XOp)
  /-- R393. Loads a scale register from memory with a tag. -/
  | zld (x : XOp)
  /-- R393. Stores a scale register to memory. -/
  | zst (x : XOp)
  /-- R394. Scales band scales by a power of two. -/
  | zmulp2 (x : XOp)
  /-- R394. Multiplies band scales by a BF16 factor. -/
  | zmulb (x : XOp)
  /-- R394. Converts E8M0 scales to E3M5 with a band change. -/
  | zcvt (x : XOp)
  /-- R394. Reads the largest effective scale. -/
  | zmax (x : XOp)
  /-- R394. Retags a scale register. -/
  | ztag (x : XOp)
  /-- R394. Reads words of a scale register into lanes. -/
  | zmovR (x : XOp)
  /-- R394. Writes words of a scale register from lanes. -/
  | zmovW (x : XOp)
  /-- R393. Saves a whole scale register to memory. -/
  | zsave (x : XOp)
  /-- R393. Restores a whole scale register from memory. -/
  | zrest (x : XOp)
  /-- R395. Pops the head tile of a stream. -/
  | spop (x : XOp)
  /-- R395. Reads the state of a stream. -/
  | sqry (x : XOp)
  /-- R420. Sequencer no-op. -/
  | sqnop
  /-- R420. Decrements q and branches while it is non-zero. -/
  | sqloop (q : BitVec 4) (t : W16)
  /-- R420. Conditional sequencer branch on q. -/
  | sqbr (q : BitVec 4) (cond : BitVec 3) (t : W16)
  /-- R420. Sets q to an immediate. -/
  | sqset (q : BitVec 4) (imm : W16)
  /-- R420. Adds an immediate to q. -/
  | sqadd (q : BitVec 4) (imm : W16)
  /-- R167. Row barrier of the glaze cores. -/
  | swSync
  /-- R186. Reserves scratchpad banks for the core's own slots. -/
  | banklock (n : BitVec 4) (banks : W16)
  /-- R168. Ends the band. -/
  | bandend
  /-- R399. Scalar slot no-op. -/
  | swScalarNop
  /-- R421. Scalar add of a register. -/
  | swAddReg (d a b : BitVec 5)
  /-- R421. Scalar add of an immediate. -/
  | swAddImm (d a : BitVec 5) (imm : W16)
  /-- R421. Scalar subtract of a register. -/
  | swSubReg (d a b : BitVec 5)
  /-- R421. Scalar subtract of an immediate. -/
  | swSubImm (d a : BitVec 5) (imm : W16)
  /-- R421. Scalar multiply by a register. -/
  | swMulReg (d a b : BitVec 5)
  /-- R421. Scalar multiply by an immediate. -/
  | swMulImm (d a : BitVec 5) (imm : W16)
  /-- R421. Scalar AND with a register. -/
  | swAndReg (d a b : BitVec 5)
  /-- R421. Scalar AND with an immediate. -/
  | swAndImm (d a : BitVec 5) (imm : W16)
  /-- R421. Scalar OR with a register. -/
  | swOrReg (d a b : BitVec 5)
  /-- R421. Scalar OR with an immediate. -/
  | swOrImm (d a : BitVec 5) (imm : W16)
  /-- R421. Scalar XOR with a register. -/
  | swXorReg (d a b : BitVec 5)
  /-- R421. Scalar XOR with an immediate. -/
  | swXorImm (d a : BitVec 5) (imm : W16)
  /-- R421. Scalar left shift by a register. -/
  | swShlReg (d a b : BitVec 5)
  /-- R421. Scalar left shift by an immediate. -/
  | swShlImm (d a : BitVec 5) (imm : W16)
  /-- R421. Scalar logical right shift by a register. -/
  | swShrReg (d a b : BitVec 5)
  /-- R421. Scalar logical right shift by an immediate. -/
  | swShrImm (d a : BitVec 5) (imm : W16)
  /-- R421. Scalar arithmetic right shift by a register. -/
  | swSarReg (d a b : BitVec 5)
  /-- R421. Scalar arithmetic right shift by an immediate. -/
  | swSarImm (d a : BitVec 5) (imm : W16)
  /-- R421. Moves a sign-extended immediate. -/
  | swMovi (d : BitVec 5) (imm : W16)
  /-- R421. Moves an immediate into the high half. -/
  | swMovh (d : BitVec 5) (imm : W16)
  /-- R421. Signed comparison with a register. -/
  | swCmpReg (d a : BitVec 5) (cond : BitVec 3) (b : BitVec 5)
  /-- R421. Signed comparison with a 13-bit immediate. -/
  | swCmpImm (d a : BitVec 5) (cond : BitVec 3) (imm : BitVec 13)
  /-- R421. Selects a or b by register c. -/
  | swSel (d a c b : BitVec 5)
  /-- R422. Loads a word from the scratchpad, band context or kiln data SRAM. -/
  | lds (d a : BitVec 5) (imm : W16)
  /-- R422. Stores a word to the scratchpad or kiln data SRAM. -/
  | sts (d a : BitVec 5) (imm : W16)
  /-- R421. Fills a predicate register from a repeated 16-bit pattern. -/
  | pred (p : BitVec 3) (imm : W16)
  /-- R400. Vector slot no-op. -/
  | swVectorNop
  /-- R423. Vector add. -/
  | vadd (x : VOp)
  /-- R423. Vector subtract. -/
  | vsub (x : VOp)
  /-- R423. Vector multiply. -/
  | vmul (x : VOp)
  /-- R423. Vector minimum. -/
  | vmin (x : VOp)
  /-- R423. Vector maximum. -/
  | vmax (x : VOp)
  /-- R423. Vector AND. -/
  | vand (x : VOp)
  /-- R423. Vector OR. -/
  | vor (x : VOp)
  /-- R423. Vector XOR. -/
  | vxor (x : VOp)
  /-- R424. Vector comparison into a predicate. -/
  | vcmp (x : VOp)
  /-- R424. Vector left shift. -/
  | vshl (x : VOp)
  /-- R424. Vector right shift. -/
  | vshr (x : VOp)
  /-- R423. Vector fused multiply-add. -/
  | vfma (x : VOp)
  /-- R424. Vector select. -/
  | vsel (x : VOp)
  /-- R425. Vector conversion. -/
  | vcvt (x : VOp)
  /-- R424. Vector permutation. -/
  | vperm (x : VOp)
  /-- R424. Broadcasts a scalar to every element. -/
  | vbcast (x : VOp)
  /-- R427. Multiplies rows by a stationary latch. -/
  | mxm (x : VOp)
  /-- R401. SF slot no-op. -/
  | swSfNop
  /-- R428. Vector reciprocal. -/
  | vrcp (x : FOp)
  /-- R428. Vector reciprocal square root. -/
  | vrsq (x : FOp)
  /-- R428. Vector 2^a. -/
  | vexp2 (x : FOp)
  /-- R428. Vector log2. -/
  | vlog2 (x : FOp)
  /-- R429. Reduces a vector into a partial-sum latch. -/
  | swRed (x : FOp)
  /-- R428. Moves a partial-sum latch into a register. -/
  | psmov (x : FOp)
  /-- R402. Memory slot no-op. -/
  | swMemoryNop
  /-- R431. Loads 512 bytes of scratchpad into a register. -/
  | spld (x : MOp)
  /-- R431. Stores 512 bytes of a register to the scratchpad. -/
  | spst (x : MOp)
  /-- R436. Gathers granules by the oldest GQ offsets. -/
  | gath (x : MOp)
  /-- R432. Copies source bytes into the scratchpad. -/
  | fetch (x : MOp)
  /-- R433. Delivers a line to the line FIFO. -/
  | lineout (x : MOp)
  /-- R434. Reads the band's latched pose. -/
  | poseget (x : MOp)
  /-- R434. Reads the band's source generation. -/
  | srcgen (x : MOp)
  /-- R426. Loads a stationary latch from the scratchpad. -/
  | mxl (x : MOp)
  /-- R435. Starts a sparse-index stream. -/
  | sixcfg (x : MOp)
  /-- R403. SYNC field no-op. -/
  | swSyncNop
  /-- R437. Waits until a flag reaches n, then subtracts n. -/
  | fwait (n : BitVec 2) (f : BitVec 4)
  /-- R437. Adds n to a flag, saturating. -/
  | fpost (n : BitVec 2) (f : BitVec 4)
  /-- R437. Clears a flag. -/
  | fclr (f : BitVec 4)
  /-- R438. Kiln control word with no transfer. -/
  | kcNext
  /-- R438. Kiln jump. -/
  | kcJmp (t : BitVec 12)
  /-- R438. Kiln jump if a register is zero. -/
  | kcBrz (a : BitVec 5) (t : BitVec 12)
  /-- R438. Kiln jump if a register is non-zero. -/
  | kcBrnz (a : BitVec 5) (t : BitVec 12)
  /-- R438. Kiln call with a link register. -/
  | kcCall (a : BitVec 5) (t : BitVec 12)
  /-- R438. Kiln return to the bundle in a register. -/
  | kcRet (a : BitVec 5)
  /-- R438. Reads a 64-bit I/O port into a register pair. -/
  | kcIord (a : BitVec 5) (port : BitVec 10)
  /-- R438. Writes a register pair to an I/O port. -/
  | kcIowr (a : BitVec 5) (port : BitVec 10)
  /-- R438. Waits for an fc offset in the minor frame. -/
  | kcWaitcyc (off : BitVec 10)
  /-- R438. Pops the oldest record of an event queue into a register quad. -/
  | kcEvpop (a : BitVec 5) (src : BitVec 3)
  /-- R24. Power-up or thermal trip clears all state and runs the full boot. -/
  | moduleReset
  /-- R23. Input outside 40-60 V holds the module in reset. -/
  | inputVoltageFault
  /-- R23. A junction temperature of 115 C trips the module off, independently of firmware. -/
  | thermalTrip
  /-- R72. A thermal sensor posts a reading to the THERM queue of KC3; when the queue is full it replaces the youngest record. -/
  | thermalSensorReading (unit : BitVec 16) (kind : BitVec 8) (payload : ThermalReport)
  /-- R31. The KC0 boot ROM tries the active image slot and then the other, and runs the first image that passes authentication and the version check. -/
  | moduleBoot
  /-- R24. KC0 reports boot complete, which sets FW_STAT.BOOTED and makes the host link, queues and heads usable. -/
  | bootComplete
  /-- R28. Removal before PARKED is seen by the host as the failure of both ICL ports. -/
  | surpriseRemoval
  /-- R12. At the start of each 1 us window, each channel resets its display credit to DISP_BW x 1,500 bytes. -/
  | displayCreditWindow (chan : Nat)
  /-- R102. Each 1 us window at a slice or channel divides service time between the display reservation and the class shares. -/
  | classShareWindow (unit : Nat)
  /-- R14. A link CRC error is retried up to 4 times; a transfer that still fails is uncorrectable. -/
  | gddrCrcError (chan fails : Nat) (pa : Nat)
  /-- R27. The scrubber visits SRAM words, counts corrected errors in SVC_CE and uncorrectable ones in SVC_UE, and reports unconsumed errors to firmware. -/
  | eccScrub (corrected : Nat) (bad : Option ErrPlace)
  /-- R14. When a frame's corrected-error count crosses the threshold, KC2 posts a retirement record for the frame. -/
  | pageRetirement (frame : FrameReport)
  /-- R14. KC2 judges a channel failing, sets STATE to 2 and posts an evacuation record. -/
  | channelEvacuation (chan : Nat)
  /-- R13. A write of 1 to EVAC_DONE while STATE is 2 retires the channel. -/
  | evacDone (chan : Nat)
  /-- R13. A write of the display reservation register; a DISP_BW above 64 is ignored and sets BADWR, and a kiln write is ignored. -/
  | memRsvCtlWrite (by_ : Writer) (val : W32)
  /-- R17. A failed ICL lane makes its port retrain onto the spare lane while the other port carries the traffic and retry replays transfers. -/
  | iclLaneFail (port : Nat)
  /-- R17. The port completes retraining onto its spare lane within 10 us. -/
  | iclRetrainDone (port : Nat)
  /-- R17. A failed ICL port leaves all traffic on the other port at half bandwidth. -/
  | iclPortFail (port : Nat)
  /-- R17. With both ports failed, the scanner stops and accesses to host memory raise MACHINE_CHECK. -/
  | iclBothPortsFail
  /-- R18. An Ethernet lane failure retrains the port as a 4-lane, 800 Gb/s port. -/
  | ethLaneFail (port : Nat)
  /-- R37. The destination looks up FABRIC, translates DST and writes the message, or answers with a refusal that fails the copy. -/
  | iftMessageReceive (m : IftMsg)
  /-- R19. An acknowledgement of a message arrives; when every message is acknowledged, the source tag may complete. -/
  | iftAck (copy msg : Nat)
  /-- R19. A message unacknowledged after IFT_RTO is resent; after 16 resends the copy fails with REMOTE_FAIL. -/
  | iftResendTimeout (copy msg : Nat)
  /-- R37. A write of IFT_RTO; a write of 0 stores 1 and sets BADWR. -/
  | iftRtoWrite (val : W32)
  /-- R25. KC2 retires a core; its contexts are pre-empted, restored on the spare, and the spare takes the core's number. -/
  | coreRetire (core : Nat)
  /-- R38. A core fails in a region with no spare left; its id loses its core and its contexts are requeued elsewhere. -/
  | coreRetireNoSpare (core : Nat)
  /-- R26. KC2 quiesces a failing L2 slice and moves its lines and key-table entries to a spare slice. -/
  | sliceRetire (slice : SliceMove)
  /-- R39. A slice lost with no spare is served by the surviving slice of the die with the most free key-table entries. -/
  | sliceLossNoSpare (slice : SliceMove)
  /-- R33. KC2 writes a service record to the host ring, or to its carry area, and advances SVC_WIDX as a SYSTEM-scope release. -/
  | serviceRecordPost (r : SvcRec)
  /-- R34. A write of the service ring base and size; ignored with BADWR while records are unconsumed. -/
  | svcRingWrite (val : W64)
  /-- R34. A host write of records consumed; a value beyond WIDX is ignored and sets BADWR. -/
  | svcRidxWrite (val : W32)
  /-- R35. A GO while running starts a quiesce, in which the scanner stops polling. -/
  | modQuiesceGo
  /-- R35. Once no group is resident, no copy is outstanding and every started packet has completed, the module parks its links and heads and reports PARKED. -/
  | modulePark
  /-- R35. A write of key 0x5752 performs a warm reset; any other key sets MOD_STAT.BADWR. -/
  | modResetKey (key : W16)
  /-- R36. The host requests an attestation quote into the buffer at ATT_ADDR. -/
  | attCtlGo
  /-- R36. KC2 writes the signed quote and sets ATT_STAT.STATE to done, or to failed. -/
  | attQuoteComplete
  /-- R77. The host starts a live update; KC2 copies and verifies the image and checks carry formats. -/
  | fwUpdGo
  /-- R78. The copy and verification of an update end with READY, or with failed and a code. -/
  | fwUpdateVerified
  /-- R77. All four kiln cores switch to the new image at the first major-frame boundary after READY. -/
  | fwBankChange
  /-- R71. A kiln core that misses a minor-frame WAITCYC within 2,048 fc is stopped and restarted from its image entry. -/
  | kilnWatchdogRestart (k : Nat)
  /-- R66. A write of the queue descriptor table base; ignored with QMAP_STAT.ERR while any queue is mapped. -/
  | qtabBaseWrite (val : W64)
  /-- R47. Maps a queue from its descriptor, with R := RPTR_INIT and the first poll due at once. -/
  | qmapMap (qid : Nat)
  /-- R47. Unmaps a queue, discarding unstarted buffered packets and abandoning a pending WAIT. -/
  | qmapUnmap (qid : Nat)
  /-- R47. Restarts a queue in ERROR from a reloaded descriptor and RPTR_INIT. -/
  | qmapRestart (qid : Nat)
  /-- R47. Re-reads CLASS, PRIO, DIRECT and IVMAX of a mapped queue. -/
  | qmapReload (qid : Nat)
  /-- R66. A write of the scanner control register; a QMAX_LOG2 above 10 is ignored and sets BADWR. -/
  | scanCtlWrite (val : W32)
  /-- R48. In a read slot, the scanner reads the W of the next due queue, adjusts its interval and fetches pending packets. -/
  | scannerPoll
  /-- R52. Command packet NOP, which completes at once. -/
  | pktNop (qid : Nat)
  /-- R55. Command packet LAUNCH, which passes its launch record to the dispatcher, after its own WCNT wait if any. -/
  | pktLaunch (qid : Nat)
  /-- R55. Command packet GRAPH, which passes its graph descriptor to the dispatcher. -/
  | pktGraph (qid : Nat)
  /-- R56. Command packet COPY, which runs its descriptor on the hub copy engine. -/
  | pktCopy (qid : Nat)
  /-- R57. Command packet WAIT, which reads its counter as an acquire and enters WAITING if the condition is false. -/
  | pktWait (qid : Nat)
  /-- R57. A WAITING queue re-reads its counter with back-off and resumes when the condition holds. -/
  | waitRecheck (qid : Nat)
  /-- R57. A WAIT whose TIMEOUT elapses puts the queue into ERROR with WAIT_TIMEOUT. -/
  | waitTimeout (qid : Nat)
  /-- R58. Command packet SIGNAL, which stores or adds to its counter as a SYSTEM-scope release. -/
  | pktSignal (qid : Nat)
  /-- R59. Command packet PHASE, which closes the previous phase and opens a new one with counter PCNT. -/
  | pktPhase (qid : Nat)
  /-- R60. Command packet JOBCTL with ACT 1, which cancels the unit whose completion counter is TARGET. -/
  | pktJobctlCancel (qid : Nat)
  /-- R60. Command packet JOBCTL with ACT 2, which sets the priority of the target unit. -/
  | pktJobctlSetPriority (qid : Nat)
  /-- R61. Command packet PRESENT, which publishes entry PUB and writes FRAME to SRC_FRAME of the selected heads. -/
  | pktPresent (qid : Nat)
  /-- R62. Command packet FENCE, which performs a release at its scope after every earlier packet completes. -/
  | pktFence (qid : Nat)
  /-- R90. Every 4 fc the dispatcher handles exits, cancels, priority changes and acceptances, and makes at most one placement. -/
  | dispatcherDecision
  /-- R319. A group completes once all its coils have exited and its copies have completed; its resources are returned. -/
  | groupComplete (gid : Nat)
  /-- R100. After BAL_WINDOW CBAR episodes, a region moves one 25 MHz step from its best core to its worst. -/
  | energyRebalance (region : Nat)
  /-- R103. A write of a class way mask; a write of 0 is ignored and sets BADWR. -/
  | waysClassWrite (n : Nat) (val : W32)
  /-- R103. A write of a class bandwidth share; a value above 64, or shares summing above 64, is ignored with BADWR. -/
  | bwClassWrite (n : Nat) (val : W32)
  /-- R283. SUSPEND saves every resident cluster of a launch and holds back its unplaced clusters. -/
  | preemptSuspend (lcnt : BitVec 57)
  /-- R283. REQUEUE saves every resident cluster of a launch and offers it again at once. -/
  | preemptRequeue (lcnt : BitVec 57)
  /-- R283. RESUME offers the saved clusters of a suspended launch. -/
  | preemptResume (lcnt : BitVec 57)
  /-- R284. Once its task coils have reached TASKEND, a cluster is stopped, its copies are settled, and its save areas are written. -/
  | clusterSave (cluster : Nat)
  /-- R294. A write of the save-pool registers; ignored with BADWR while any group is saved. -/
  | savePoolWrite (size : Bool) (val : W64)
  /-- R76. A KC0 write of DSP_SUBMIT_Q with ACT 0 submits a LAUNCH packet. -/
  | dspSubmitLaunch (val : W64)
  /-- R76. A KC0 write of DSP_SUBMIT_Q with ACT 1 submits a GRAPH packet. -/
  | dspSubmitGraph (val : W64)
  /-- R76. A KC0 write of DSP_SUBMIT_Q with ACT 2 performs the held packet as on the direct path. -/
  | dspSubmitPerform (val : W64)
  /-- R76. A KC0 write of DSP_SUBMIT_Q with ACT 3 rejects the held packet with BAD_PACKET. -/
  | dspSubmitReject (val : W64)
  /-- R76. A KC0 port write that cancels or tears down a unit by its completion counter. -/
  | dspCancel (val : W64)
  /-- R76. A KC0 port write that changes the priority of a unit. -/
  | dspPrio (val : W64)
  /-- R75. A KC1 write of AGE_LIMIT, clamped to 1-200 with KC_STAT.CLAMP. -/
  | ageLimitWrite (val : W64)
  /-- R75. A KC2 write of OSWDOG, clamped to 2^16-2^28 cc with KC_STAT.CLAMP. -/
  | oswdogWrite (val : W64)
  /-- R279. KC2 replays a fault-queue entry with FAIL 0, so its page is walked again. -/
  | fqReplay (entry : BitVec 12)
  /-- R279. KC2 ends a fault-queue entry with FAIL 1, raising PAGE_FAULT or failing the copy. -/
  | fqReplayFail (entry : BitVec 12)
  /-- R76. A kiln access through ports 0x200-0x3FF reaches memory through the MEMWIN window at SYSTEM scope. -/
  | memwinAccess (k : Nat) (port : BitVec 10) (ra : BitVec 5) (wr : Option W64)
  /-- R119. KC1 retries the oldest faulted task of a region, making it READY. -/
  | taskDecideRetry (region : Nat)
  /-- R119. KC1 cancels the oldest faulted task of a region together with its subgraph. -/
  | taskDecideCancelSubgraph (region : Nat)
  /-- R119. KC1 leaves the oldest faulted task FAULTED and removes its entry. -/
  | taskDecideLeave (region : Nat)
  /-- R115. A task unit starts the first eligible READY task on the longest-parked worker of its launch, reading its loop record. -/
  | taskStart (region : Nat)
  /-- R108. After the last part and its copies, a task is marked DONE, its successors are decremented, its flag is incremented and the coil is parked. -/
  | completeTask (gid coil : Nat)
  /-- R118. A faulted task enters the region's fault list when an entry is free, and its coil parks. -/
  | taskFaultListEntry (gid coil : Nat)
  /-- R105. When every coil is parked or completed and no task is pending, the pool closes and the launch completes. -/
  | taskPoolClose (launch : Nat)
  /-- R244. A page walk ends, filling both TLBs, or posting a FAULTQ record for its merge entry. -/
  | pageWalkComplete (entry : Nat)
  /-- R243. A write of TLBI_CTL.GO starts the invalidation of a range, an ASID or every ASID. -/
  | tlbiGo (val : W32)
  /-- R243. The invalidation completes and XLAT_STAT.BUSY returns to 0. -/
  | tlbiComplete
  /-- R268. A write of the AS table base; ignored with BADWR while any queue is mapped. -/
  | asTabBaseWrite (val : W64)
  /-- R258. A background sweep writes back to L2 each line that has been dirty for 65,536 cc. -/
  | dirtyLineSweep (core : Nat)
  /-- R255. An agent's position on the SC wheel comes up and takes up to 8 waiting SC operations. -/
  | scWheelPosition
  /-- R204. A long-latency result lands in its register and marks it full. -/
  | longLatencyLand (gid coil : Nat)
  /-- R209. The request engine fetches the next queued descriptor and checks its limits, or completes it BADDESC. -/
  | copyDescriptorFetch (core : Nat)
  /-- R213. Bytes of a copy land, counting down the PENDING of its barrier object and toggling PHASE at 0. -/
  | copyBytesLand (copy bytes : Nat)
  /-- R212. After its last byte lands, a copy makes its writes visible, writes STATUS, increments its flag, publishes and completes its tag. -/
  | copyComplete (copy : Nat)
  /-- R360. The fill of a load-block ends, decrementing its tag count and setting its TAGBITS bit at 0. -/
  | ldblkFillComplete (fill : Nat)
  /-- R198. The fairness count of the sticky path reaches FAIRTIME, and the path changes. -/
  | fairnessTimerExpiry (gid coil : Nat)
  /-- R200. A thread's WDOG count reaches N; its wait is withdrawn and WATCHDOG is raised on its path. -/
  | watchdogExpiry (gid coil : Nat)
  /-- R321. The n cc of a SLEEP have passed, and its threads are eligible for issue again. -/
  | sleepHoldEnd (gid coil : Nat)
  /-- R370. A waiting OSENTER is granted when nextseq reaches its seq and the key has no holder. -/
  | osGrant (slice entry : Nat)
  /-- R282. A key's watchdog reaches OSWDOG, and every waiter takes OS_GAP. -/
  | osWatchdogExpiry (slice entry : Nat)
  /-- R373. A descheduled key request is retried after 1,024 cc. -/
  | osOverflowRetry (slice : Nat)
  /-- R147. A wave of up to 32 fragments starts one coil of the tile render's cluster. -/
  | waveStart (render : Nat)
  /-- R154. The owner's blend unit applies a fragment's colour once every earlier fragment of the pixel has been applied. -/
  | blendApply (render : Nat)
  /-- R157. A render whose waves have exited and whose blends are applied makes its writes visible, frees its keys and completes its cluster. -/
  | tileRenderRetire (render : Nat)
  /-- R133. Once every tile has had its final render, the pass writes its status record and credits PCNT. -/
  | passEnd (pass : Nat)
  /-- R160. A write of the row map; membership and SYNTH_EN changes take effect at each head's next round start. -/
  | dispRowMapWrite (val : W64)
  /-- R190. A write of DISP_WAYS; a value above 8 is ignored and sets BADWR. -/
  | dispCacheCtlWrite (val : W32)
  /-- R191. A write of band configuration, applied from round 0 of the next frame; any field out of range makes it ignored with BADWR. -/
  | bandCfgWrite (head : Nat) (val : W32)
  /-- R191. A write of the memory-head ring; an MH_SLOTS above 4 stores 4. -/
  | memheadWrite (head : Nat) (val : W64)
  /-- R192. The host posts a MODE_SET request record for KC3. -/
  | hreqModeSet (head : Nat)
  /-- R192. The host posts a KERNEL_LOAD request record for KC3. -/
  | hreqKernelLoad (head : Nat)
  /-- R192. The host posts a HEAD_OFF request for KC3. -/
  | hreqHeadOff (head : Nat)
  /-- R193. KC3 commands a new head timing, which is checked and applied at the end of the current frame. -/
  | headCmdSetTiming (val : W64)
  /-- R193. KC3 commands a kernel load; the dictionary is copied and checked for round 0 of the next frame. -/
  | headCmdLoadKernel (val : W64)
  /-- R193. KC3 turns the head off at the end of the current frame. -/
  | headCmdOff (val : W64)
  /-- R193. KC3 refuses the pending host request with a code. -/
  | headCmdRefuse (val : W64)
  /-- R193. A head command completes, posting a HEADEV event and, for a host request, writing HREQ_STAT. -/
  | headCmdComplete (head : Nat)
  /-- R175. An aligned 8-byte write to a mailbox's sequence word snapshots the pose into the head's pose buffer. -/
  | poseSnapshot (head : Nat) (seq : W64)
  /-- R163. A round starts at the later of its due time and the end of the previous round, and the sequencer begins issuing the kernel. -/
  | roundStart (head : Nat)
  /-- R163. The band sequencer issues one bundle per row time, which reaches rank k SKEW[k] later. -/
  | rowBundleIssue (head : Nat)
  /-- R164. A core's band start fills its band context and samples the source generation. -/
  | bandStart (core : Nat)
  /-- R166. A member's FIFO reaches 2,048 bundles, so the row stops and OVERRUN is set. -/
  | rowStop (head : Nat)
  /-- R166. The row resumes once every FIFO holds fewer than 2,048 bundles. -/
  | rowResume (head : Nat)
  /-- R167. Every member has reached the m-th SYNC, so all members resume together. -/
  | syncRelease (head : Nat)
  /-- R168. After a band ends, its results in flight land and the drain ends. -/
  | bandDrainEnd (core : Nat)
  /-- R169. A round without BANDEND by its last deadline is ended, and unfinished bands are aborted. -/
  | roundTimeout (head : Nat)
  /-- R177. At POSE_LEAD lines before LINE0, a band's pose is latched from the pose buffer. -/
  | poseLatch (head band : Nat)
  /-- R178. At a band's deadline, later lines are late and the bisque path forms its homography. -/
  | bandDeadline (head band : Nat)
  /-- R179. A line scans out from the FIFO or from the bisque path and is converted for the link. -/
  | lineScanout (head : Nat)
  /-- R432. The last piece of a FETCH lands in the scratchpad, and f14 or f15 gains 1. -/
  | fetchComplete (core : Nat) (m1 : Bool)
  /-- R435. The sparse-index engine pushes offsets into the GQ at its declared rate. -/
  | gqPush (core : Nat)
  /-- R5. A write to a hub register that has no row of its own follows the access codes. -/
  | hubRegisterWrite (by_ : Writer) (off : Nat) (wide : Bool) (val : W64)
  /-- R17. A failed ICL port or both ports come back, restoring the host link that the scanner and host-memory accesses need. -/
  | iclLinkReturn (port : Nat)
  /-- R37. A refusal from the destination device arrives at the source and fails the REMOTE copy at once with REMOTE_FAIL. -/
  | iftRefusal (copy : Nat)
  /-- R16. A host read, write or atomic arrives over the ICL for device memory and is performed at the line's home. -/
  | iclHostAccess (a : HostAccess)
  /-- R193. A head's frame ends after its blanking lines, and a pending SET_TIMING or OFF takes effect there. -/
  | headFrameEnd (head : Nat)
  /-- R28. The module is removed from its carrier while it is PARKED, which ends the PARKED state. -/
  | moduleRemoval
  deriving DecidableEq, Repr

end Sys2Proof
end

