-- ==== Sys2Proof/Decode.lean ====
section
/-! DEFINITION. The encodings: Xamal words (R296 to R305), Swevar slots and bundles (R397 to R405), kiln bundles (R413, R414).
Decoding parses the fields, checks the rules of the instruction, and accepts a word only if it is the word that the encoder writes
for those fields, so a reserved bit or an unused field that is not 0 is refused. Every function is total; a refusal has a name. -/
namespace Sys2Proof

/-- Bits `[lo + len - 1 : lo]` of a word. -/
def bitsAt (w lo len : Nat) : Nat := w / 2 ^ lo % 2 ^ len

/-! ## Xamal: operand fields -/

/-- The second-word formats (R299). -/
inductive Fmt where
  | i | b | m | c | x
  deriving DecidableEq, Repr

/-- Operand use of an opcode: format and allowed kinds of D, A, B and C. -/
structure Shape where
  fmt : Fmt
  d : Nat
  a : Nat
  b : Nat
  c : Nat
  deriving DecidableEq, Repr

/-- Why a word is not an instruction (R300): each raises ILLEGAL_INSN. -/
inductive Reject where
  /-- no instruction has this opcode (R301, R302) -/
  | unassigned
  /-- L is not allowed for the opcode (R303) -/
  | words
  /-- a mask of 12 to 14 (R296) -/
  | mask
  /-- FN is not defined for the opcode (R304) -/
  | function
  /-- an operand field breaks R297 or the instruction's entry -/
  | operand
  /-- the second word breaks R298 or R299 -/
  | second
  deriving DecidableEq, Repr

/-- The second operand word of format X: its IMM8 (R299). -/
def Ext.imm8 : Ext → BitVec 8
  | .x _ _ _ _ _ _ _ v => v
  | _ => 0

/-- The field of a source (R296). -/
def srcField : Src → Nat
  | .v n _ => n.toNat
  | .s n _ => n.toNat
  | .imm i => i.toNat
  | .mask m => m.toNat
  | .zero => 255

/-- The kind of a source (R297). -/
def srcKind : Src → Nat
  | .v _ _ => 0
  | .s _ _ => 1
  | .imm _ => 2
  | .mask _ => 3
  | .zero => 3

/-- The trap bit of a source (R297). -/
def srcTrap : Src → Nat
  | .v _ t => t.toNat
  | .s _ t => t.toNat
  | _ => 0

/-- A source from its kind, field and trap bit. -/
def mkSrc (k f t : Nat) : Src :=
  if k = 0 then .v (BitVec.ofNat 8 f) (t == 1)
  else if k = 1 then .s (BitVec.ofNat 8 f) (t == 1)
  else if k = 2 then .imm (BitVec.ofNat 8 f)
  else if f = 255 then .zero
  else .mask (BitVec.ofNat 4 f)

/-- The bit of a source's kind in a shape. -/
def srcBit : Src → Nat
  | .v _ _ => 1
  | .s _ _ => 2
  | .imm _ => 4
  | .mask _ => 8
  | .zero => 16

def dstField : Dst → Nat
  | .v n => n.toNat
  | .s n => n.toNat
  | .m n => n.toNat
  | .sp n => n.toNat

def dstKind : Dst → Nat
  | .v _ => 0
  | .s _ => 1
  | .m _ => 2
  | .sp _ => 3

def mkDst (k f : Nat) : Dst :=
  if k = 0 then .v (BitVec.ofNat 8 f)
  else if k = 1 then .s (BitVec.ofNat 8 f)
  else if k = 2 then .m (BitVec.ofNat 8 f)
  else .sp (BitVec.ofNat 8 f)

def dstBit : Dst → Nat
  | .v _ => 1
  | .s _ => 2
  | .m _ => 4
  | .sp _ => 8

/-- Whether a second word follows, by the operand fields. -/
def Ext.present : Ext → Bool
  | .none => false
  | _ => true

/-- The second word (R299). -/
def extWord : Ext → Nat
  | .none => 0
  | .i imm => imm.toNat
  | .b ofs => ofs.toNat
  | .m off scope order uo place cache pgh tag nlm1 =>
    off.toNat + scope.toNat * 2 ^ 24 + order.toNat * 2 ^ 27 + uo.toNat * 2 ^ 30 + place.toNat * 2 ^ 31
      + cache.toNat * 2 ^ 33 + pgh.toNat * 2 ^ 35 + tag.toNat * 2 ^ 37 + nlm1.toNat * 2 ^ 43
  | .c f t slot => f.toNat + t.toNat * 2 ^ 5 + slot.toNat * 2 ^ 10
  | .x st1 st2 za zb fsa fsb row imm8 =>
    st1.toNat + st2.toNat * 2 ^ 2 + za.toNat * 2 ^ 4 + zb.toNat * 2 ^ 10 + fsa.toNat * 2 ^ 16
      + fsb.toNat * 2 ^ 19 + row.toNat * 2 ^ 22 + imm8.toNat * 2 ^ 31

/-- The fields of a second word of a format (R299). -/
def parseExt (f : Fmt) (w : Nat) : Ext :=
  match f with
  | .i => .i (BitVec.ofNat 64 w)
  | .b => .b (BitVec.ofNat 32 w)
  | .m => .m (BitVec.ofNat 24 w) (BitVec.ofNat 3 (w / 2 ^ 24)) (BitVec.ofNat 3 (w / 2 ^ 27)) (bitsAt w 30 1 == 1)
      (BitVec.ofNat 2 (w / 2 ^ 31)) (BitVec.ofNat 2 (w / 2 ^ 33)) (BitVec.ofNat 2 (w / 2 ^ 35))
      (BitVec.ofNat 6 (w / 2 ^ 37)) (BitVec.ofNat 6 (w / 2 ^ 43))
  | .c => .c (BitVec.ofNat 5 w) (BitVec.ofNat 5 (w / 2 ^ 5)) (BitVec.ofNat 3 (w / 2 ^ 10))
  | .x => .x (BitVec.ofNat 2 w) (BitVec.ofNat 2 (w / 2 ^ 2)) (BitVec.ofNat 6 (w / 2 ^ 4)) (BitVec.ofNat 6 (w / 2 ^ 10))
      (BitVec.ofNat 3 (w / 2 ^ 16)) (BitVec.ofNat 3 (w / 2 ^ 19)) (BitVec.ofNat 9 (w / 2 ^ 22)) (BitVec.ofNat 8 (w / 2 ^ 31))

/-- The first word (R296). -/
def packXamal (opc : Nat) (x : XOp) : Nat :=
  x.fn.toNat + srcTrap x.c * 2 ^ 7 + srcTrap x.b * 2 ^ 8 + srcTrap x.a * 2 ^ 9
    + srcKind x.c * 2 ^ 10 + srcKind x.b * 2 ^ 12 + srcKind x.a * 2 ^ 14
    + srcField x.c * 2 ^ 16 + srcField x.b * 2 ^ 24 + srcField x.a * 2 ^ 32
    + dstKind x.dst * 2 ^ 40 + dstField x.dst * 2 ^ 42 + x.mn.toNat * 2 ^ 50 + x.msk.toNat * 2 ^ 51
    + opc * 2 ^ 55 + x.ext.present.toNat * 2 ^ 63

/-- The operand fields of a first word and, where L is 1, a second word (R296, R299). -/
def parseXamal (f : Fmt) (w0 w1 : Nat) : XOp :=
  { msk := BitVec.ofNat 4 (w0 / 2 ^ 51), mn := bitsAt w0 50 1 == 1,
    dst := mkDst (bitsAt w0 40 2) (bitsAt w0 42 8),
    a := mkSrc (bitsAt w0 14 2) (bitsAt w0 32 8) (bitsAt w0 9 1),
    b := mkSrc (bitsAt w0 12 2) (bitsAt w0 24 8) (bitsAt w0 8 1),
    c := mkSrc (bitsAt w0 10 2) (bitsAt w0 16 8) (bitsAt w0 7 1),
    fn := BitVec.ofNat 7 w0,
    ext := if bitsAt w0 63 1 = 1 then parseExt f w1 else .none }

/-! ## Xamal: which words are instructions -/

/-- The operands of an opcode: second-word format, and the kinds allowed for the destination (v 1, s 2, m 4, special 8) and the
sources (v 1, s 2, immediate 4, mask 8, zero 16); 0 is unused (R296, R303 and the entries of 13 to 16). -/
def shapeOf (opc : Nat) : Option Shape :=
  match opc with
  | 0x00 => some ⟨.i, 0, 0, 0, 0⟩
  | 0x01 => some ⟨.b, 0, 0, 0, 0⟩
  | 0x02 => some ⟨.b, 0, 31, 31, 0⟩
  | 0x03 => some ⟨.i, 0, 7, 0, 0⟩
  | 0x04 => some ⟨.b, 3, 0, 0, 0⟩
  | 0x05 => some ⟨.i, 3, 7, 0, 0⟩
  | 0x06 => some ⟨.i, 0, 7, 0, 0⟩
  | 0x07 => some ⟨.i, 0, 0, 0, 0⟩
  | 0x08 => some ⟨.i, 0, 4, 0, 0⟩
  | 0x09 => some ⟨.i, 0, 4, 0, 0⟩
  | 0x0A => some ⟨.i, 0, 0, 0, 0⟩
  | 0x0B => some ⟨.i, 0, 31, 0, 0⟩
  | 0x0C => some ⟨.i, 3, 0, 0, 0⟩
  | 0x0D => some ⟨.i, 8, 31, 0, 0⟩
  | 0x0E => some ⟨.i, 4, 0, 0, 0⟩
  | 0x0F => some ⟨.i, 4, 0, 0, 0⟩
  | 0x10 => some ⟨.i, 4, 0, 0, 0⟩
  | 0x11 => some ⟨.i, 4, 30, 0, 0⟩
  | 0x12 => some ⟨.i, 3, 8, 0, 0⟩
  | 0x13 => some ⟨.i, 4, 31, 0, 0⟩
  | 0x14 => some ⟨.i, 4, 30, 30, 0⟩
  | 0x15 => some ⟨.i, 3, 31, 0, 0⟩
  | 0x16 => some ⟨.i, 3, 31, 0, 0⟩
  | 0x20 => some ⟨.i, 3, 31, 0, 0⟩
  | 0x21 => some ⟨.i, 3, 0, 0, 0⟩
  | 0x22 => some ⟨.i, 3, 31, 31, 0⟩
  | 0x23 => some ⟨.i, 3, 31, 31, 0⟩
  | 0x24 => some ⟨.i, 3, 31, 31, 0⟩
  | 0x25 => some ⟨.i, 3, 31, 31, 0⟩
  | 0x26 => some ⟨.i, 3, 31, 31, 31⟩
  | 0x27 => some ⟨.i, 3, 31, 31, 0⟩
  | 0x28 => some ⟨.i, 3, 31, 31, 0⟩
  | 0x29 => some ⟨.i, 3, 31, 0, 0⟩
  | 0x2A => some ⟨.i, 7, 31, 31, 0⟩
  | 0x2B => some ⟨.i, 3, 31, 31, 31⟩
  | 0x2C => some ⟨.i, 3, 31, 31, 0⟩
  | 0x2D => some ⟨.i, 3, 31, 31, 0⟩
  | 0x2E => some ⟨.i, 3, 31, 31, 0⟩
  | 0x2F => some ⟨.i, 3, 31, 31, 0⟩
  | 0x30 => some ⟨.i, 3, 31, 0, 0⟩
  | 0x31 => some ⟨.i, 3, 31, 31, 0⟩
  | 0x32 => some ⟨.i, 3, 31, 31, 0⟩
  | 0x33 => some ⟨.i, 3, 31, 31, 0⟩
  | 0x34 => some ⟨.i, 3, 31, 31, 0⟩
  | 0x35 => some ⟨.i, 3, 31, 31, 0⟩
  | 0x36 => some ⟨.i, 3, 31, 31, 31⟩
  | 0x37 => some ⟨.i, 3, 31, 0, 0⟩
  | 0x38 => some ⟨.i, 3, 31, 0, 0⟩
  | 0x39 => some ⟨.i, 3, 31, 0, 0⟩
  | 0x3A => some ⟨.i, 3, 31, 31, 31⟩
  | 0x3B => some ⟨.i, 1, 3, 31, 0⟩
  | 0x3C => some ⟨.i, 1, 31, 0, 0⟩
  | 0x3D => some ⟨.i, 3, 31, 0, 0⟩
  | 0x3E => some ⟨.i, 2, 1, 6, 0⟩
  | 0x3F => some ⟨.i, 1, 6, 6, 0⟩
  | 0x40 => some ⟨.i, 3, 31, 31, 31⟩
  | 0x41 => some ⟨.i, 3, 31, 31, 31⟩
  | 0x42 => some ⟨.i, 3, 31, 31, 31⟩
  | 0x43 => some ⟨.i, 3, 31, 31, 31⟩
  | 0x44 => some ⟨.i, 3, 31, 31, 0⟩
  | 0x45 => some ⟨.i, 3, 31, 31, 0⟩
  | 0x46 => some ⟨.i, 7, 31, 31, 0⟩
  | 0x47 => some ⟨.i, 3, 31, 0, 0⟩
  | 0x48 => some ⟨.i, 3, 31, 0, 0⟩
  | 0x50 => some ⟨.i, 3, 31, 0, 0⟩
  | 0x51 => some ⟨.i, 3, 31, 0, 0⟩
  | 0x52 => some ⟨.i, 3, 31, 0, 31⟩
  | 0x53 => some ⟨.i, 3, 31, 31, 31⟩
  | 0x54 => some ⟨.i, 3, 31, 0, 0⟩
  | 0x55 => some ⟨.i, 3, 31, 0, 0⟩
  | 0x56 => some ⟨.i, 3, 31, 0, 0⟩
  | 0x57 => some ⟨.i, 3, 31, 0, 0⟩
  | 0x58 => some ⟨.i, 3, 31, 0, 0⟩
  | 0x59 => some ⟨.i, 3, 31, 0, 0⟩
  | 0x60 => some ⟨.c, 3, 31, 0, 31⟩
  | 0x61 => some ⟨.c, 3, 31, 0, 31⟩
  | 0x62 => some ⟨.c, 3, 31, 7, 31⟩
  | 0x63 => some ⟨.c, 3, 31, 31, 31⟩
  | 0x64 => some ⟨.c, 3, 31, 31, 0⟩
  | 0x70 => some ⟨.i, 3, 31, 31, 0⟩
  | 0x71 => some ⟨.i, 1, 3, 3, 0⟩
  | 0x72 => some ⟨.i, 1, 3, 3, 31⟩
  | 0x73 => some ⟨.i, 1, 3, 3, 31⟩
  | 0x74 => some ⟨.i, 1, 31, 0, 0⟩
  | 0x75 => some ⟨.i, 0, 31, 1, 0⟩
  | 0x76 => some ⟨.i, 0, 7, 1, 4⟩
  | 0x77 => some ⟨.i, 0, 31, 31, 31⟩
  | 0x78 => some ⟨.i, 3, 31, 0, 0⟩
  | 0x79 => some ⟨.i, 0, 0, 0, 0⟩
  | 0x80 => some ⟨.m, 3, 3, 0, 0⟩
  | 0x81 => some ⟨.m, 0, 3, 23, 0⟩
  | 0x82 => some ⟨.m, 2, 2, 0, 0⟩
  | 0x83 => some ⟨.m, 3, 3, 0, 0⟩
  | 0x84 => some ⟨.m, 0, 3, 23, 0⟩
  | 0x85 => some ⟨.m, 0, 3, 0, 0⟩
  | 0x86 => some ⟨.m, 0, 3, 0, 0⟩
  | 0x87 => some ⟨.m, 0, 3, 0, 0⟩
  | 0x88 => some ⟨.m, 0, 3, 0, 0⟩
  | 0x89 => some ⟨.m, 0, 0, 0, 0⟩
  | 0xA0 => some ⟨.m, 3, 3, 31, 0⟩
  | 0xA1 => some ⟨.m, 3, 3, 31, 0⟩
  | 0xA2 => some ⟨.m, 3, 3, 31, 31⟩
  | 0xA3 => some ⟨.m, 0, 3, 31, 0⟩
  | 0xA4 => some ⟨.m, 3, 3, 31, 31⟩
  | 0xB0 => some ⟨.i, 0, 0, 0, 0⟩
  | 0xB1 => some ⟨.i, 0, 0, 0, 0⟩
  | 0xB2 => some ⟨.i, 0, 6, 6, 6⟩
  | 0xB3 => some ⟨.i, 0, 6, 6, 0⟩
  | 0xB4 => some ⟨.i, 3, 31, 31, 31⟩
  | 0xB5 => some ⟨.i, 0, 31, 31, 0⟩
  | 0xB6 => some ⟨.i, 0, 31, 31, 31⟩
  | 0xB7 => some ⟨.i, 3, 31, 31, 0⟩
  | 0xB8 => some ⟨.i, 0, 6, 4, 0⟩
  | 0xB9 => some ⟨.i, 0, 6, 6, 0⟩
  | 0xBA => some ⟨.i, 3, 6, 6, 0⟩
  | 0xBB => some ⟨.i, 0, 6, 6, 6⟩
  | 0xBC => some ⟨.i, 0, 6, 0, 0⟩
  | 0xBD => some ⟨.i, 0, 6, 0, 0⟩
  | 0xBE => some ⟨.i, 0, 3, 0, 0⟩
  | 0xBF => some ⟨.i, 0, 0, 0, 0⟩
  | 0xC0 => some ⟨.i, 0, 31, 0, 0⟩
  | 0xC1 => some ⟨.i, 0, 31, 31, 0⟩
  | 0xC2 => some ⟨.i, 0, 6, 0, 0⟩
  | 0xC3 => some ⟨.i, 2, 6, 0, 0⟩
  | 0xC4 => some ⟨.i, 2, 6, 0, 0⟩
  | 0xC5 => some ⟨.i, 0, 6, 0, 0⟩
  | 0xC6 => some ⟨.i, 0, 3, 0, 0⟩
  | 0xD0 => some ⟨.x, 0, 0, 0, 0⟩
  | 0xD1 => some ⟨.x, 0, 7, 0, 0⟩
  | 0xD2 => some ⟨.x, 0, 0, 0, 0⟩
  | 0xD3 => some ⟨.x, 0, 2, 6, 6⟩
  | 0xD4 => some ⟨.x, 0, 1, 7, 0⟩
  | 0xD5 => some ⟨.x, 1, 0, 7, 0⟩
  | 0xD6 => some ⟨.x, 1, 0, 0, 0⟩
  | 0xD7 => some ⟨.x, 0, 2, 6, 0⟩
  | 0xD8 => some ⟨.x, 0, 2, 0, 0⟩
  | 0xD9 => some ⟨.x, 0, 6, 6, 0⟩
  | 0xDA => some ⟨.x, 0, 6, 6, 0⟩
  | 0xDB => some ⟨.x, 0, 0, 0, 0⟩
  | 0xDC => some ⟨.x, 3, 0, 0, 0⟩
  | 0xDD => some ⟨.x, 0, 6, 0, 0⟩
  | 0xDE => some ⟨.x, 1, 1, 7, 0⟩
  | 0xDF => some ⟨.x, 3, 2, 0, 0⟩
  | _ => none

/-- The instruction of an opcode with its operand fields; where one opcode holds several instructions, FN or IMM8 tells them apart (R302, R304, R385). -/
def mkXamal (opc : Nat) (x : XOp) : Option Instr :=
  match opc with
  | 0x00 => some (.nop x)
  | 0x01 => some (.bra x)
  | 0x02 => some (.brc x)
  | 0x03 => some (.brx x)
  | 0x04 => some (.call x)
  | 0x05 => some (.callx x)
  | 0x06 => some (.ret x)
  | 0x07 => some (.exit x)
  | 0x08 => some (.trap x)
  | 0x09 => some (.bkpt x)
  | 0x0A => some (.yield x)
  | 0x0B => some (.sleep x)
  | 0x0C => some (.gets x)
  | 0x0D => some (.sets x)
  | 0x0E => some (.mjoin x)
  | 0x0F => some (.mleave x)
  | 0x10 => some (.mwait x)
  | 0x11 => some (.mset x)
  | 0x12 => some (.mget x)
  | 0x13 => some (.mbal x)
  | 0x14 => some (.mlog x)
  | 0x15 => some (.mpop x)
  | 0x16 => some (.mfirst x)
  | 0x20 => some (.mov x)
  | 0x21 => some (.movi x)
  | 0x22 => some (.iadd x)
  | 0x23 => some (.isub x)
  | 0x24 => some (.imul x)
  | 0x25 => some (.imulh x)
  | 0x26 => some (.imad x)
  | 0x27 => some (.imin x)
  | 0x28 => some (.imax x)
  | 0x29 => some (.iabs x)
  | 0x2A => some (.icmp x)
  | 0x2B => some (.sel x)
  | 0x2C => some (.and x)
  | 0x2D => some (.or x)
  | 0x2E => some (.xor x)
  | 0x2F => some (.andn x)
  | 0x30 => some (.not x)
  | 0x31 => some (.shl x)
  | 0x32 => some (.shr x)
  | 0x33 => some (.sar x)
  | 0x34 => some (.rot x)
  | 0x35 => some (.bfe x)
  | 0x36 => some (.bfi x)
  | 0x37 => some (.popc x)
  | 0x38 => some (.clz x)
  | 0x39 => some (.brev x)
  | 0x3A => some (.lea x)
  | 0x3B => some (.shfl x)
  | 0x3C => some (.iscan x)
  | 0x3D => some (.iredc x)
  | 0x3E => some (.vtos x)
  | 0x3F => some (.stov x)
  | 0x40 => some (.fadd x)
  | 0x41 => some (.fsub x)
  | 0x42 => some (.fmul x)
  | 0x43 => some (.ffma x)
  | 0x44 => some (.fmin x)
  | 0x45 => some (.fmax x)
  | 0x46 => some (.fcmp x)
  | 0x47 => some (.fclass x)
  | 0x48 => some (.fredc x)
  | 0x50 => some (.frcp x)
  | 0x51 => some (.frsq x)
  | 0x52 => some (.fsqrt x)
  | 0x53 => some (.fdiv x)
  | 0x54 => some (.fexp2 x)
  | 0x55 => some (.flog2 x)
  | 0x56 => some (.fsin x)
  | 0x57 => some (.fcos x)
  | 0x58 => some (.ftanh x)
  | 0x59 => some (.ferf x)
  | 0x60 => some (.cvt x)
  | 0x61 => some (.cvti x)
  | 0x62 => some (.qnt x)
  | 0x63 => some (.pack x)
  | 0x64 => some (.unpk x)
  | 0x70 => some (.attri x)
  | 0x71 => some (.texs x)
  | 0x72 => some (.texl x)
  | 0x73 => some (.texg x)
  | 0x74 => some (.tbld x)
  | 0x75 => some (.tbst x)
  | 0x76 => some (.emitv x)
  | 0x77 => some (.emitp x)
  | 0x78 => some (.cover x)
  | 0x79 => some (.kill x)
  | 0x80 => some (.ld x)
  | 0x81 => some (.st x)
  | 0x82 => some (.ldu x)
  | 0x83 => some (.ldl x)
  | 0x84 => some (.stl x)
  | 0x85 => some (.ldblk x)
  | 0x86 => some (.pref x)
  | 0x87 => some (.wbl x)
  | 0x88 => some (.invl x)
  | 0x89 => some (.fence x)
  | 0xA0 => some (.atom x)
  | 0xA1 => some (.atomf x)
  | 0xA2 => some (.cas x)
  | 0xA3 => some (.red x)
  | 0xA4 => some (.atoml x)
  | 0xB0 => some (.bar x)
  | 0xB1 => some (.cbar x)
  | 0xB2 => some (.flaginc x)
  | 0xB3 => some (.flagwait x)
  | 0xB4 => some (.osenter x)
  | 0xB5 => some (if x.fn = 0 then .osleave x else .osleaveLast x)
  | 0xB6 => some (.osskip x)
  | 0xB7 => some (.osqry x)
  | 0xB8 => some (.publish x)
  | 0xB9 => some (.ringput x)
  | 0xBA => some (.ringget x)
  | 0xBB => some (.ringrel x)
  | 0xBC => some (.reggive x)
  | 0xBD => some (.regclaim x)
  | 0xBE => some (if x.fn = 0 then .taskarm x else .taskarmDec x)
  | 0xBF => some (if x.fn = 0 then .taskend x else .taskendAbort x)
  | 0xC0 => some (.ckick x)
  | 0xC1 => some (.bowait x)
  | 0xC2 => some (.waitall x)
  | 0xC3 => some (.waitany x)
  | 0xC4 => some (.ffready x)
  | 0xC5 => some (.tagclr x)
  | 0xC6 => some (.launch x)
  | 0xD0 => some (if x.fn = 0 then .mma x else .mmas x)
  | 0xD1 => some (.acinit x)
  | 0xD2 => some (.acnorm x)
  | 0xD3 => some (.acdrain x)
  | 0xD4 => some (.acload x)
  | 0xD5 => some (.acrd x)
  | 0xD6 => some (.acguard x)
  | 0xD7 => some (.zld x)
  | 0xD8 => some (.zst x)
  | 0xD9 => some (.zmulp2 x)
  | 0xDA => some (.zmulb x)
  | 0xDB => some (.zcvt x)
  | 0xDC => some (.zmax x)
  | 0xDD => some (.ztag x)
  | 0xDE => some (if x.ext.imm8 = 0 then .zmovR x else .zmovW x)
  | 0xDF => some (if x.fn = 0 then .zsave x else if x.fn = 1 then .zrest x else if x.fn = 2 then .spop x else .sqry x)
  | _ => none

/-- The opcode and the operand fields of a Xamal instruction (R302). -/
def xamalOf (i : Instr) : Option (Nat × XOp) :=
  match i with
  | .nop x => some (0x00, x)
  | .bra x => some (0x01, x)
  | .brc x => some (0x02, x)
  | .brx x => some (0x03, x)
  | .call x => some (0x04, x)
  | .callx x => some (0x05, x)
  | .ret x => some (0x06, x)
  | .exit x => some (0x07, x)
  | .trap x => some (0x08, x)
  | .bkpt x => some (0x09, x)
  | .yield x => some (0x0A, x)
  | .sleep x => some (0x0B, x)
  | .gets x => some (0x0C, x)
  | .sets x => some (0x0D, x)
  | .mjoin x => some (0x0E, x)
  | .mleave x => some (0x0F, x)
  | .mwait x => some (0x10, x)
  | .mset x => some (0x11, x)
  | .mget x => some (0x12, x)
  | .mbal x => some (0x13, x)
  | .mlog x => some (0x14, x)
  | .mpop x => some (0x15, x)
  | .mfirst x => some (0x16, x)
  | .mov x => some (0x20, x)
  | .movi x => some (0x21, x)
  | .iadd x => some (0x22, x)
  | .isub x => some (0x23, x)
  | .imul x => some (0x24, x)
  | .imulh x => some (0x25, x)
  | .imad x => some (0x26, x)
  | .imin x => some (0x27, x)
  | .imax x => some (0x28, x)
  | .iabs x => some (0x29, x)
  | .icmp x => some (0x2A, x)
  | .sel x => some (0x2B, x)
  | .and x => some (0x2C, x)
  | .or x => some (0x2D, x)
  | .xor x => some (0x2E, x)
  | .andn x => some (0x2F, x)
  | .not x => some (0x30, x)
  | .shl x => some (0x31, x)
  | .shr x => some (0x32, x)
  | .sar x => some (0x33, x)
  | .rot x => some (0x34, x)
  | .bfe x => some (0x35, x)
  | .bfi x => some (0x36, x)
  | .popc x => some (0x37, x)
  | .clz x => some (0x38, x)
  | .brev x => some (0x39, x)
  | .lea x => some (0x3A, x)
  | .shfl x => some (0x3B, x)
  | .iscan x => some (0x3C, x)
  | .iredc x => some (0x3D, x)
  | .vtos x => some (0x3E, x)
  | .stov x => some (0x3F, x)
  | .fadd x => some (0x40, x)
  | .fsub x => some (0x41, x)
  | .fmul x => some (0x42, x)
  | .ffma x => some (0x43, x)
  | .fmin x => some (0x44, x)
  | .fmax x => some (0x45, x)
  | .fcmp x => some (0x46, x)
  | .fclass x => some (0x47, x)
  | .fredc x => some (0x48, x)
  | .frcp x => some (0x50, x)
  | .frsq x => some (0x51, x)
  | .fsqrt x => some (0x52, x)
  | .fdiv x => some (0x53, x)
  | .fexp2 x => some (0x54, x)
  | .flog2 x => some (0x55, x)
  | .fsin x => some (0x56, x)
  | .fcos x => some (0x57, x)
  | .ftanh x => some (0x58, x)
  | .ferf x => some (0x59, x)
  | .cvt x => some (0x60, x)
  | .cvti x => some (0x61, x)
  | .qnt x => some (0x62, x)
  | .pack x => some (0x63, x)
  | .unpk x => some (0x64, x)
  | .attri x => some (0x70, x)
  | .texs x => some (0x71, x)
  | .texl x => some (0x72, x)
  | .texg x => some (0x73, x)
  | .tbld x => some (0x74, x)
  | .tbst x => some (0x75, x)
  | .emitv x => some (0x76, x)
  | .emitp x => some (0x77, x)
  | .cover x => some (0x78, x)
  | .kill x => some (0x79, x)
  | .ld x => some (0x80, x)
  | .st x => some (0x81, x)
  | .ldu x => some (0x82, x)
  | .ldl x => some (0x83, x)
  | .stl x => some (0x84, x)
  | .ldblk x => some (0x85, x)
  | .pref x => some (0x86, x)
  | .wbl x => some (0x87, x)
  | .invl x => some (0x88, x)
  | .fence x => some (0x89, x)
  | .atom x => some (0xA0, x)
  | .atomf x => some (0xA1, x)
  | .cas x => some (0xA2, x)
  | .red x => some (0xA3, x)
  | .atoml x => some (0xA4, x)
  | .bar x => some (0xB0, x)
  | .cbar x => some (0xB1, x)
  | .flaginc x => some (0xB2, x)
  | .flagwait x => some (0xB3, x)
  | .osenter x => some (0xB4, x)
  | .osskip x => some (0xB6, x)
  | .osqry x => some (0xB7, x)
  | .publish x => some (0xB8, x)
  | .ringput x => some (0xB9, x)
  | .ringget x => some (0xBA, x)
  | .ringrel x => some (0xBB, x)
  | .reggive x => some (0xBC, x)
  | .regclaim x => some (0xBD, x)
  | .ckick x => some (0xC0, x)
  | .bowait x => some (0xC1, x)
  | .waitall x => some (0xC2, x)
  | .waitany x => some (0xC3, x)
  | .ffready x => some (0xC4, x)
  | .tagclr x => some (0xC5, x)
  | .launch x => some (0xC6, x)
  | .acinit x => some (0xD1, x)
  | .acnorm x => some (0xD2, x)
  | .acdrain x => some (0xD3, x)
  | .acload x => some (0xD4, x)
  | .acrd x => some (0xD5, x)
  | .acguard x => some (0xD6, x)
  | .zld x => some (0xD7, x)
  | .zst x => some (0xD8, x)
  | .zmulp2 x => some (0xD9, x)
  | .zmulb x => some (0xDA, x)
  | .zcvt x => some (0xDB, x)
  | .zmax x => some (0xDC, x)
  | .ztag x => some (0xDD, x)
  | .osleave x => some (0xB5, x)
  | .osleaveLast x => some (0xB5, x)
  | .taskarm x => some (0xBE, x)
  | .taskarmDec x => some (0xBE, x)
  | .taskend x => some (0xBF, x)
  | .taskendAbort x => some (0xBF, x)
  | .mma x => some (0xD0, x)
  | .mmas x => some (0xD0, x)
  | .zmovR x => some (0xDE, x)
  | .zmovW x => some (0xDE, x)
  | .zsave x => some (0xDF, x)
  | .zrest x => some (0xDF, x)
  | .spop x => some (0xDF, x)
  | .sqry x => some (0xDF, x)
  | _ => none
/-- The special numbers of R305. -/
def specialAssigned (n : Nat) : Bool := n ≤ 0x0D || (0x10 ≤ n && n ≤ 0x14) || (0x18 ≤ n && n ≤ 0x1C)

/-- The specials of 64 bits (R305). -/
def special64 (n : Nat) : Bool := n == 0x08 || n == 0x09 || n == 0x0D || n == 0x11 || n == 0x12

/-- Whether FN is defined for an opcode (R304 and the entries). -/
def fnOk (opc fn : Nat) : Bool :=
  let sub := fn / 8
  if opc = 0x02 then fn % 4 < 3 && fn / 4 % 2 == 0 && sub < 6
  else if opc = 0x0C then specialAssigned fn
  else if opc = 0x14 then fn < 5
  else if opc < 0x20 then fn == 0
  else if opc < 0x40 then
    fn % 4 < 3 &&
    (if opc = 0x22 ∨ opc = 0x23 then sub < 2
     else if opc = 0x2A then sub < 6
     else if opc = 0x29 then sub == 0 && fn % 4 ≠ 1
     else if opc = 0x3B then sub < 4 && fn / 4 % 2 == 0
     else if opc = 0x3C then sub % 8 < 6 && fn / 4 % 2 == 0
     else if opc = 0x3D then sub < 6 && fn / 4 % 2 == 0
     else if opc = 0x3E ∨ opc = 0x3F then sub == 0 && fn / 4 % 2 == 0
     else sub == 0)
  else if opc < 0x60 then
    fn % 8 < 4 &&
    (if opc = 0x40 ∨ opc = 0x41 ∨ opc = 0x42 ∨ opc = 0x52 ∨ opc = 0x53 then sub < 3
     else if opc = 0x43 then sub < 2
     else if opc = 0x46 then sub < 8
     else if opc = 0x48 then sub < 3
     else if 0x54 ≤ opc then sub == 0 && fn % 8 ≠ 1
     else sub == 0)
  else if opc < 0x70 then
    fn < 16 && fn / 4 < 3 && (opc ≠ 0x64 || fn == 0)
  else if opc < 0x80 then
    (if opc = 0x74 ∨ opc = 0x75 then fn < 6 else if opc = 0x77 then fn < 8 else fn == 0)
  else if opc < 0xA0 then
    (if opc = 0x80 ∨ opc = 0x82 ∨ opc = 0x83 then fn < 16 && fn % 8 < 5 && (fn < 8 || fn % 8 < 2)
     else if opc = 0x81 ∨ opc = 0x84 then fn < 5
     else fn == 0)
  else if opc < 0xB0 then
    let aop := fn % 16
    let at_ := fn / 16
    let f := 3 ≤ at_ && at_ ≤ 6 && (aop == 0 || aop == 4 || aop == 5)
    (if opc = 0xA0 then at_ ≤ 1 && aop ≤ 8
     else if opc = 0xA1 then f
     else if opc = 0xA2 then at_ ≤ 2 && aop == 9
     else if opc = 0xA3 then (at_ ≤ 1 && aop ≤ 7) || f
     else at_ ≤ 1 && aop ≤ 9)
  else if opc < 0xD0 then
    (if opc = 0xB5 ∨ opc = 0xBE ∨ opc = 0xBF then fn < 2 else fn == 0)
  else
    (if opc = 0xD0 then fn < 2
     else if opc = 0xD3 then fn < 16 && fn % 8 < 5
     else if opc = 0xDF then fn < 4
     else fn == 0)

/-- The kinds that each operand may have in this word: sources that only some forms use are unused in the others
(R304 SR, MLOG NOT, R363 CAS, R385). RM 3 takes r from C when its slot says so: that is decided against the launch's slots (R342). -/
def usesOf (opc : Nat) (x : XOp) (s : Shape) : Shape :=
  let fn := x.fn.toNat
  if opc = 0x40 ∨ opc = 0x41 ∨ opc = 0x42 ∨ opc = 0x52 ∨ opc = 0x53 then
    if fn / 8 = 2 then s else { s with c := 0 }
  else if 0x60 ≤ opc ∧ opc ≤ 0x63 then
    if 2 ≤ fn % 4 then s else { s with c := 0 }
  else if opc = 0x14 then if fn = 4 then { s with b := 0 } else s
  else if opc = 0xA4 then if fn % 16 = 9 then s else { s with c := 0 }
  else if opc = 0xDE then
    if x.ext.imm8 = 0 then { s with a := 0 } else { s with d := 0 }
  else if opc = 0xDF then
    if fn = 0 ∨ fn = 1 then { s with d := 0 } else if fn = 2 then { s with d := 0, a := 0 } else { s with a := 0 }
  else s

/-- A source against its allowed kinds: mask numbers up to 11, and an unused field 0 (R297). -/
def srcOk (use : Nat) (s : Src) : Bool :=
  (if use = 0 then s == .v 0 false else use / srcBit s % 2 == 1) &&
  (match s with | .mask m => m.toNat ≤ 11 | _ => true)

/-- A destination against its allowed kinds (R297). -/
def dstOk (use : Nat) (d : Dst) : Bool :=
  (if use = 0 then d == .v 0 else use / dstBit d % 2 == 1) &&
  (match d with | .m n => n.toNat ≤ 11 | _ => true)

/-- Operand rules that go beyond the kinds: SETS (R305, R322), ICMP and FCMP into a mask (R327, R338), `.UNI` (R304), MGET (R325),
stores of 128 bits and atomics with immediates (R359, R363). (DEDUCED, log 12.) -/
def operandExtra (opc : Nat) (x : XOp) : Bool :=
  let fn := x.fn.toNat
  let isImm (s : Src) : Bool := srcKind s == 2
  if opc = 0x0D then
    match x.dst with
    | .sp n => specialAssigned n.toNat && !(special64 n.toNat && isImm x.a)
    | _ => false
  else if opc = 0x46 then
    match x.dst with
    | .m _ => fn % 8 < 2
    | _ => true
  else if 0x20 ≤ opc ∧ opc < 0x40 then
    if fn / 4 % 2 = 1 then
      dstKind x.dst == 1 && (srcKind x.a != 0 || x.a == .v 0 false && opc == 0x21)
        && (srcKind x.b != 0 || x.b == .v 0 false) && (srcKind x.c != 0 || x.c == .v 0 false)
    else true
  else if opc = 0x81 ∨ opc = 0x84 then !(fn == 4 && isImm x.b)
  else if 0xA0 ≤ opc ∧ opc < 0xB0 then
    let at_ := fn / 16
    at_ == 0 || at_ == 1 || at_ == 5 || at_ == 6 || !(isImm x.b || isImm x.c)
  else true

/-- In a `.UNI` form every used source is `s`, immediate or mask (R304): a used source of kind `v` is refused. -/
def uniOk (opc : Nat) (x : XOp) (s : Shape) : Bool :=
  if 0x20 ≤ opc ∧ opc < 0x40 ∧ x.fn.toNat / 4 % 2 = 1 then
    (s.a == 0 || srcKind x.a != 0) && (s.b == 0 || srcKind x.b != 0) && (s.c == 0 || srcKind x.c != 0)
  else true

/-- How many of the sources are immediates. -/
def immCount (x : XOp) : Nat :=
  (if srcKind x.a = 2 then 1 else 0) + (if srcKind x.b = 2 then 1 else 0) + (if srcKind x.c = 2 then 1 else 0)

/-- Order and scope of a memory instruction (R248, R361). -/
def orderOk (opc order scope : Nat) : Bool :=
  order ≤ 4 && scope ≤ 4 && (order ≠ 4 || 3 ≤ scope) &&
  (if opc = 0x80 ∨ opc = 0x82 ∨ opc = 0x85 then order == 0 || order == 1 || order == 4
   else if opc = 0x81 then order == 0 || order == 2 || order == 4
   else if opc = 0x83 then scope ≤ 1 && (order == 0 || order == 1)
   else if opc = 0x84 then scope ≤ 1 && (order == 0 || order == 2)
   else if opc = 0x86 ∨ opc = 0x87 ∨ opc = 0x88 then order == 0
   else if opc = 0x89 then order ≠ 0
   else if opc = 0xA4 then scope ≤ 1 && order ≠ 4
   else true)

/-- A type code of format C that names an element format of R225, or a slot. -/
def isElem (c : Nat) : Bool := c ≤ 10 || c == 18

/-- Type codes that a conversion accepts, before the launch's slots are read (R343 to R346). (DEDUCED, log 12.) -/
def convOk (opc f t : Nat) : Bool :=
  let narrow (c : Nat) : Bool := c == 0 || (3 ≤ c && c ≤ 9) || c == 18
  let int (c : Nat) : Bool := 12 ≤ c && c ≤ 15
  let flt (c : Nat) : Bool := (c ≤ 11 && c ≠ 7) || c == 18
  if opc = 0x60 then
    ((f ≤ 11 || f == 18) && (t ≤ 11 || t == 18)) || (f == 16 && t == 17) || (f == 17 && t == 16)
  else if opc = 0x61 then (int f && flt t) || (flt f && int t)
  else if opc = 0x62 then (f == 9 || f == 10 || f == 11 || f == 18) && (t ≤ 9 || t == 18)
  else if opc = 0x63 then f == 10 && narrow t
  else narrow f && t == 10

/-- The fields of format X that an instruction uses (R385, R390, R392), as masks over ST1, ST2, ZA, ZB, FSA, FSB, ROW, IMM8. -/
def extXOk (opc fn : Nat) (st1 st2 za zb fsa fsb row imm8 : Nat) : Bool :=
  let z (b : Bool) (n : Nat) : Bool := b || n == 0
  let use (uSt1 uSt2 uZa uZb uFsa uFsb uRow uImm : Bool) : Bool :=
    z uSt1 st1 && z uSt2 st2 && z uZa za && z uZb zb && z uFsa fsa && z uFsb fsb && z uRow row && z uImm imm8
  let t := true
  let n := false
  if opc = 0xD0 then
    use t t t t t t t n && st1 ≤ 1 && 2 ≤ st2 && (za ≤ 31 || za == 63) && (zb ≤ 31 || zb == 63) && row % 128 == 0
  else if opc = 0xD1 ∨ opc = 0xD4 ∨ opc = 0xD5 ∨ opc = 0xD6 then use n n n n n n t n
  else if opc = 0xD2 then use n n n n n n t t
  else if opc = 0xD3 then use n n n n n n t t && imm8 ≤ 63
  else za ≤ 31 &&
    (if opc = 0xD7 ∨ opc = 0xDB then use n n t n t n n t && imm8 ≤ 1
     else if opc = 0xD8 ∨ opc = 0xDC ∨ opc = 0xDE then use n n t n n n n t && imm8 ≤ 1
     else if opc = 0xD9 ∨ opc = 0xDA then use n n t n n n n n
     else if opc = 0xDD then use n n t n t n n n
     else if fn ≤ 1 then use n n t n n n n n
     else use t n n n n n n n)

/-- The second word against R298, R299, R303 and the entries. -/
def extOk (opc : Nat) (x : XOp) (f : Fmt) : Bool :=
  match f, x.ext with
  | .i, .none =>
    opc ≠ 0x21 &&
    (opc ≠ 0x76 || (match x.c with | .imm k => k.toNat ≤ 16 | _ => false))
  | .i, .i imm =>
    if opc = 0x21 then x.fn.toNat % 4 == 2 || imm.toNat < 2 ^ 32
    else imm.toNat < 2 ^ 32 &&
      (if opc = 0xB8 then x.a == .imm 0
       else immCount x == 1 && (srcKind x.a != 2 || x.a == .imm 0) && (srcKind x.b != 2 || x.b == .imm 0)
         && (srcKind x.c != 2 || x.c == .imm 0)) &&
      (opc ≠ 0x76 || imm.toNat ≤ 16)
  | .b, .b ofs => ofs.toNat % 8 == 0
  | .c, .c f t slot =>
    convOk opc f.toNat t.toNat && (f.toNat == 18 || t.toNat == 18 ||
      (slot == 0 && x.fn.toNat % 4 ≠ 3 && x.fn.toNat / 4 ≠ 2))
  | .m, .m off scope order uo place cache pgh tag nlm1 =>
    orderOk opc order.toNat scope.toNat && place ≠ 3 && cache ≠ 3 &&
    (!uo || opc == 0x89) && (opc ≠ 0x89 || off == 0) &&
    (opc == 0x85 || (tag == 0 && nlm1 == 0)) &&
    (0xA0 ≤ opc || place == 0) &&
    (!(opc == 0x83 || opc == 0x84 || opc == 0xA4) || (place == 0 && cache == 0 && pgh == 0))
  | .x, .x st1 st2 za zb fsa fsb row imm8 =>
    extXOk opc x.fn.toNat st1.toNat st2.toNat za.toNat zb.toNat fsa.toNat fsb.toNat row.toNat imm8.toNat
  | _, _ => false

/-- The checks of R300 in their order, the operand and second-word checks by name. -/
def checkXamal (opc : Nat) (x : XOp) : Except Reject Unit :=
  match shapeOf opc with
  | none => .error .unassigned
  | some s =>
    let u := usesOf opc x s
    if 12 ≤ x.msk.toNat ∧ x.msk.toNat ≤ 14 then .error .mask
    else if !fnOk opc x.fn.toNat then .error .function
    else if !(dstOk u.d x.dst && srcOk u.a x.a && srcOk u.b x.b && srcOk u.c x.c && uniOk opc x u && operandExtra opc x) then
      .error .operand
    else if !extOk opc x s.fmt then .error .second
    else .ok ()

/-- Whether L may have this value for an opcode (R303). -/
def wordsOk (opc : Nat) (f : Fmt) (l : Nat) : Bool :=
  match f with
  | .i => opc ≠ 0x21 || l == 1
  | _ => l == 1

/-- Decode the words at a pc (R300): the instruction, or why there is none. `w1` is read only where L of `w0` is 1. -/
def decodeXamal (w0 w1 : Nat) : Except Reject Instr :=
  let opc := bitsAt w0 55 8
  match shapeOf opc with
  | none => .error .unassigned
  | some s =>
    if !wordsOk opc s.fmt (bitsAt w0 63 1) then .error .words
    else
      let x := parseXamal s.fmt w0 w1
      match checkXamal opc x with
      | .error e => .error e
      | .ok () =>
        if packXamal opc x ≠ w0 then .error .operand
        else if x.ext.present ∧ extWord x.ext ≠ w1 then .error .second
        else match mkXamal opc x with
          | none => .error .unassigned
          | some i => .ok i

/-- The words of a Xamal instruction: one or two 64-bit words (R296). -/
def encodeXamal (opc : Nat) (x : XOp) : Nat × Option Nat :=
  (packXamal opc x, if x.ext.present then some (extWord x.ext) else none)

/-! ## Swevar slots -/

/-- An encoded instruction: Xamal words, or one slot of a Swevar or kiln bundle by its kind (R397, R413). -/
inductive Enc where
  | xamal (w0 : Nat) (w1 : Option Nat)
  | seq (w : Nat)
  | scalar (w : Nat)
  | vec (w : Nat)
  | sf (w : Nat)
  | mem (w : Nat)
  | sync (w : Nat)
  | kc (w : Nat)
  deriving DecidableEq, Repr

/-- A sequencer word (R398). -/
def seqWord (op q sub n imm : Nat) : Nat := imm + n * 2 ^ 16 + sub * 2 ^ 20 + q * 2 ^ 23 + op * 2 ^ 27
/-- A scalar word (R399). -/
def scalarWord (i opc d a b : Nat) : Nat := b + a * 2 ^ 16 + d * 2 ^ 21 + opc * 2 ^ 26 + i * 2 ^ 31
/-- A vector word (R400). -/
def vecWord (op : Nat) (x : VOp) : Nat :=
  x.fn.toNat + x.c.toNat * 2 ^ 10 + x.b.toNat * 2 ^ 16 + x.a.toNat * 2 ^ 22 + x.d.toNat * 2 ^ 28 + x.pred.toNat * 2 ^ 34
    + x.ty.toNat * 2 ^ 38 + op * 2 ^ 42
/-- An SF word (R401). -/
def sfWord (op : Nat) (x : FOp) : Nat :=
  x.fn.toNat + x.a.toNat * 2 ^ 7 + x.d.toNat * 2 ^ 13 + x.pred.toNat * 2 ^ 19 + x.ty.toNat * 2 ^ 23 + op * 2 ^ 27
/-- A memory word (R402). -/
def memWord (op : Nat) (x : MOp) : Nat :=
  x.imm.toNat + x.a.toNat * 2 ^ 20 + x.d.toNat * 2 ^ 25 + x.pred.toNat * 2 ^ 31 + op * 2 ^ 35
/-- A SYNC field (R403). -/
def syncWord (op n f : Nat) : Nat := f + n * 2 ^ 4 + op * 2 ^ 6
/-- A kiln control word (R413). -/
def kcWord (cop ra imm : Nat) : Nat := imm + ra * 2 ^ 23 + cop * 2 ^ 28

/-- Bits of a vector element (R400, R418). -/
def typeBits (ty : Nat) : Nat :=
  if ty = 0 ∨ ty = 1 ∨ ty = 9 ∨ ty = 10 then 8
  else if ty = 2 ∨ ty = 3 ∨ ty = 7 ∨ ty = 8 then 16
  else if ty = 4 ∨ ty = 5 ∨ ty = 6 then 32
  else 4

/-- The integer types S8 to N32, S4 and N4. -/
def typeInt (ty : Nat) : Bool := ty ≤ 5 || ty == 11 || ty == 12
/-- The floating-point types that arithmetic accepts: F32, BF16, F16. -/
def typeFlt (ty : Nat) : Bool := 6 ≤ ty && ty ≤ 8

/-- TYPE, FN, unused fields and destination of a vector operation (R400, R419, R423 to R427). -/
def vecOk (op : Nat) (x : VOp) : Bool :=
  let ty := x.ty.toNat
  let fn := x.fn.toNat
  let d := x.d.toNat
  let one := x.b == 0 && x.c == 0
  let two := x.c == 0
  let arith := if typeFlt ty then fn % 4 < 2 && fn / 4 % 2 == 0 else fn % 4 == 0
  let wide := fn / 8 % 2 == 1
  x.pred.toNat ≤ 8 && ty ≤ 12 &&
  (if 1 ≤ op ∧ op ≤ 3 then
     two && (typeInt ty || typeFlt ty) && fn < 16 && arith && (!wide || (typeBits ty < 32 && d % 2 == 0))
   else if op = 4 ∨ op = 5 then two && (typeInt ty || typeFlt ty) && fn == 0
   else if 6 ≤ op ∧ op ≤ 8 then two && fn == 0
   else if op = 9 then
     two && typeBits ty ≠ 4 && d < 8 && (fn < 6 || (fn == 6 && 6 ≤ ty && ty ≤ 10))
   else if op = 10 then one && typeInt ty && fn < typeBits ty
   else if op = 11 then one && typeInt ty && fn < 64 && fn % 32 < typeBits ty
   else if op = 12 then (typeInt ty || typeFlt ty) && fn < 8 && arith
   else if op = 13 then fn == 0
   else if op = 14 then
     one && fn % 16 ≤ 12 && fn / 16 % 4 < 2 && fn < 128 &&
     (let ws := typeBits (fn % 16)
      let wd := typeBits ty
      wd ≤ ws || (wd / ws ≤ 4 && d % (wd / ws) == 0))
   else if op = 15 then two && fn == 0
   else if op = 16 then one && fn == 0 && x.a.toNat < 32
   else if op = 17 then
     one && fn < 4 && x.pred == 8 && (ty == 7 || ty == 9 || ty == 10) && d % 2 == 0
   else false)

/-- TYPE, FN and unused fields of an SF operation (R401, R428, R429). -/
def sfOk (op : Nat) (x : FOp) : Bool :=
  let ty := x.ty.toNat
  let fn := x.fn.toNat
  x.pred.toNat ≤ 8 &&
  (if 1 ≤ op ∧ op ≤ 4 then typeFlt ty && fn == 0
   else if op = 5 then
     ty ≤ 8 && fn < 64 && fn % 4 < 3 && x.d.toNat < 4 && 4096 / typeBits ty / 2 ^ (fn / 4 % 8) ≤ 128
   else if op = 6 then ty == 6 && fn == 0 && x.a.toNat < 4
   else false)

/-- PRED, fields and unused fields of a memory operation (R402). -/
def memOk (op : Nat) (x : MOp) : Bool :=
  let d := x.d.toNat
  (if op = 1 ∨ op = 2 ∨ op = 3 then x.pred.toNat ≤ 8 else x.pred == 8) &&
  (if op = 1 ∨ op = 2 ∨ op = 3 then true
   else if op = 4 then d < 32 && x.imm.toNat ≠ 0 && x.imm.toNat % 32 == 0
   else if op = 5 then d < 32
   else if op = 6 then x.a == 0 && x.imm == 0
   else if op = 7 then d < 32 && d % 2 == 0 && x.a == 0 && x.imm == 0
   else if op = 8 then d < 8
   else if op = 9 then d < 3
   else false)

/-- The encoding of a slot operation (R398 to R403, R413); none for a Xamal instruction or an event. -/
def encodeSlot (i : Instr) : Option Enc :=
  match i with
  | .sqnop => some (.seq 0)
  | .sqloop q t => some (.seq (seqWord 1 q.toNat 0 0 t.toNat))
  | .sqbr q cond t => some (.seq (seqWord 2 q.toNat cond.toNat 0 t.toNat))
  | .sqset q imm => some (.seq (seqWord 3 q.toNat 0 0 imm.toNat))
  | .sqadd q imm => some (.seq (seqWord 4 q.toNat 0 0 imm.toNat))
  | .swSync => some (.seq (seqWord 5 0 0 0 0))
  | .banklock n banks => some (.seq (seqWord 6 0 0 n.toNat banks.toNat))
  | .bandend => some (.seq (seqWord 7 0 0 0 0))
  | .swScalarNop => some (.scalar 0)
  | .swAddReg d a b => some (.scalar (scalarWord 0 1 d.toNat a.toNat b.toNat))
  | .swAddImm d a imm => some (.scalar (scalarWord 1 1 d.toNat a.toNat imm.toNat))
  | .swSubReg d a b => some (.scalar (scalarWord 0 2 d.toNat a.toNat b.toNat))
  | .swSubImm d a imm => some (.scalar (scalarWord 1 2 d.toNat a.toNat imm.toNat))
  | .swMulReg d a b => some (.scalar (scalarWord 0 3 d.toNat a.toNat b.toNat))
  | .swMulImm d a imm => some (.scalar (scalarWord 1 3 d.toNat a.toNat imm.toNat))
  | .swAndReg d a b => some (.scalar (scalarWord 0 4 d.toNat a.toNat b.toNat))
  | .swAndImm d a imm => some (.scalar (scalarWord 1 4 d.toNat a.toNat imm.toNat))
  | .swOrReg d a b => some (.scalar (scalarWord 0 5 d.toNat a.toNat b.toNat))
  | .swOrImm d a imm => some (.scalar (scalarWord 1 5 d.toNat a.toNat imm.toNat))
  | .swXorReg d a b => some (.scalar (scalarWord 0 6 d.toNat a.toNat b.toNat))
  | .swXorImm d a imm => some (.scalar (scalarWord 1 6 d.toNat a.toNat imm.toNat))
  | .swShlReg d a b => some (.scalar (scalarWord 0 7 d.toNat a.toNat b.toNat))
  | .swShlImm d a imm => some (.scalar (scalarWord 1 7 d.toNat a.toNat imm.toNat))
  | .swShrReg d a b => some (.scalar (scalarWord 0 8 d.toNat a.toNat b.toNat))
  | .swShrImm d a imm => some (.scalar (scalarWord 1 8 d.toNat a.toNat imm.toNat))
  | .swSarReg d a b => some (.scalar (scalarWord 0 9 d.toNat a.toNat b.toNat))
  | .swSarImm d a imm => some (.scalar (scalarWord 1 9 d.toNat a.toNat imm.toNat))
  | .swMovi d imm => some (.scalar (scalarWord 1 10 d.toNat 0 imm.toNat))
  | .swMovh d imm => some (.scalar (scalarWord 1 11 d.toNat 0 imm.toNat))
  | .swCmpReg d a cond b => some (.scalar (scalarWord 0 12 d.toNat a.toNat (b.toNat + cond.toNat * 2 ^ 13)))
  | .swCmpImm d a cond imm => some (.scalar (scalarWord 1 12 d.toNat a.toNat (imm.toNat + cond.toNat * 2 ^ 13)))
  | .swSel d a c b => some (.scalar (scalarWord 0 13 d.toNat a.toNat (b.toNat + c.toNat * 2 ^ 5)))
  | .lds d a imm => some (.scalar (scalarWord 1 14 d.toNat a.toNat imm.toNat))
  | .sts d a imm => some (.scalar (scalarWord 1 15 d.toNat a.toNat imm.toNat))
  | .pred p imm => some (.scalar (scalarWord 1 16 p.toNat 0 imm.toNat))
  | .swVectorNop => some (.vec 0)
  | .vadd x => some (.vec (vecWord 1 x))
  | .vsub x => some (.vec (vecWord 2 x))
  | .vmul x => some (.vec (vecWord 3 x))
  | .vmin x => some (.vec (vecWord 4 x))
  | .vmax x => some (.vec (vecWord 5 x))
  | .vand x => some (.vec (vecWord 6 x))
  | .vor x => some (.vec (vecWord 7 x))
  | .vxor x => some (.vec (vecWord 8 x))
  | .vcmp x => some (.vec (vecWord 9 x))
  | .vshl x => some (.vec (vecWord 10 x))
  | .vshr x => some (.vec (vecWord 11 x))
  | .vfma x => some (.vec (vecWord 12 x))
  | .vsel x => some (.vec (vecWord 13 x))
  | .vcvt x => some (.vec (vecWord 14 x))
  | .vperm x => some (.vec (vecWord 15 x))
  | .vbcast x => some (.vec (vecWord 16 x))
  | .mxm x => some (.vec (vecWord 17 x))
  | .swSfNop => some (.sf 0)
  | .vrcp x => some (.sf (sfWord 1 x))
  | .vrsq x => some (.sf (sfWord 2 x))
  | .vexp2 x => some (.sf (sfWord 3 x))
  | .vlog2 x => some (.sf (sfWord 4 x))
  | .swRed x => some (.sf (sfWord 5 x))
  | .psmov x => some (.sf (sfWord 6 x))
  | .swMemoryNop => some (.mem 0)
  | .spld x => some (.mem (memWord 1 x))
  | .spst x => some (.mem (memWord 2 x))
  | .gath x => some (.mem (memWord 3 x))
  | .fetch x => some (.mem (memWord 4 x))
  | .lineout x => some (.mem (memWord 5 x))
  | .poseget x => some (.mem (memWord 6 x))
  | .srcgen x => some (.mem (memWord 7 x))
  | .mxl x => some (.mem (memWord 8 x))
  | .sixcfg x => some (.mem (memWord 9 x))
  | .swSyncNop => some (.sync 0)
  | .fwait n f => some (.sync (syncWord 1 n.toNat f.toNat))
  | .fpost n f => some (.sync (syncWord 2 n.toNat f.toNat))
  | .fclr f => some (.sync (syncWord 3 0 f.toNat))
  | .kcNext => some (.kc 0)
  | .kcJmp t => some (.kc (kcWord 1 0 t.toNat))
  | .kcBrz a t => some (.kc (kcWord 2 a.toNat t.toNat))
  | .kcBrnz a t => some (.kc (kcWord 3 a.toNat t.toNat))
  | .kcCall a t => some (.kc (kcWord 4 a.toNat t.toNat))
  | .kcRet a => some (.kc (kcWord 5 a.toNat 0))
  | .kcIord a port => some (.kc (kcWord 6 a.toNat port.toNat))
  | .kcIowr a port => some (.kc (kcWord 7 a.toNat port.toNat))
  | .kcWaitcyc off => some (.kc (kcWord 8 0 off.toNat))
  | .kcEvpop a src => some (.kc (kcWord 9 a.toNat src.toNat))
  | _ => none

/-- The rules that the fields of a slot operation obey (R398 to R403, R413). -/
def slotOk (i : Instr) : Bool :=
  match i with
  | .sqbr q cond _ => cond.toNat < 5 && (cond ≠ 0 || q == 0)
  | .swCmpReg _ _ cond _ => cond.toNat < 6
  | .swCmpImm _ _ cond _ => cond.toNat < 6
  | .kcIord a _ => a.toNat % 2 == 0
  | .kcIowr a _ => a.toNat % 2 == 0
  | .kcEvpop a _ => a.toNat % 4 == 0
  | .vadd x => vecOk 1 x
  | .vsub x => vecOk 2 x
  | .vmul x => vecOk 3 x
  | .vmin x => vecOk 4 x
  | .vmax x => vecOk 5 x
  | .vand x => vecOk 6 x
  | .vor x => vecOk 7 x
  | .vxor x => vecOk 8 x
  | .vcmp x => vecOk 9 x
  | .vshl x => vecOk 10 x
  | .vshr x => vecOk 11 x
  | .vfma x => vecOk 12 x
  | .vsel x => vecOk 13 x
  | .vcvt x => vecOk 14 x
  | .vperm x => vecOk 15 x
  | .vbcast x => vecOk 16 x
  | .mxm x => vecOk 17 x
  | .vrcp x => sfOk 1 x
  | .vrsq x => sfOk 2 x
  | .vexp2 x => sfOk 3 x
  | .vlog2 x => sfOk 4 x
  | .swRed x => sfOk 5 x
  | .psmov x => sfOk 6 x
  | .spld x => memOk 1 x
  | .spst x => memOk 2 x
  | .gath x => memOk 3 x
  | .fetch x => memOk 4 x
  | .lineout x => memOk 5 x
  | .poseget x => memOk 6 x
  | .srcgen x => memOk 7 x
  | .mxl x => memOk 8 x
  | .sixcfg x => memOk 9 x
  | _ => true

/-- A candidate is accepted when its rules hold and it encodes to the word (R405). -/
def accept (i : Instr) (e : Enc) : Option Instr :=
  if slotOk i && encodeSlot i == some e then some i else none

/-- Decode a sequencer field (R398). -/
def decodeSeq (w : Nat) : Option Instr :=
  let q := BitVec.ofNat 4 (w / 2 ^ 23)
  let imm := BitVec.ofNat 16 w
  match bitsAt w 27 5 with
  | 0 => accept .sqnop (.seq w)
  | 1 => accept (.sqloop q imm) (.seq w)
  | 2 => accept (.sqbr q (BitVec.ofNat 3 (w / 2 ^ 20)) imm) (.seq w)
  | 3 => accept (.sqset q imm) (.seq w)
  | 4 => accept (.sqadd q imm) (.seq w)
  | 5 => accept .swSync (.seq w)
  | 6 => accept (.banklock (BitVec.ofNat 4 (w / 2 ^ 16)) imm) (.seq w)
  | 7 => accept .bandend (.seq w)
  | _ => none

/-- Decode a scalar slot (R399). -/
def decodeScalar (w : Nat) : Option Instr :=
  let d := BitVec.ofNat 5 (w / 2 ^ 21)
  let a := BitVec.ofNat 5 (w / 2 ^ 16)
  let b := BitVec.ofNat 5 w
  let imm := BitVec.ofNat 16 w
  match bitsAt w 26 6 with
  | 0 => accept .swScalarNop (.scalar w)
  | 1 => accept (.swAddReg d a b) (.scalar w)
  | 33 => accept (.swAddImm d a imm) (.scalar w)
  | 2 => accept (.swSubReg d a b) (.scalar w)
  | 34 => accept (.swSubImm d a imm) (.scalar w)
  | 3 => accept (.swMulReg d a b) (.scalar w)
  | 35 => accept (.swMulImm d a imm) (.scalar w)
  | 4 => accept (.swAndReg d a b) (.scalar w)
  | 36 => accept (.swAndImm d a imm) (.scalar w)
  | 5 => accept (.swOrReg d a b) (.scalar w)
  | 37 => accept (.swOrImm d a imm) (.scalar w)
  | 6 => accept (.swXorReg d a b) (.scalar w)
  | 38 => accept (.swXorImm d a imm) (.scalar w)
  | 7 => accept (.swShlReg d a b) (.scalar w)
  | 39 => accept (.swShlImm d a imm) (.scalar w)
  | 8 => accept (.swShrReg d a b) (.scalar w)
  | 40 => accept (.swShrImm d a imm) (.scalar w)
  | 9 => accept (.swSarReg d a b) (.scalar w)
  | 41 => accept (.swSarImm d a imm) (.scalar w)
  | 42 => accept (.swMovi d imm) (.scalar w)
  | 43 => accept (.swMovh d imm) (.scalar w)
  | 12 => accept (.swCmpReg d a (BitVec.ofNat 3 (w / 2 ^ 13)) b) (.scalar w)
  | 44 => accept (.swCmpImm d a (BitVec.ofNat 3 (w / 2 ^ 13)) (BitVec.ofNat 13 w)) (.scalar w)
  | 13 => accept (.swSel d a (BitVec.ofNat 5 (w / 2 ^ 5)) b) (.scalar w)
  | 46 => accept (.lds d a imm) (.scalar w)
  | 47 => accept (.sts d a imm) (.scalar w)
  | 48 => accept (.pred (BitVec.ofNat 3 (w / 2 ^ 21)) imm) (.scalar w)
  | _ => none

/-- Decode a vector slot (R400). -/
def decodeVec (w : Nat) : Option Instr :=
  let x : VOp := { ty := BitVec.ofNat 4 (w / 2 ^ 38), pred := BitVec.ofNat 4 (w / 2 ^ 34), d := BitVec.ofNat 6 (w / 2 ^ 28), a := BitVec.ofNat 6 (w / 2 ^ 22), b := BitVec.ofNat 6 (w / 2 ^ 16), c := BitVec.ofNat 6 (w / 2 ^ 10), fn := BitVec.ofNat 10 w }
  match bitsAt w 42 6 with
  | 0 => accept .swVectorNop (.vec w)
  | 1 => accept (.vadd x) (.vec w)
  | 2 => accept (.vsub x) (.vec w)
  | 3 => accept (.vmul x) (.vec w)
  | 4 => accept (.vmin x) (.vec w)
  | 5 => accept (.vmax x) (.vec w)
  | 6 => accept (.vand x) (.vec w)
  | 7 => accept (.vor x) (.vec w)
  | 8 => accept (.vxor x) (.vec w)
  | 9 => accept (.vcmp x) (.vec w)
  | 10 => accept (.vshl x) (.vec w)
  | 11 => accept (.vshr x) (.vec w)
  | 12 => accept (.vfma x) (.vec w)
  | 13 => accept (.vsel x) (.vec w)
  | 14 => accept (.vcvt x) (.vec w)
  | 15 => accept (.vperm x) (.vec w)
  | 16 => accept (.vbcast x) (.vec w)
  | 17 => accept (.mxm x) (.vec w)
  | _ => none

/-- Decode an SF slot (R401). -/
def decodeSf (w : Nat) : Option Instr :=
  let x : FOp := { ty := BitVec.ofNat 4 (w / 2 ^ 23), pred := BitVec.ofNat 4 (w / 2 ^ 19), d := BitVec.ofNat 6 (w / 2 ^ 13), a := BitVec.ofNat 6 (w / 2 ^ 7), fn := BitVec.ofNat 7 w }
  match bitsAt w 27 5 with
  | 0 => accept .swSfNop (.sf w)
  | 1 => accept (.vrcp x) (.sf w)
  | 2 => accept (.vrsq x) (.sf w)
  | 3 => accept (.vexp2 x) (.sf w)
  | 4 => accept (.vlog2 x) (.sf w)
  | 5 => accept (.swRed x) (.sf w)
  | 6 => accept (.psmov x) (.sf w)
  | _ => none

/-- Decode a memory slot (R402). -/
def decodeMem (w : Nat) : Option Instr :=
  let x : MOp := { pred := BitVec.ofNat 4 (w / 2 ^ 31), d := BitVec.ofNat 6 (w / 2 ^ 25), a := BitVec.ofNat 5 (w / 2 ^ 20), imm := BitVec.ofNat 20 w }
  match bitsAt w 35 5 with
  | 0 => accept .swMemoryNop (.mem w)
  | 1 => accept (.spld x) (.mem w)
  | 2 => accept (.spst x) (.mem w)
  | 3 => accept (.gath x) (.mem w)
  | 4 => accept (.fetch x) (.mem w)
  | 5 => accept (.lineout x) (.mem w)
  | 6 => accept (.poseget x) (.mem w)
  | 7 => accept (.srcgen x) (.mem w)
  | 8 => accept (.mxl x) (.mem w)
  | 9 => accept (.sixcfg x) (.mem w)
  | _ => none

/-- Decode a SYNC field (R403). -/
def decodeSync (w : Nat) : Option Instr :=
  let n := BitVec.ofNat 2 (w / 2 ^ 4)
  let f := BitVec.ofNat 4 w
  match bitsAt w 6 2 with
  | 0 => accept .swSyncNop (.sync w)
  | 1 => accept (.fwait n f) (.sync w)
  | 2 => accept (.fpost n f) (.sync w)
  | _ => accept (.fclr f) (.sync w)

/-- Decode a kiln control word (R413). -/
def decodeKc (w : Nat) : Option Instr :=
  let a := BitVec.ofNat 5 (w / 2 ^ 23)
  let t := BitVec.ofNat 12 w
  let port := BitVec.ofNat 10 w
  match bitsAt w 28 4 with
  | 0 => accept .kcNext (.kc w)
  | 1 => accept (.kcJmp t) (.kc w)
  | 2 => accept (.kcBrz a t) (.kc w)
  | 3 => accept (.kcBrnz a t) (.kc w)
  | 4 => accept (.kcCall a t) (.kc w)
  | 5 => accept (.kcRet a) (.kc w)
  | 6 => accept (.kcIord a port) (.kc w)
  | 7 => accept (.kcIowr a port) (.kc w)
  | 8 => accept (.kcWaitcyc port) (.kc w)
  | 9 => accept (.kcEvpop a (BitVec.ofNat 3 w)) (.kc w)
  | _ => none

/-! ## Encoder and decoder of any instruction -/

/-- The words of an instruction; none for an event, which has no encoding. -/
def encode (i : Instr) : Option Enc :=
  match xamalOf i with
  | some (opc, x) => some (.xamal (encodeXamal opc x).1 (encodeXamal opc x).2)
  | none => encodeSlot i

/-- The instruction of an encoding. -/
def decode (e : Enc) : Option Instr :=
  match e with
  | .xamal w0 w1 =>
    match decodeXamal w0 (w1.getD 0) with
    | .ok i => if w1.isSome == (bitsAt w0 63 1 == 1) then some i else none
    | .error _ => none
  | .seq w => decodeSeq w
  | .scalar w => decodeScalar w
  | .vec w => decodeVec w
  | .sf w => decodeSf w
  | .mem w => decodeMem w
  | .sync w => decodeSync w
  | .kc w => decodeKc w

/-- The rules that the fields of an instruction with an encoding obey; events have none. -/
def encodingOk (i : Instr) : Bool :=
  match xamalOf i with
  | some (opc, x) =>
    (match checkXamal opc x with | .ok () => true | .error _ => false) && mkXamal opc x == some i
  | none => slotOk i

/-! ## Bundles -/

/-- A Swevar bundle (R397). -/
structure Bundle where
  seq : Instr := .sqnop
  s0 : Instr := .swScalarNop
  s1 : Instr := .swScalarNop
  v0 : Instr := .swVectorNop
  v1 : Instr := .swVectorNop
  v2 : Instr := .swVectorNop
  sf : Instr := .swSfNop
  m0 : Instr := .swMemoryNop
  m1 : Instr := .swMemoryNop
  sync : Instr := .swSyncNop
  ports : BitVec 24 := 0
  deriving DecidableEq, Repr

/-- The operands that a vector slot reads through read ports: A, B, C (R400). -/
def vecPorts (i : Instr) : Bool × Bool × Bool :=
  match i with
  | .vadd _ | .vsub _ | .vmul _ | .vmin _ | .vmax _ | .vand _ | .vor _ | .vxor _ | .vcmp _ | .vperm _ => (true, true, false)
  | .vfma _ | .vsel _ => (true, true, true)
  | .vshl _ | .vshr _ | .vcvt _ | .mxm _ => (true, false, false)
  | _ => (false, false, false)

/-- The port codes that the slots of a bundle need, each exactly once (R404). -/
def portNeeds (b : Bundle) : List Nat :=
  let v (base : Nat) (i : Instr) : List Nat :=
    (if (vecPorts i).1 then [base] else []) ++ (if (vecPorts i).2.1 then [base + 1] else []) ++ (if (vecPorts i).2.2 then [base + 2] else [])
  v 1 b.v0 ++ v 4 b.v1 ++ v 7 b.v2
    ++ (match b.sf with | .vrcp _ | .vrsq _ | .vexp2 _ | .vlog2 _ | .swRed _ => [10] | _ => [])
    ++ (match b.m0 with | .spst _ => [11] | _ => []) ++ (match b.m1 with | .spst _ => [12] | _ => [])

/-- The codes of the six read ports. -/
def portCodes (ports : Nat) : List Nat := [0, 1, 2, 3, 4, 5].map (fun p => bitsAt ports (4 * p) 4)

/-- A legal port allotment, and MXM in V2 only (R404, R405). -/
def bundleOk (b : Bundle) : Bool :=
  let codes := portCodes b.ports.toNat
  let needs := portNeeds b
  codes.all (· ≤ 12) &&
  [1, 2, 3, 4, 5, 6, 7, 8, 9, 10, 11, 12].all (fun c => codes.count c == needs.count c) &&
  (match b.v0 with | .mxm _ => false | _ => true) && (match b.v1 with | .mxm _ => false | _ => true)

/-- Decode a Swevar bundle of 384 bits; none if it is illegal (R405). -/
def decodeBundle (w : BitVec 384) : Option Bundle :=
  let n := w.toNat
  match decodeSeq (bitsAt n 0 32), decodeScalar (bitsAt n 32 32), decodeScalar (bitsAt n 64 32),
        decodeVec (bitsAt n 96 48), decodeVec (bitsAt n 144 48), decodeVec (bitsAt n 192 48) with
  | some seq, some s0, some s1, some v0, some v1, some v2 =>
    match decodeSf (bitsAt n 240 32), decodeMem (bitsAt n 272 40), decodeMem (bitsAt n 312 40), decodeSync (bitsAt n 352 8) with
    | some sf, some m0, some m1, some sync =>
      let b : Bundle := { seq, s0, s1, v0, v1, v2, sf, m0, m1, sync, ports := BitVec.ofNat 24 (n / 2 ^ 360) }
      if bundleOk b then some b else none
    | _, _, _, _ => none
  | _, _, _, _, _, _ => none

/-- The word of an encoded slot. -/
def Enc.word : Enc → Nat
  | .xamal w _ => w
  | .seq w => w
  | .scalar w => w
  | .vec w => w
  | .sf w => w
  | .mem w => w
  | .sync w => w
  | .kc w => w

/-- The word of a slot operation, 0 for what has none. -/
def slotWord (i : Instr) : Nat := ((encodeSlot i).map Enc.word).getD 0

/-- The 384 bits of a bundle (R397). -/
def encodeBundle (b : Bundle) : BitVec 384 :=
  BitVec.ofNat 384 (slotWord b.seq + slotWord b.s0 * 2 ^ 32 + slotWord b.s1 * 2 ^ 64 + slotWord b.v0 * 2 ^ 96
    + slotWord b.v1 * 2 ^ 144 + slotWord b.v2 * 2 ^ 192 + slotWord b.sf * 2 ^ 240 + slotWord b.m0 * 2 ^ 272
    + slotWord b.m1 * 2 ^ 312 + slotWord b.sync * 2 ^ 352 + b.ports.toNat * 2 ^ 360)

/-- A kiln bundle (R413). -/
structure KBundle where
  cw : Instr := .kcNext
  k0 : Instr := .swScalarNop
  k1 : Instr := .swScalarNop
  k2 : Instr := .swScalarNop
  deriving DecidableEq, Repr

/-- Decode a kiln bundle; none if it is illegal (R413, R414). -/
def decodeKiln (w : BitVec 128) : Option KBundle :=
  let n := w.toNat
  match decodeKc (bitsAt n 0 32), decodeScalar (bitsAt n 32 32), decodeScalar (bitsAt n 64 32), decodeScalar (bitsAt n 96 32) with
  | some cw, some k0, some k1, some k2 =>
    let isPred (i : Instr) : Bool := match i with | .pred _ _ => true | _ => false
    if isPred k0 || isPred k1 || isPred k2 then none else some { cw, k0, k1, k2 }
  | _, _, _, _ => none

/-- The 128 bits of a kiln bundle (R413). -/
def encodeKiln (b : KBundle) : BitVec 128 :=
  BitVec.ofNat 128 (slotWord b.cw + slotWord b.k0 * 2 ^ 32 + slotWord b.k1 * 2 ^ 64 + slotWord b.k2 * 2 ^ 96)

/-- Halfword `k` of a literal bundle holds bits [16k + 15 : 16k] (R397). -/
def bundleOfHalfwords (hs : List W16) : BitVec 384 :=
  BitVec.ofNat 384 (hs.foldr (fun h acc => h.toNat + acc * 2 ^ 16) 0)

/-! ## The host's question about one word -/

/-- The slot that a bare word stands for. The opcode table gives words to sequencer, scalar, SF, SYNC and kiln control fields,
which overlap; a word is read as the first of SF, sequencer, kiln control and scalar field whose rules it meets, and a word with no
bit below its scalar opcode not as an SF field, and as a sequencer or control word only if Q or RA is 0 too (DESIGN CHOICE, log 9). -/
def classify (nbits w : Nat) : Option Enc :=
  if nbits ≤ 8 then some (.sync w)
  else if nbits ≤ 32 then
    if w % 2 ^ 26 ≠ 0 ∧ (decodeSf w).isSome then some (.sf w)
    else if (w % 2 ^ 26 ≠ 0 ∨ w % 2 ^ 27 = 0) ∧ (decodeSeq w).isSome then some (.seq w)
    else if (w % 2 ^ 26 ≠ 0 ∨ w % 2 ^ 28 = 0) ∧ (decodeKc w).isSome then some (.kc w)
    else if (decodeScalar w).isSome then some (.scalar w)
    else none
  else if nbits ≤ 40 then some (.mem w)
  else if nbits ≤ 48 then some (.vec w)
  else if nbits ≤ 64 then some (.xamal w (if bitsAt w 63 1 = 1 then some 0 else none))
  else if nbits ≤ 128 then some (.xamal (bitsAt w 0 64) (some (bitsAt w 64 64)))
  else none

/-- The instruction that the decoder reads from a word of the opcode table. -/
def decodeTableWord (nbits w : Nat) : Option Instr := (classify nbits w).bind decode

end Sys2Proof
end

