-- ==== Sys2Proof/Config.lean ====
section
/-! DEFINITION. What an implementation fixes, and the values the spec leaves open (log 3). No constant of this file has a value
that a proof could use. -/
namespace Sys2Proof.Config

/-- The 64-byte Ed25519 signature of a message under the device's identity key (R32, R36): the key is not in the spec. -/
opaque ed25519Sign : List (BitVec 8) → List (BitVec 8)
/-- The ML-DSA-65 signature of a message under the device's identity key (R32, R36). -/
opaque mldsa65Sign : List (BitVec 8) → List (BitVec 8)
/-- The identity public keys a quote carries, 32 and 1,952 bytes (R36). -/
opaque identityKeys : List (BitVec 8)
/-- The measurement of the boot ROM in the log (R32, R36): the ROM is not in the spec. -/
opaque bootRomDigest : BitVec 384
/-- Whether the link of a head trains with the settings of a mode record (R192, code 4). -/
opaque linkTrains : Nat → BitVec 64 → Bool
/-- Whether a link carries a data rate in kbit/s that does not exceed its lanes' raw rate (R192, code 3): the interface and the settings of the record; the
coding that a link uses is not in the spec. -/
opaque linkFits : Nat → BitVec 64 → Nat → Bool
/-- The reading of a firmware image's bytes: security version, length and carry formats of its header, digest and
signature checks, slot table, code and data (R29, R30, R68, R73); the layout of an image is not in the spec. -/
opaque imageNat : List (BitVec 8) → Nat → Nat
/-- The digest that an image's header carries (R29). -/
opaque imageDigest : List (BitVec 8) → BitVec 384
/-- A slot of a firmware image's slot table (R70): by kiln core, minor frame, place and field (0 whether there is one, 1 its offset, 2 one more than its
event queue or 0 for a routine, 3 its packet budget). -/
opaque imageSlot : List (BitVec 8) → Nat → Nat → Nat → Nat → Nat
/-- The bundles of a firmware image for kiln core `k` (R67). -/
opaque imageCode : List (BitVec 8) → Nat → List (BitVec 128)
/-- The image area of kiln core `k`'s data SRAM (R68). -/
opaque imageData : List (BitVec 8) → Nat → List (BitVec 8)
/-- An outcome the spec allows to be one of two and does not fix, by the draw counter of the state (R7). -/
opaque freeChoice : Nat → Bool
/-- A 96-bit payload of an event record whose unit defines it without stating it (R72). -/
opaque freePayload : Nat → BitVec 96
/-- An 8-bit code that the spec leaves to a unit: the kind of such a record (R72), or the register kind that TRAPINFO shows for a `z` register (R272). -/
opaque freeKind : Nat → BitVec 8
/-- How many dc more a 32-byte piece of a `FETCH` takes, by the draw counter of the state (R432). -/
opaque fetchDelay : Nat → Nat
/-- Which of the pieces of a `FETCH` that are left comes next, by the draw counter of the state (R432). -/
opaque fetchPiece : Nat → Nat
/-- Triangle records that a 4 KiB chunk of the tile-list pool holds beyond one (R140): the layout of a chunk is not architectural. -/
opaque chunkRecords : Nat
/-- Tile-list entries that a chunk holds beyond one (R140). -/
opaque chunkEntries : Nat
end Sys2Proof.Config
end

