-- ==== Sys2Proof/Machine/Flags.lean ====
section
/-! DEFINITION. Number formats, exact arithmetic, rounding and flags (chapter 09), and the correctly rounded functions of R341.
A format is named by its ELEM code of R225: 0 FP4, 1 E3M2, 2 E2M3, 3 E4M3, 4 E5M2, 5 HS4, 6 HS8, 7 INT8, 8 BF16, 9 FP16, 10 FP32; 11 is FP64
(R299). Flags are five bits, in the order of FPSTAT (R230). -/
namespace Sys2Proof.Machine

/-! ## Exact rationals -/

/-- 2^k for an integer k. -/
def pow2 (k : Int) : Q := if k ≥ 0 then ⟨2 ^ k.toNat, 1⟩ else ⟨1, 2 ^ (-k).toNat⟩
def qInt (n : Int) : Q := ⟨n, 1⟩
def qNeg (a : Q) : Q := ⟨-a.num, a.den⟩
def qAdd (a b : Q) : Q :=
  if a.den = b.den then ⟨a.num + b.num, a.den⟩
  else if a.den % b.den = 0 then ⟨a.num + b.num * (a.den / b.den : Nat), a.den⟩
  else if b.den % a.den = 0 then ⟨a.num * (b.den / a.den : Nat) + b.num, b.den⟩
  else ⟨a.num * b.den + b.num * a.den, a.den * b.den⟩
def qSub (a b : Q) : Q := qAdd a (qNeg b)
def qMul (a b : Q) : Q := ⟨a.num * b.num, a.den * b.den⟩
/-- a / b for b not 0. -/
def qDiv (a b : Q) : Q := if b.num < 0 then ⟨-(a.num * b.den), a.den * b.num.natAbs⟩ else ⟨a.num * b.den, a.den * b.num.natAbs⟩
def qLt (a b : Q) : Bool := a.num * b.den < b.num * a.den
def qLe (a b : Q) : Bool := a.num * b.den ≤ b.num * a.den
def qEq (a b : Q) : Bool := a.num * b.den == b.num * a.den
def qAbs (a : Q) : Q := ⟨a.num.natAbs, a.den⟩
def qFloor (a : Q) : Int := a.num.fdiv a.den
/-- The nearest integer, ties to even (R228). -/
def qRne (a : Q) : Int :=
  let f := qFloor a
  let r := 2 * (a.num - f * a.den)
  if r < a.den then f else if r > a.den then f + 1 else if f % 2 = 0 then f else f + 1
/-- The nearest integer of no greater magnitude. -/
def qRtz (a : Q) : Int := if a.num ≥ 0 then qFloor a else -(qFloor (qNeg a))
/-- Floor of log2 of a positive rational. -/
def qLog2 (a : Q) : Int :=
  let n := a.num.natAbs
  let e : Int := (Nat.log2 n : Int) - Nat.log2 a.den
  if qLt ⟨n, a.den⟩ (pow2 e) then e - 1 else e

/-! ## Flags -/

/-- Flags in the order of FPSTAT: IV, DZ, OF, UF, NX (R230). -/
abbrev Flags := BitVec 5
def fIV : Flags := 1
def fDZ : Flags := 2
def fOF : Flags := 4
def fUF : Flags := 8
def fNX : Flags := 16

/-! ## Formats (R218, R219) -/

/-- Exponent bits of a floating-point format. -/
def fmtE (c : Nat) : Nat := match c with | 0 => 2 | 1 => 3 | 2 => 2 | 3 => 4 | 4 => 5 | 8 => 8 | 9 => 5 | 10 => 8 | 11 => 11 | _ => 0
/-- Mantissa bits. -/
def fmtM (c : Nat) : Nat := match c with | 0 => 1 | 1 => 2 | 2 => 3 | 3 => 3 | 4 => 2 | 8 => 7 | 9 => 10 | 10 => 23 | 11 => 52 | _ => 0
def fmtBias (c : Nat) : Nat := match c with | 0 => 1 | 1 => 3 | 2 => 1 | 3 => 7 | 4 => 15 | 8 => 127 | 9 => 15 | 10 => 127 | 11 => 1023 | _ => 0
/-- Bits of an element. -/
def fmtBits (c : Nat) : Nat := match c with | 0 => 4 | 1 => 6 | 2 => 6 | 3 => 8 | 4 => 8 | 5 => 4 | 6 => 8 | 7 => 8 | 8 => 16 | 9 => 16 | 10 => 32 | _ => 64
def fmtFloat (c : Nat) : Bool := c ≠ 5 && c ≠ 6 && c ≠ 7
def fmtInf (c : Nat) : Bool := c == 4 || 8 ≤ c
def fmtNaN (c : Nat) : Bool := c == 3 || fmtInf c
/-- The canonical quiet NaN (R220). -/
def qnan (c : Nat) : Nat := match c with | 11 => 0x7FF8000000000000 | 10 => 0x7FC00000 | 9 => 0x7E00 | 8 => 0x7FC0 | 4 => 0x7E | 3 => 0x7F | _ => 0
/-- Largest exponent field and mantissa of a finite value. -/
def fmtTop (c : Nat) : Nat × Nat :=
  if c = 3 then (15, 6) else if fmtInf c then (2 ^ fmtE c - 2, 2 ^ fmtM c - 1) else (2 ^ fmtE c - 1, 2 ^ fmtM c - 1)

/-- The value of a code (R218, R219). -/
def valueOf (c n : Nat) : XR :=
  if c = 7 ∨ c = 5 ∨ c = 6 then
    let b := fmtBits c
    let k := n % 2 ^ b
    let v : Int := if k < 2 ^ (b - 1) then k else (k : Int) - 2 ^ b
    if c = 7 then (if v = 0 then .zero false else .fin (qInt v)) else .fin ⟨2 * v + 1, 2⟩
  else
    let e := n / 2 ^ fmtM c % 2 ^ fmtE c
    let m := n % 2 ^ fmtM c
    let neg := n / 2 ^ (fmtM c + fmtE c) % 2 == 1
    let sg (q : Q) : Q := if neg then qNeg q else q
    if fmtInf c ∧ e = 2 ^ fmtE c - 1 then
      if m = 0 then .inf neg else .nan (m < 2 ^ (fmtM c - 1))
    else if c = 3 ∧ e = 15 ∧ m = 7 then .nan false
    else if e = 0 then
      if m = 0 then .zero neg else .fin (sg (qMul (qInt m) (pow2 (1 - fmtBias c - fmtM c))))
    else .fin (sg (qMul (qInt (2 ^ fmtM c + m)) (pow2 ((e : Int) - fmtBias c - fmtM c))))

/-- The sign bit in place. -/
def signAt (c : Nat) (neg : Bool) : Nat := if neg then 2 ^ (fmtE c + fmtM c) else 0
/-- The code of the largest finite value of a sign, or the bound of an integer-coded format (R229). -/
def boundCode (c : Nat) (neg : Bool) : Nat :=
  if fmtFloat c then signAt c neg + (fmtTop c).1 * 2 ^ fmtM c + (fmtTop c).2
  else if neg then 2 ^ (fmtBits c - 1) else 2 ^ (fmtBits c - 1) - 1
def infCode (c : Nat) (neg : Bool) : Nat := signAt c neg + (2 ^ fmtE c - 1) * 2 ^ fmtM c
def zeroCode (c : Nat) (neg : Bool) : Nat := if fmtFloat c then signAt c neg else 0

/-- A non-negative rational rounded to an integer by a mode: 0 RNE, 1 RTZ, 2 SR; for SR, `neg` tells which neighbour is above (R228). -/
def roundMag (a : Q) (rnd : Nat) (neg : Bool) (r : Nat) : Nat :=
  if rnd = 1 then (qFloor a).toNat
  else if rnd = 2 then
    let f := qFloor a
    let part := a.num - f * a.den
    if part = 0 then f.toNat
    else
      let up : Int := if neg then a.den - part else part
      let hi := r < (up * 65536).toNat / a.den
      if hi == neg then f.toNat else f.toNat + 1
  else (qRne a).toNat

/-- The result of `Narrow` for a finite non-zero value: code and flags (R228, R229). -/
def narrowFin (c : Nat) (x : Q) (rnd : Nat) (satc : Bool) (r : Nat) : Nat × Flags :=
  let neg := x.num < 0
  if fmtFloat c then
    let a := qAbs x
    let e := qLog2 a
    let emin : Int := 1 - fmtBias c
    let tiny := e < emin
    let q := (if tiny then emin else e) - fmtM c
    let scaled := if q ≥ 0 then (⟨a.num, a.den * 2 ^ q.toNat⟩ : Q) else ⟨a.num * 2 ^ (-q).toNat, a.den⟩
    let n := roundMag scaled rnd neg r
    let exact := (n : Int) * scaled.den == scaled.num
    let fl : Flags := if exact then 0 else if tiny then fNX ||| fUF else fNX
    let (n, q) := if n ≥ 2 ^ (fmtM c + 1) then (n / 2, q + 1) else (n, q)
    let ef : Int := if n < 2 ^ fmtM c then 0 else q + fmtM c + fmtBias c
    let mf := n % 2 ^ fmtM c
    let top := fmtTop c
    if ef > top.1 ∨ (ef = top.1 ∧ mf > top.2) then
      let fl := fl ||| fOF ||| fNX
      if satc ∨ !fmtNaN c ∨ (fmtInf c ∧ rnd = 1) then (boundCode c neg, fl)
      else if fmtInf c then (infCode c neg, fl) else (qnan c, fl)
    else (signAt c neg + ef.toNat * 2 ^ fmtM c + mf, fl)
  else
    let half : Q := ⟨1, 2⟩
    let y := if c = 7 then x else qSub x half
    let n : Int :=
      if rnd = 0 then qRne y
      else if rnd = 2 then
        let f := qFloor y
        let part := y.num - f * y.den
        if part = 0 then f else if r < (part * 65536).toNat / y.den then f + 1 else f
      else if c = 7 then qRtz x
      else if qLt (qAbs x) half then (if neg then -1 else 0)
      else if neg then -(qFloor (qNeg y)) else qFloor y
    let b := fmtBits c
    let fl : Flags := if qEq (qInt n) y then 0 else fNX
    let lo : Int := -(2 ^ (b - 1) : Nat)
    let hi : Int := (2 ^ (b - 1) : Nat) - 1
    if n < lo ∨ n > hi then (boundCode c neg, fl ||| fOF ||| fNX)
    else ((n % (2 ^ b : Nat)).toNat, fl)

/-- `Narrow` (R229): an exact value into a code of a format, with flags. `rnd` is 0 RNE, 1 RTZ, 2 SR. -/
def narrow (c : Nat) (x : XR) (rnd : Nat) (satc : Bool) (r : Nat) : Nat × Flags :=
  match x with
  | .nan sig => if fmtNaN c then (qnan c, if sig then fIV else 0) else (0, fIV)
  | .inf neg =>
    if fmtInf c then (infCode c neg, 0)
    else if c = 3 ∧ !satc then (qnan c, fOF)
    else (boundCode c neg, fOF)
  | .zero neg =>
    if fmtFloat c then (zeroCode c neg, 0)
    else if c = 7 then (0, 0)
    else if rnd = 2 then (if r < 32768 then 0 else 2 ^ fmtBits c - 1, fNX)
    else (0, fNX)
  | .fin q => narrowFin c q rnd satc r

/-! ## IEEE operations on exact values (R231, R336) -/

def xIsNan : XR → Bool | .nan _ => true | _ => false
def xIsSig : XR → Bool | .nan s => s | _ => false
def xNeg : XR → Bool | .inf n => n | .zero n => n | .fin q => q.num < 0 | .nan _ => false
def xOfQ (q : Q) : XR := if q.num = 0 then .zero false else .fin q
def xNegate : XR → XR | .inf n => .inf (!n) | .zero n => .zero (!n) | .fin q => .fin (qNeg q) | .nan s => .nan s
/-- A finite value as a rational. -/
def xQ : XR → Q | .fin q => q | _ => ⟨0, 1⟩

/-- The NaN result and flag of an operation on operands of which one is NaN. -/
def nanOf (xs : List XR) : XR × Flags := (.nan false, if xs.any xIsSig then fIV else 0)

def xAdd (a b : XR) : XR × Flags :=
  if xIsNan a || xIsNan b then nanOf [a, b] else
  match a, b with
  | .inf s, .inf t => if s == t then (.inf s, 0) else (.nan false, fIV)
  | .inf s, _ => (.inf s, 0)
  | _, .inf t => (.inf t, 0)
  | .zero s, .zero t => (.zero (s && t), 0)
  | .zero _, y => (y, 0)
  | x, .zero _ => (x, 0)
  | x, y => (xOfQ (qAdd (xQ x) (xQ y)), 0)

def xMul (a b : XR) : XR × Flags :=
  if xIsNan a || xIsNan b then nanOf [a, b] else
  let s := xNeg a != xNeg b
  match a, b with
  | .inf _, .zero _ => (.nan false, fIV)
  | .zero _, .inf _ => (.nan false, fIV)
  | .inf _, _ => (.inf s, 0)
  | _, .inf _ => (.inf s, 0)
  | .zero _, _ => (.zero s, 0)
  | _, .zero _ => (.zero s, 0)
  | x, y => (.fin (qMul (xQ x) (xQ y)), 0)

/-- a × b + c without intermediate rounding; 0 × ∞ is invalid even when c is a quiet NaN (R336). -/
def xFma (a b c : XR) : XR × Flags :=
  let p := xMul a b
  if xIsNan c && !(xIsNan a || xIsNan b) then (.nan false, p.2 ||| (if xIsSig c then fIV else 0))
  else if xIsNan a || xIsNan b then nanOf [a, b, c]
  else
    let s := xAdd p.1 c
    (s.1, p.2 ||| s.2)

/-- Division with the cases of FDIV (R341). -/
def xDiv (a b : XR) : XR × Flags :=
  if xIsNan a || xIsNan b then nanOf [a, b] else
  let s := xNeg a != xNeg b
  match a, b with
  | .inf _, .inf _ => (.nan false, fIV)
  | .zero _, .zero _ => (.nan false, fIV)
  | .inf _, _ => (.inf s, 0)
  | _, .inf _ => (.zero s, 0)
  | .zero _, _ => (.zero s, 0)
  | _, .zero _ => (.inf s, fDZ)
  | x, y => (.fin (qDiv (xQ x) (xQ y)), 0)

/-- `MulX` of R231: IEEE multiplication without rounding or flags. -/
def mulX (a b : XR) : XR := (xMul a b).1

/-- Total order of the non-NaN values: -1, 0, 1, with -0 equal to +0. -/
def xCmp (a b : XR) : Int :=
  match a, b with
  | .inf s, .inf t => if s == t then 0 else if s then -1 else 1
  | .inf s, _ => if s then -1 else 1
  | _, .inf t => if t then 1 else -1
  | x, y => if qLt (xQ x) (xQ y) then -1 else if qLt (xQ y) (xQ x) then 1 else 0

/-- R236 on the codes of one format: the smaller (or larger) operand bit for bit. -/
def minMaxCode (c : Nat) (max : Bool) (a b : Nat) : Nat × Flags :=
  let x := valueOf c a
  let y := valueOf c b
  if xIsSig x || xIsSig y then (qnan c, fIV)
  else if xIsNan x && xIsNan y then (qnan c, 0)
  else if xIsNan x then (b, 0)
  else if xIsNan y then (a, 0)
  else
    let k := xCmp x y
    if k = 0 then
      let aNeg := xNeg x
      if max then (if aNeg then b else a, 0) else (if aNeg then a else b, 0)
    else if (k < 0) != max then (a, 0) else (b, 0)

/-- `PairTree` of R237 over 32 optional lane values: one combination per node, with its flags. -/
def pairTree {α : Type} (op : α → α → α × Flags) (xs : List (Option α)) : Option α × Flags :=
  let rec level : List (Option α) → List (Option α) × Flags
    | x :: y :: t =>
      let rest := level t
      match x, y with
      | some a, some b => let r := op a b; (some r.1 :: rest.1, r.2 ||| rest.2)
      | some a, none => (some a :: rest.1, rest.2)
      | none, y => (y :: rest.1, rest.2)
    | [x] => ([x], 0)
    | [] => ([], 0)
  let l1 := level xs
  let l2 := level l1.1
  let l3 := level l2.1
  let l4 := level l3.1
  let l5 := level l4.1
  ((l5.1.head?).join, l1.2 ||| l2.2 ||| l3.2 ||| l4.2 ||| l5.2)

/-! ## Scales (R222, R224) -/

/-- The value of a block scale byte: BSF 1 E3M5, 2 E8M0. -/
def scaleValue (bsf n : Nat) : XR :=
  if bsf = 2 then (if n = 255 then .nan false else .fin (pow2 ((n : Int) - 127)))
  else
    let e := n / 32 % 8
    let m := n % 32
    if e = 0 then xOfQ (qMul ⟨m, 32⟩ (pow2 (-3))) else .fin (qMul ⟨32 + m, 32⟩ (pow2 ((e : Int) - 4)))

/-- The E3M5 code nearest to 2^k, ties to the even significand (R224). -/
def e3m5OfPow2 (k : Int) : Nat :=
  if k ≥ -3 then ((k + 4).toNat) * 32
  else if k < -8 then 0
  else 2 ^ (k + 8).toNat

/-- `E8M0ToE3M5Band` of R224: the new codes and the new band scale (a BF16 code). -/
def e8m0Band (codes : List Nat) (band : Nat) : List Nat × Nat :=
  if codes.any (· == 255) then (codes.map (fun _ => 0), qnan 8)
  else
    let emax := codes.foldl max 0
    let b := (narrow 8 (mulX (valueOf 8 band) (.fin (pow2 ((emax : Int) - 130)))) 0 false 0).1
    (codes.map (fun (c : Nat) => e3m5OfPow2 ((c : Int) - (emax : Int) + 3)), b)

/-! ## Accumulator rows (R231 to R235) -/

/-- Sum clamped to 64 bits, and whether it was clamped. -/
def satAdd64 (m q : Int) : Int × Bool :=
  let s := m + q
  if s > 2 ^ 63 - 1 then (2 ^ 63 - 1, true) else if s < -(2 ^ 63) then (-(2 ^ 63), true) else (s, false)

/-- The guard bits that a product sets: NAN 2, PINF 4, NINF 8; and its rounding to a multiple of 2^AE (R232). -/
def accProduct (ae : Int) (p : XR) : Int × Nat :=
  match p with
  | .nan _ => (0, 2)
  | .inf neg => (0, if neg then 8 else 4)
  | .zero _ => (0, 0)
  | .fin q => (qRne (qMul q (pow2 (-ae))), 0)

/-- `AccStep` on one mantissa and the guard word (R232). -/
def accStep (ae : Int) (ag : Nat) (m : Int) (ps : List XR) : Int × Nat :=
  let r := ps.foldl (fun (acc : Int × Nat) p => let t := accProduct ae p; (acc.1 + t.1, acc.2 ||| t.2)) ((0 : Int), ag)
  let ag := if r.2 / 4 % 2 = 1 ∧ r.2 / 8 % 2 = 1 then r.2 ||| 2 else r.2
  let s := satAdd64 m r.1
  (s.1, if s.2 then ag ||| 1 else ag)

/-- `DrainValue` (R235). -/
def drainValue (ae : Int) (ag : Nat) (m : Int) (c : Nat) (satc : Bool) : Nat × Flags :=
  if ag / 2 % 2 = 1 then (qnan c, 0)
  else if ag / 4 % 2 = 1 then narrow c (.inf false) 0 satc 0
  else if ag / 8 % 2 = 1 then narrow c (.inf true) 0 satc 0
  else if ag % 2 = 1 then (boundCode c (m < 0), fOF)
  else narrow c (xOfQ (qMul (qInt m) (pow2 ae))) 0 satc 0

/-- The shift of `Renorm` (R234): the least s for which every mantissa rounds below 2^target. -/
def renormShift (ms : List Int) (target fuel s : Nat) : Nat :=
  match fuel with
  | 0 => s
  | f + 1 =>
    if ms.all (fun m => (qRne ⟨m, 2 ^ s⟩).natAbs < 2 ^ target) then s else renormShift ms target f (s + 1)

/-! ## Correctly rounded functions (R341)

An irrational result is enclosed in an interval of rationals; when both ends narrow to the same code and flags, so does the
value between them. The enclosures tighten until they do. -/

/-- Integer square root, digit by digit from bit `k - 1`. -/
def isqrt (n : Nat) : Nat → Nat → Nat
  | 0, r => r
  | k + 1, r =>
    let t := r + 2 ^ k
    if t * t ≤ n then isqrt n k t else isqrt n k r

/-- Square root of a natural number, rounded down. -/
def natSqrt (n : Nat) : Nat := isqrt n (Nat.log2 n / 2 + 1) 0

/-- Bounds of a positive rational's square root, with `p` bits after the point. -/
def sqrtBounds (a : Q) (p : Nat) : Q × Q :=
  let n := a.num.natAbs * a.den * 4 ^ p
  let s := natSqrt n
  let d := a.den * 2 ^ p
  (⟨s, d⟩, if s * s = n then ⟨s, d⟩ else ⟨s + 1, d⟩)

/-- ln 2 scaled by 2^p, from 2 atanh(1/3). -/
def atanhInv (p k : Nat) : Nat :=
  let rec go : Nat → Nat → Nat → Nat → Nat
    | 0, _, _, acc => acc
    | f + 1, t, j, acc => if t = 0 then acc else go f (t / (k * k)) (j + 2) (acc + t / j)
  go (p + 2) (2 ^ p / k) 1 0
def ln2Fix (p : Nat) : Nat := 2 * atanhInv p 3

/-- π scaled by 2^p, by Machin's formula. -/
def atanInv (p k : Nat) : Int :=
  let rec go : Nat → Nat → Nat → Int → Int
    | 0, _, _, acc => acc
    | f + 1, t, j, acc => if t = 0 then acc else go f (t / (k * k)) (j + 2) (if j % 4 = 1 then acc + (t / j : Nat) else acc - (t / j : Nat))
  go (p + 2) (2 ^ p / k) 1 0
def piFix (p : Nat) : Nat := (16 * atanInv p 5 - 4 * atanInv p 239).toNat

/-- exp of a fixed-point number in [0, 1): the sum of its Taylor terms. -/
def expFix (p y : Nat) : Nat :=
  let rec go : Nat → Nat → Nat → Nat → Nat
    | 0, _, _, acc => acc
    | f + 1, t, j, acc => if t = 0 then acc else go f (t * y / 2 ^ p / j) (j + 1) (acc + t)
  go (p + 2) (2 ^ p) 1 0

/-- sin and cos of a fixed-point number: the alternating Taylor sum from its first term, `j` the next factor. -/
def alternating (p : Nat) (y2 : Nat) : Nat → Nat → Nat → Bool → Int → Int
  | 0, _, _, _, acc => acc
  | f + 1, t, j, neg, acc =>
    if t = 0 then acc
    else alternating p y2 f (t * y2 / 2 ^ p / (j * (j + 1))) (j + 2) (!neg) (if neg then acc - t else acc + t)

/-- A fixed-point value with a margin on both sides as bounds. -/
def bounds (v : Int) (p slack : Nat) : Q × Q := (⟨v - 2 ^ slack, 2 ^ p⟩, ⟨v + 2 ^ slack, 2 ^ p⟩)

/-- A rational in fixed point, rounded down. -/
def toFix (a : Q) (p : Nat) : Int := (a.num * 2 ^ p).fdiv a.den

/-- Bounds of 2^a. -/
def exp2Bounds (a : Q) (p : Nat) : Q × Q :=
  if qLe (qInt 4000) a then (pow2 4000, pow2 4001)
  else if qLe a (qInt (-4000)) then (pow2 (-4001), pow2 (-4000))
  else
    let w := p + 64
    let n := qFloor a
    let f := (toFix (qSub a (qInt n)) w).toNat
    let e := expFix w (f * ln2Fix w / 2 ^ w)
    let b := bounds e w 32
    (qMul b.1 (pow2 n), qMul b.2 (pow2 n))

/-- ln of a fixed-point number in [1, 2), as 2 atanh of (m - 1)/(m + 1). -/
def lnFix (p m : Nat) : Nat :=
  let z := (m - 2 ^ p) * 2 ^ p / (m + 2 ^ p)
  let z2 := z * z / 2 ^ p
  let rec go : Nat → Nat → Nat → Nat → Nat
    | 0, _, _, acc => acc
    | f + 1, t, j, acc => if t = 0 then acc else go f (t * z2 / 2 ^ p) (j + 2) (acc + t / j)
  2 * go (p + 2) z 1 0

/-- Bounds of log2 a for a positive a that is no power of two. -/
def log2Bounds (a : Q) (p : Nat) : Q × Q :=
  let w := p + 64
  let e := qLog2 a
  let m := (toFix (qMul a (pow2 (-e))) w).toNat
  let l := lnFix w m * 2 ^ w / ln2Fix w
  bounds ((l : Int) + e * 2 ^ w) w 32

/-- Bounds of sin a (`cosine` false) or cos a. -/
def trigBounds (cosine : Bool) (a : Q) (p : Nat) : Q × Q :=
  let w := p + 320
  let x := (toFix (qAbs a) w).toNat
  let halfPi := piFix (w + 160) / 2
  let k := x * 2 ^ 160 / halfPi
  let r := (x * 2 ^ 160 - k * halfPi) / 2 ^ 160
  let r2 := r * r / 2 ^ w
  let s := alternating w r2 (w + 2) r 2 false 0
  let c := alternating w r2 (w + 2) (2 ^ w) 1 false 0
  let quad := if cosine then k + 1 else k
  let v := match quad % 4 with | 0 => s | 1 => c | 2 => -s | _ => -c
  bounds (if !cosine && a.num < 0 then -v else v) w 160

/-- Bounds of tanh a for a positive a. -/
def tanhBounds (a : Q) (p : Nat) : Q × Q :=
  if qLe (qInt 200) a then (qSub (qInt 1) (pow2 (-500)), qSub (qInt 1) (pow2 (-501)))
  else
    let w := p + 96
    let l2 := ln2Fix (w + 16)
    let y := (toFix (qMul (qInt 2) a) (w + 16)).toNat
    let n := y / l2
    let f := y - n * l2
    let e := expFix (w + 16) f
    let u := 2 ^ (2 * (w + 16)) / e / 2 ^ n
    let um := if u ≤ 2 ^ 40 then 0 else u - 2 ^ 40
    let one : Nat := 2 ^ (w + 16)
    let t (v : Nat) : Q := ⟨(one : Int) - (v : Int), one + v⟩
    (t (u + 2 ^ 40), t um)

/-- The sum of a^(2n+1) / (n! (2n + 1)) with alternating signs. -/
def erfSum (p y2 : Nat) : Nat → Nat → Nat → Bool → Int → Int
  | 0, _, _, _, acc => acc
  | f + 1, t, n, neg, acc =>
    if t = 0 then acc
    else erfSum p y2 f (t * y2 / 2 ^ p / (n + 1)) (n + 1) (!neg) (if neg then acc - (t / (2 * n + 1) : Nat) else acc + (t / (2 * n + 1) : Nat))

/-- Bounds of erf a for a positive a. -/
def erfBounds (a : Q) (p : Nat) : Q × Q :=
  if qLe (qInt 6) a then (qSub (qInt 1) (pow2 (-50)), qSub (qInt 1) (pow2 (-51)))
  else
    let w := p + 192
    let x := (toFix a w).toNat
    let s := erfSum w (x * x / 2 ^ w) (2 * w) x 0 false 0
    let rootPi := natSqrt (piFix w * 2 ^ w)
    bounds ((2 * s) * 2 ^ w / rootPi) w 120

/-- The code that all values of an enclosure narrow to, tightening it until there is one. -/
def narrowReal (c rnd : Nat) (satc : Bool) (r : Nat) (enc : Nat → Q × Q) : List Nat → Nat × Flags
  | [] => narrow c (xOfQ (enc 64).1) rnd satc r
  | p :: ps =>
    let b := enc p
    let lo := narrow c (xOfQ b.1) rnd satc r
    let hi := narrow c (xOfQ b.2) rnd satc r
    if lo = hi ∧ b.1.num ≠ 0 ∧ b.2.num ≠ 0 then lo else narrowReal c rnd satc r enc ps

/-- The precisions tried. -/
def precisions : List Nat := [128, 256, 512, 1024, 2048]

/-- The functions of R341 and R428. -/
inductive SFn where
  | rcp | rsq | sqrt | exp2 | log2 | sin | cos | tanh | erf
  deriving DecidableEq, Repr

/-- A function of R341 on a code of format `c`, correctly rounded by `rnd` (RNE but for the square root), with its flags. -/
def special (fn : SFn) (c : Nat) (a : Nat) (rnd r : Nat) : Nat × Flags :=
  let x := valueOf c a
  let nar (v : XR) (fl : Flags) : Nat × Flags := let n := narrow c v rnd false r; (n.1, n.2 ||| fl)
  let real (enc : Nat → Q × Q) : Nat × Flags := narrowReal c rnd false r enc precisions
  let bad : Nat × Flags := (qnan c, fIV)
  match x with
  | .nan s => (qnan c, if s then fIV else 0)
  | _ =>
  match fn with
  | .rcp => let d := xDiv (.fin (qInt 1)) x; nar d.1 d.2
  | .sqrt | .rsq =>
    let inv := fn == .rsq
    match x with
    | .zero s => if inv then nar (.inf s) fDZ else nar (.zero s) 0
    | .inf s => if s then bad else nar (if inv then .zero false else .inf false) 0
    | .fin q =>
      if q.num < 0 then bad
      else
        let b := sqrtBounds q 192
        if qEq b.1 b.2 then nar (.fin (if inv then qDiv (qInt 1) b.1 else b.1)) 0
        else real (fun p => let b := sqrtBounds q p; if inv then (qDiv (qInt 1) b.2, qDiv (qInt 1) b.1) else b)
    | _ => bad
  | .exp2 =>
    match x with
    | .zero _ => nar (.fin (qInt 1)) 0
    | .inf s => nar (if s then .zero false else .inf false) 0
    | .fin q =>
      if q.num % q.den = 0 then nar (.fin (pow2 (max (-5000) (min 5000 (qFloor q))))) 0
      else real (exp2Bounds q)
    | _ => bad
  | .log2 =>
    match x with
    | .zero _ => nar (.inf true) fDZ
    | .inf s => if s then bad else nar (.inf false) 0
    | .fin q =>
      if q.num < 0 then bad
      else
        let e := qLog2 q
        if qEq q (pow2 e) then nar (xOfQ (qInt e)) 0 else real (log2Bounds q)
    | _ => bad
  | .sin =>
    match x with
    | .zero s => nar (.zero s) 0
    | .inf _ => bad
    | .fin q => real (trigBounds false q)
    | _ => bad
  | .cos =>
    match x with
    | .zero _ => nar (.fin (qInt 1)) 0
    | .inf _ => bad
    | .fin q => real (trigBounds true q)
    | _ => bad
  | .tanh | .erf =>
    let enc := if fn == .tanh then tanhBounds else erfBounds
    match x with
    | .zero s => nar (.zero s) 0
    | .inf s => nar (.fin (qInt (if s then -1 else 1))) 0
    | .fin q =>
      if q.num < 0 then real (fun p => let b := enc (qNeg q) p; (qNeg b.2, qNeg b.1)) else real (enc q)
    | _ => bad

end Sys2Proof.Machine
end

