-- ==== Sys2Proof/Machine/State.lean ====
section
/-! DEFINITION. The state of the part as plain data, its value after module reset, and the reasons a step can stop.
Every field cites the rule that names it; a default value is the value after reset (for a unit that does not exist at
reset, the value with which it is made). -/
namespace Sys2Proof.Machine

/-! ## Module and service (01) -/

/-- What the module as a whole is doing (R23, R24, R28, R31, R35). `held` is reset held by the input voltage, `failed` a boot
that found no image, `parked` the end of a quiesce, `removed` a module out of its carrier. -/
inductive Condition where
  | off | held | booting | failed | running | quiescing | parked | removed
  deriving DecidableEq, Repr, Inhabited

/-- A link port (R17). -/
inductive PortState where
  | up | retraining | down
  deriving DecidableEq, Repr, Inhabited

structure IclPort where
  st : PortState := .up
  spareUsed : Bool := false
  deriving DecidableEq, Repr, Inhabited

/-- A GDDR 7 channel: MEM_CHAN_STAT (R13), its display credit (R12), its class accounts (R102). -/
structure Chan where
  st : BitVec 2 := 0
  crcErr : Bool := false
  ceCount : W16 := 0
  credit : Int := 0
  /-- when its next window starts -/
  nextWindow : Nat := 0
  deriving DecidableEq, Repr, Inhabited

/-- Service time of the present 1 us window at a slice (0-127) or a channel (128-191) (R102): when the next window starts, and the shares and
ways in force (R101). -/
structure WindowAcct where
  nextWindow : Nat := 0
  share : List Nat := []
  ways : List Nat := []
  /-- the ways of a display slice that hold `DSH` lines alone (R174) -/
  dsh : Nat := 0
  deriving DecidableEq, Repr, Inhabited

/-- A slot of a kiln core's slot table (R70): its start offset in fc, the event queue it serves or none for a routine, and its packet budget. -/
structure KSlot where
  off : BitVec 10
  src : Option (BitVec 3) := none
  budget : Nat := 0
  deriving DecidableEq, Repr, Inhabited

/-- The addresses that firmware assigns to an Ethernet port (R18): its MAC address, and its IP addresses, each with whether it is IPv6. -/
structure EthAddr where
  mac : BitVec 48 := 0
  ips : List (Bool × BitVec 128) := []
  deriving DecidableEq, Repr, Inhabited

/-- A firmware image as the boot ROM and KC2 see it (R18, R29, R30, R66, R68, R70, R73, R74, R78). -/
structure Image where
  secver : Nat
  edOk : Bool
  mlOk : Bool
  digestOk : Bool
  digest : BitVec 384
  length : Nat
  carryWrites : W32
  carryFrom : W32
  carryTo : W32
  /-- per kiln core, the slots of each minor frame -/
  slots : List (List (List KSlot))
  code : List (List (BitVec 128))
  data : List Cells
  entry : List (BitVec 12)
  ceThreshold : Nat := 64
  eth : Tab EthAddr := []
  /-- SCAN_CTL.ENABLE as the image loads it (R5, R66) -/
  scanEnable : Bool := true
  /-- CORE_MAP and SLICE_MAP as the image loads them, by number; a number that it does not list has its own core, or slice, behind it (R5, R34) -/
  coreMap : Tab (BitVec 5) := []
  sliceMap : Tab (BitVec 7) := []
  deriving DecidableEq, Repr, Inhabited

/-- An entry of the measurement log (R32, R36). -/
structure LogEntry where
  kind : BitVec 8
  slot : BitVec 8
  secver : BitVec 8
  digest : BitVec 384
  deriving DecidableEq, Repr, Inhabited

/-- A service record with its number (R33). -/
structure PostedRec where
  r : SvcRec
  seq : W32
  deriving DecidableEq, Repr, Inhabited

/-- A REMOTE copy's message awaiting its acknowledgement (R19). -/
structure OutMsg where
  copy : Nat
  msg : Nat
  offset : Nat
  len : Nat
  resends : Nat := 0
  sent : Nat := 0
  /-- what it carries: source and destination device, domain, destination address, publish entry (R37) -/
  src : W16 := 0
  devid : W16 := 0
  fabric : BitVec 12 := 0
  dst : BitVec 57 := 0
  pub : Option (BitVec 12) := none
  /-- the bytes of the whole copy, and the flag that its completion increments with FLEN (R37, R211) -/
  total : Nat := 0
  flag : Option (BitVec 8 × BitVec 6) := none
  /-- how it leaves: the ports that may carry it, the next hop's MAC address, and the IP address with whether it is IPv6 (R37) -/
  ports : BitVec 8 := 0
  mac : BitVec 48 := 0
  v6 : Bool := false
  ip : BitVec 128 := 0
  deriving DecidableEq, Repr, Inhabited

/-- The answer to a message of another device (R37): whom it goes to, of which copy and which offset, and whether it is a refusal. -/
structure IftAnswer where
  to_ : W16
  copy : Nat
  offset : Nat
  refused : Bool
  deriving DecidableEq, Repr, Inhabited

/-- What has landed here of a copy of another device (R37). -/
structure InCopy where
  src : W16
  copy : Nat
  landed : List (Nat × Nat) := []
  deriving DecidableEq, Repr, Inhabited

structure Module where
  cond : Condition := .booting
  vinOk : Bool := true
  /-- R13 -/
  dispBw : BitVec 7 := 8
  badWr : Bool := false
  borrow : Bool := true
  dispBwNow : BitVec 7 := 8
  borrowNow : Bool := true
  chans : Tab Chan := []
  windows : Tab WindowAcct := []
  /-- corrected errors of a frame, and whether it has a retirement record (R14, R74) -/
  frameCe : Tab (Nat × Bool) := []
  ceThreshold : Nat := 64
  icl : Tab IclPort := []
  ethLanes : Tab Nat := []
  /-- MAC and IP addresses of the Ethernet ports (R18) -/
  ethAddr : Tab EthAddr := []
  /-- R29-R31 -/
  flash : Tab Image := []
  activeSlot : Bool := false
  fuse : Nat := 0
  bootSlotChanged : Bool := false
  raiseFuse : Option Nat := none
  /-- R32 -/
  log : List LogEntry := []
  /-- R34 -/
  svcBase : BitVec 40 := 0
  svcSlots : BitVec 4 := 0
  svcW : W32 := 0
  svcR : W32 := 0
  svcBadWr : Bool := false
  svcLost : W16 := 0
  svcCe : W64 := 0
  svcUe : W32 := 0
  svcSeq : W32 := 0
  carry : List PostedRec := []
  corePhys : Tab (BitVec 4) := []
  coreGone : List Nat := []
  spareUsed : List Nat := []
  /-- cores whose contexts are on their way to the spare (R25) -/
  retiring : List Nat := []
  slicePhys : Tab (BitVec 6) := []
  sliceShared : List Nat := []
  sliceSpares : Tab Nat := []
  /-- R35 -/
  modState : BitVec 2 := 0
  modBadWr : Bool := false
  /-- R36 -/
  attAddr : BitVec 40 := 0
  attState : BitVec 2 := 0
  attBusyWr : Bool := false
  attLen : W16 := 0
  /-- R37 -/
  iftSelf : W16 := 0
  iftPeer : BitVec 31 := 0
  iftFab : BitVec 38 := 0
  iftRto : W16 := 20
  iftBadWr : Bool := false
  outMsgs : List OutMsg := []
  inCopies : List InCopy := []
  /-- the answer to the last message that arrived (R37) -/
  iftAnswer : Option IftAnswer := none
  /-- the coolest and hottest limits on core clocks, MHz (R23, R100) -/
  freq : Tab Nat := []
  ceiling : Tab Nat := []
  balance : Tab (List (Nat × Int × Nat)) := []
  episodes : Tab Nat := []
  /-- the bytes of the last read over the ICL, as the companion processor has them (R16) -/
  hostData : List Byte := []
  deriving DecidableEq, Repr, Inhabited

/-! ## Command interface (02) -/

inductive QState where
  | unmapped | active | waiting | error
  deriving DecidableEq, Repr, Inhabited

/-- A queue descriptor (R45). -/
structure QDesc where
  ring : BitVec 57 := 0
  wptr : BitVec 57 := 0
  rptr : BitVec 57 := 0
  asid : W16 := 0
  ringLog2 : Nat := 6
  cls : Nat := 0
  prio : Nat := 0
  direct : Bool := false
  ivmax : Nat := 0
  job : W32 := 0
  rptrInit : W32 := 0
  deriving DecidableEq, Repr, Inhabited

/-- Where a fetched packet stands (R43, R64, R76): in the hub buffer, posted to PKT, held by KC0, or submitted and waiting to start. -/
inductive PktPlace where
  | buffered | posted | held | submitted
  deriving DecidableEq, Repr, Inhabited

/-- A packet in the hub buffer: its index and its eight 64-bit words (R43, R51, R54). -/
structure Packet where
  idx : W32
  words : List W64
  place : PktPlace := .buffered
  /-- ACT and address of the write of DSP_SUBMIT that submitted it (R76) -/
  act : Nat := 2
  addr : BitVec 57 := 0
  deriving DecidableEq, Repr, Inhabited

/-- A WAIT in force (R57), with the physical address of its counter. -/
structure QWait where
  cnt : BitVec 57
  val : W64
  pa : Nat
  deadline : Option Nat := none
  interval : Nat := 4224
  due : Nat := 0
  deriving DecidableEq, Repr, Inhabited

/-- What a started packet waits for before it counts as complete (R52): a launch, a launch behind its own WCNT, a graph, or a copy. -/
inductive Pending where
  | launch (id : Nat)
  | launchWait (id : Nat) (w : QWait)
  | graph (id : Nat)
  | copy (id : Nat)
  deriving DecidableEq, Repr, Inhabited

/-- A mapped queue (R40-R48, R53, R59). -/
structure Queue where
  st : QState := .unmapped
  desc : QDesc := {}
  err : Nat := 0
  wSeen : W32 := 0
  r : W32 := 0
  fetched : W32 := 0
  buf : List Packet := []
  scanErr : Option Nat := none
  interval : Nat := 4224
  due : Nat := 0
  running : List (W32 × Pending) := []
  wait : Option QWait := none
  phase : Option Nat := none
  deriving DecidableEq, Repr, Inhabited

/-- A phase: its number, counter and the units still live in it (R59, R89). -/
structure Phase where
  qid : Nat
  num : W32
  pcnt : BitVec 57
  asid : W16
  live : Nat := 0
  closed : Bool := false
  deriving DecidableEq, Repr, Inhabited

structure Command where
  qtab : BitVec 34 := 0
  mapBusy : Bool := false
  mapErr : Bool := false
  qmax : BitVec 4 := 10
  scanBadWr : Bool := false
  scanEnable : Bool := false
  late : Bool := false
  qerrQid : BitVec 12 := 0
  qerrErr : BitVec 4 := 0
  qerrValid : Bool := false
  qerrLost : Bool := false
  reads : W64 := 0
  lastQid : Nat := 0
  queues : Tab Queue := []
  phases : Tab Phase := []
  deriving DecidableEq, Repr, Inhabited

/-! ## Firmware complex (03) -/

/-- A kiln core (R67, R68, R71, R76). -/
structure Kiln where
  pc : BitVec 12 := 0
  a : Tab W32 := []
  code : List (BitVec 128) := []
  hidden : List (BitVec 128) := []
  entry : BitVec 12 := 0
  image : Cells := []
  data : Cells := []
  /-- its slot table (R70); whether it runs a slot of it; and the next one: the minor frame, counted from boot completion, and the place within it -/
  slots : List (List KSlot) := []
  inSlot : Bool := false
  nextMinor : Nat := 0
  nextSlot : Nat := 0
  stopped : Bool := true
  waitcyc : Option (BitVec 10) := none
  lastMinor : Nat := 0
  busy : Nat := 0
  slip : W16 := 0
  restarts : BitVec 8 := 0
  clamp : Bool := false
  badIo : Bool := false
  hubwin : BitVec 14 := 0
  memwin : W64 := 0
  memwinAs : W16 := 0
  deriving DecidableEq, Repr, Inhabited

structure Firmware where
  kilns : Tab Kiln := []
  /-- frame timer in fc since boot completion (R69) -/
  bootTime : Nat := 0
  submit : BitVec 61 := 0
  placeWt : W16 := 0
  ageLimit : Nat := 20
  balWindow : BitVec 6 := 7
  balEn : Bool := true
  oswdog : Nat := 1048576
  /-- R72: PKT, ACCT, DSP, AGE, FAULTQ, SERVICE, HEADEV, THERM -/
  events : Tab (List (BitVec 128)) := []
  /-- the packet of each record in PKT, while it stands (R73, R76) -/
  pktTags : List (Option (Nat × W32)) := []
  acctHeld : Bool := false
  booted : Bool := false
  slot : Bool := false
  secver : BitVec 6 := 0
  updAddr : BitVec 52 := 0
  updLen : BitVec 25 := 0
  updState : BitVec 3 := 0
  updCode : BitVec 4 := 0
  updBusyWr : Bool := false
  upd : Option Image := none
  ageLost : W16 := 0
  headevLost : W16 := 0
  deriving DecidableEq, Repr, Inhabited

/-! ## Dispatcher (04, 11) -/

/-- The fields of a launch record (R81). -/
structure LaunchRec where
  code : BitVec 57 := 0
  entry : W32 := 0
  gx : Nat := 0
  gy : Nat := 0
  gz : Nat := 0
  gpc : Nat := 1
  cpg : Nat := 1
  vgran : Nat := 1
  lmem : Nat := 0
  accg : Nat := 0
  zgran : Nat := 0
  spair : Nat := 0
  rolemap : W64 := 0
  trapvec : BitVec 57 := 0
  fair : Bool := false
  inherit : Bool := false
  cls : Nat := 0
  prio : Nat := 0
  wdog : Nat := 0
  fslots : List W64 := []
  param : BitVec 57 := 0
  paramw : Nat := 0
  lcnt : BitVec 57 := 0
  jcnt : BitVec 57 := 0
  status : BitVec 57 := 0
  reserved : Bool := false
  deriving DecidableEq, Repr, Inhabited

/-- Status codes of R85. -/
inductive LStatus where
  | ok | empty | launchRange | formatInvalid | cancelled | faulted | discarded
  deriving DecidableEq, Repr, Inhabited

/-- The containment record of R275. -/
structure Containment where
  code : BitVec 8
  cause : BitVec 8
  core : BitVec 8
  coil : BitVec 5
  lane : BitVec 5
  pc : W64
  addr : W64
  deriving DecidableEq, Repr, Inhabited

/-- A launch (R80-R96, R133). -/
structure Launch where
  recAddr : BitVec 57 := 0
  rec_ : LaunchRec := {}
  asid : W16 := 0
  qid : Nat := 0
  cls : Nat := 0
  prio : Nat := 0
  jcnt : BitVec 57 := 0
  parent : Option Nat := none
  graph : Option (Nat × Nat) := none
  phase : Option Nat := none
  /-- validated and accepted by the dispatcher -/
  accepted : Bool := false
  /-- submitted by KC0, which gets a DSP report of its end (R72) -/
  viaKc0 : Bool := false
  /-- taken on the direct path, its ACCT report not yet made (R65) -/
  direct : Bool := false
  next : Nat := 0
  done : Nat := 0
  ended : Option LStatus := none
  ending : Option LStatus := none
  contain : Option Containment := none
  suspended : Bool := false
  /-- an open launch: its pass, and whether it runs the visibility groups (R133) -/
  openKind : Option (Nat × Bool) := none
  /-- behind its own WCNT (R55) -/
  waiting : Bool := false
  saved : List Nat := []
  deriving DecidableEq, Repr, Inhabited

/-- A graph (R87, R88): per launch its record, what predecessors remain, its successors, its launch once queued, and whether it has ended. -/
structure GNode where
  recd : BitVec 57
  preds : Nat
  succs : List Nat
  launch : Option Nat := none
  ended : Bool := false
  deriving DecidableEq, Repr, Inhabited

structure Graph where
  qid : Nat
  asid : W16
  descAddr : BitVec 57
  nl : Nat
  gcnt : BitVec 57 := 0
  phase : Option Nat := none
  accepted : Bool := false
  viaKc0 : Bool := false
  nodes : List GNode := []
  /-- the status with which its packet completes (R87) -/
  status : LStatus := .ok
  /-- a priority set by R99 for its launches to come -/
  prio : Option Nat := none
  ended : Bool := false
  deriving DecidableEq, Repr, Inhabited

/-- An event that has reached the dispatcher and waits for its next decision (R90). -/
inductive DEvent where
  | groupExit (cluster : Nat)
  | cancel (asid : Option W16) (cnt : BitVec 57) (level : Nat)
  | contain (launch : Nat) (c : Containment)
  | preempt (lcnt : BitVec 57) (op : Nat)
  | prio (asid : Option W16) (cnt : BitVec 57) (level : Nat) (prio : Nat)
  | queuePrio (qid : Nat) (prio : Nat)
  | launch (id : Nat)
  | graph (id : Nat)
  deriving DecidableEq, Repr, Inhabited

/-- A tear-down in force (R93). -/
structure TearDown where
  jcnt : BitVec 57
  asid : W16
  cancelled : Nat := 0
  discarded : Nat := 0
  groups : Nat := 0
  keys : Nat := 0
  framePos : W64 := 0
  /-- the launches that it ends -/
  ids : List Nat := []
  deriving DecidableEq, Repr, Inhabited

/-- A placed or saved cluster (R80, R127, R284): `cores` once placed; `saved` names the groups' save areas (first unit, units). -/
structure Cluster where
  launch : Nat
  x : Nat
  y : Nat
  z : Nat
  region : Nat := 0
  groups : List Nat := []
  completed : List Nat := []
  stopping : Bool := false
  saved : Bool := false
  areas : List (Nat × Nat × Nat) := []
  serial : W64 := 0
  render : Option Nat := none
  deriving DecidableEq, Repr, Inhabited

/-- A cluster that a pending list offers (R96): its launch, 0 an unplaced or 1 a saved or 2 a created one of an open launch, and which. -/
structure Cand where
  launch : Nat
  kind : Nat
  idx : Nat
  deriving DecidableEq, Repr, Inhabited

structure Dispatcher where
  launches : Tab Launch := []
  graphs : Tab Graph := []
  clusters : Tab Cluster := []
  pending : Tab (List Nat) := []
  inbox : List DEvent := []
  teardowns : List TearDown := []
  /-- the head of each pending list and since when it is the head (R96) -/
  heads : Tab (Cand × Nat) := []
  resv : Option (Cand × Nat) := none
  ways : Tab W16 := []
  waysBad : List Nat := []
  bw : Tab (BitVec 7) := []
  bwBad : List Nat := []
  discards : W32 := 0
  preState : BitVec 2 := 0
  preErr : BitVec 3 := 0
  preErrSet : Bool := false
  preGroups : W16 := 0
  preWait : List Nat := []
  /-- the request in progress is a RESUME (R283, R294) -/
  preResume : Bool := false
  poolBase : BitVec 36 := 0
  poolUnits : W16 := 0
  poolBad : Bool := false
  /-- address spaces with a saved context, whose keys' watchdogs pause, and since when (R282) -/
  paused : Tab Nat := []
  serial : W64 := 0
  nextLaunch : Nat := 1
  nextGraph : Nat := 1
  nextCluster : Nat := 1
  nextGroup : Nat := 1
  nextPhase : Nat := 1
  deriving DecidableEq, Repr, Inhabited

/-! ## Rendering (06) -/

/-- A point of the screen in 16.8 fixed point with its depth, and the exact w and attributes behind it (R136, R347, R348). -/
structure SVert where
  x : Int
  y : Int
  depth : W32
  w : XR
  attrs : List XR
  deriving DecidableEq, Repr, Inhabited

/-- A vertex in clip space with its attributes (R347). -/
structure CVert where
  x : XR
  y : XR
  z : XR
  w : XR
  attrs : List XR
  deriving DecidableEq, Repr, Inhabited

/-- A triangle as the binner holds it: screen vertices in the order of EMITP, visible ID, primitive rate, facing. -/
structure Tri where
  a : SVert
  b : SVert
  c : SVert
  visid : W32
  rate : BitVec 3
  front : Bool
  /-- the attributes of the first vertex of `EMITP`, for flat evaluation (R349) -/
  flat : List XR
  deriving DecidableEq, Repr, Inhabited

/-- The pass descriptor (R130). -/
structure PassDesc where
  target : BitVec 57 := 0
  width : Nat := 1
  height : Nat := 1
  cfmt : Nat := 0
  ordered : Bool := false
  dtest : Bool := false
  coarse : Bool := false
  rateComb : Nat := 0
  centroid : Bool := false
  reuse : Bool := false
  cull : Nat := 0
  passtag : BitVec 4 := 0
  refreshK : Nat := 0
  blendop : Nat := 0
  prog : Bool := false
  visbuf : BitVec 57 := 0
  shadekey : BitVec 57 := 0
  motion : BitVec 57 := 0
  prevVis : BitVec 57 := 0
  prevColour : BitVec 57 := 0
  prevMotion : BitVec 57 := 0
  rateImg : BitVec 57 := 0
  tlpBase : BitVec 57 := 0
  tlpSize : Nat := 2
  smallSlots : Nat := 1
  smallArea : Nat := 0
  depthTol : W32 := 0
  wNear : W32 := 0
  sx : W32 := 0
  ox : W32 := 0
  sy : W32 := 0
  oy : W32 := 0
  frame : W32 := 0
  smallBase : BitVec 57 := 0
  visRec : BitVec 57 := 0
  psRec : BitVec 57 := 0
  pcnt : BitVec 57 := 0
  pstat : BitVec 57 := 0
  reserved : Bool := false
  deriving DecidableEq, Repr, Inhabited

/-- How far a pass has come (R133). -/
inductive PassStage where
  | binning | rendering | ended
  deriving DecidableEq, Repr, Inhabited

/-- An open pass (R131-R142). -/
structure Pass where
  desc : PassDesc
  descAddr : BitVec 57
  asid : W16
  launch : Nat
  visLaunch : Nat := 0
  shadeLaunch : Nat := 0
  stage : PassStage := .binning
  code : Nat := 0
  fatal : Bool := false
  batch : List Tri := []
  batchNo : Nat := 0
  /-- ring slots with the batch each holds (R138), and the closed batches whose cluster is not placed yet -/
  slotsBusy : List (Nat × Nat) := []
  visTodo : List Nat := []
  /-- per tile its entries in submission order, each a triangle in the pieces that its near clip left; and the triangles in the pool -/
  tiles : Tab (List (List Tri)) := []
  records : Nat := 0
  /-- visible ID, primitive rate and facing of the triangles sent to the visibility path (R147, R151) -/
  smallIds : List (W32 × BitVec 3 × Bool) := []
  flushing : Bool := false
  todo : List Nat := []
  clusterNo : Nat := 0
  flushes : Nat := 0
  prims : Nat := 0
  small : Nat := 0
  culled : Nat := 0
  shaded : Nat := 0
  reused : Nat := 0
  renders : Nat := 0
  deriving DecidableEq, Repr, Inhabited

/-- A fragment of a tile render (R147, R151, R152, R155). -/
structure Frag where
  cx : Nat
  cy : Nat
  rate : BitVec 3
  cover : W16
  tri : Option Tri
  visid : W32
  front : Bool
  small : Bool
  ex : Int
  ey : Int
  key : W32 := 0
  seq : W32 := 0
  started : Bool := false
  result : Option (List W32 × W16) := none
  done : Bool := false
  deriving DecidableEq, Repr, Inhabited

/-- A tile render in progress (R144-R157). -/
structure Render where
  pass : Nat
  tile : Nat
  cluster : Nat
  owner : Nat
  frags : List Frag := []
  nextFrag : Nat := 0
  applied : Nat := 0
  deriving DecidableEq, Repr, Inhabited

structure Graphics where
  passes : Tab Pass := []
  renders : Tab Render := []
  nextPass : Nat := 1
  nextRender : Nat := 1
  deriving DecidableEq, Repr, Inhabited

/-! ## Display (07) -/

/-- A sparse-index stream (R435). -/
structure Sparse where
  meta_ : Nat := 0
  rle : Bool := false
  left : Nat := 0
  base : W16 := 0
  rate : Nat := 1
  pos : Nat := 0
  run : Nat := 0
  /-- bytes of run-length pairs read -/
  at_ : Nat := 0
  deriving DecidableEq, Repr, Inhabited

/-- A result of a glaze core on its way to its register (R406, R407). -/
inductive GRes where
  | a (n : Nat) (val : W32)
  | w (n : Nat) (regs : List (BitVec 4096)) (mask : List (BitVec 4096))
  | p (n : Nat) (val mask : BitVec 512)
  | q (n : Nat) (val : W32)
  | ps (n : Nat) (lanes : List (Option W32))
  | latch (n : Nat) (fp8 : Bool) (codes : List W16)
  | sp (addr : Nat) (bytes : List (Option Byte))
  | flag (n : Nat) (add : Nat)
  | clr (n : Nat)
  | sub (n : Nat) (k : Nat)
  | six (st : Sparse)
  deriving DecidableEq, Repr, Inhabited

/-- A result in flight: the vc at whose end it lands, and the rank of its slot in the priority of R407. -/
structure InFlight where
  at_ : Nat
  slot : Nat
  res : GRes
  deriving DecidableEq, Repr, Inhabited

/-- A FETCH under way (R432). -/
structure Fetch where
  m1 : Bool
  src : Nat
  dst : Nat
  len : Nat
  zeros : Bool
  asid : W16 := 0
  /-- SHIFT where the band sampled backing 1, else 0 (R171, R264) -/
  shift : Nat := 0
  frame : Nat := 0
  round : Nat := 0
  /-- the 32-byte pieces that have not landed, and when the next of them has been read (log 70) -/
  left : List Nat := []
  due : Nat := 0
  deriving DecidableEq, Repr, Inhabited

/-- The band context of R164 (and R422). -/
structure BandCtx where
  rank : Nat := 0
  head : Nat := 0
  band : Nat := 0
  line0 : Nat := 0
  nlines : Nat := 0
  gen : BitVec 48 := 0
  srcbase : W64 := 0
  /-- SHIFT where backing 1 was sampled, else 0 -/
  shift : Nat := 0
  members : Nat := 0
  /-- the cores of its row by rank, as the row stood when its round began (R160) -/
  cores : List Nat := []
  frame : Nat := 0
  /-- SRC_ASID as it stood at the band start (R191) -/
  asid : W16 := 0
  deriving DecidableEq, Repr, Inhabited

inductive BandPhase where
  | idle | running | draining
  deriving DecidableEq, Repr, Inhabited

/-- A bundle in a core's FIFO: none for an index from 0x1000 to 0xFFFE (R408); `round` is the first band of its round, `due` a row time. -/
structure FifoEntry where
  bundle : Option (BitVec 384)
  /-- an uncorrectable error in the halfwords read -/
  bad : Bool := false
  num : Nat := 0
  frame : Nat := 0
  round : Nat := 0
  due : Nat := 0
  /-- the cores of the row by rank as its round began (R160) -/
  cores : List Nat := []
  deriving DecidableEq, Repr, Inhabited

/-- A glaze core (R165, R185-R188, R417). -/
structure Glaze where
  w : Tab (BitVec 4096) := []
  a : Tab W32 := []
  p : Tab (BitVec 512) := []
  q : Tab W32 := []
  ps : Tab (Tab W32) := []
  latch : Tab (Bool × List W16) := []
  f : Tab W16 := []
  gq : List W16 := []
  sp : Cells := []
  /-- poisoned units of 8 bytes of its scratchpad, by address / 8, and its registers with an uncorrectable error, by kind (0 `w`, 1 `a`, 2 `p`, 3 `q`, 4
  `ps`, 5 a latch, 6 the GQ) and number (R27, R183) -/
  spBad : List Nat := []
  regBad : List (Nat × Nat) := []
  fifo : List FifoEntry := []
  /-- the bundle number its fetch unit expects next (R163, R420) -/
  seqNext : Nat := 0
  vc : Nat := 0
  flight : List InFlight := []
  mxmUntil : Nat := 0
  lockSet : W16 := 0
  lockLeft : Nat := 0
  fetches : List Fetch := []
  sparse : Sparse := {}
  ctx : BandCtx := {}
  phase : BandPhase := .idle
  syncs : Nat := 0
  inSync : Bool := false
  row : Option Nat := none
  nextLine : Nat := 0
  /-- the frame and the first band of the round that it runs or ran last, if it has begun one since it joined its row -/
  round : Nat := 0
  roundFrame : Nat := 0
  begun : Bool := false
  /-- its state is cleared before its next band: SYNTH_EN was set while a band was in flight (R165, R184) -/
  clearNext : Bool := false
  /-- when each bank last served an access (R186) -/
  bankAt : Tab Nat := []
  /-- the dc in which the memory slots of the head bundle have been served so far (R186, R433) -/
  served : Nat := 0
  /-- the `SIXCFG` of the head bundle has acted while its `GATH` is frozen (R439) -/
  sixDone : Bool := false
  /-- stores of other cores of the row to its scratchpad in this dc, which the banks serve last (R186, R430) -/
  inbound : List (Nat × List (Option Byte)) := []
  /-- the dc in which its last vc passed -/
  vcTime : Option Nat := none
  deriving DecidableEq, Repr, Inhabited

/-- BAND_CFG and SKEW, as written or as in force (R191). -/
structure BandCfg where
  bandLines : Nat := 32
  guard : Nat := 2
  poseLead : Nat := 96
  leadLines : Nat := 128
  skew : Tab Nat := []
  deriving DecidableEq, Repr, Inhabited

/-- SRC_CFG, CAMERA, FALLBACK and BORDER_COLOUR (R191). -/
structure SrcCfg where
  pub : BitVec 12 := 0
  w : BitVec 15 := 0
  h : BitVec 15 := 0
  asid : W16 := 0
  focalX : W32 := 0
  focalY : W32 := 0
  centreX : W32 := 0
  centreY : W32 := 0
  depth : W32 := 0x3F800000
  border : W64 := 0
  deriving DecidableEq, Repr, Inhabited

/-- HEAD_TIMING and LINE_TIME with the link settings of the mode record (R191, R192). -/
structure Timing where
  hactive : BitVec 13 := 0
  vactive : BitVec 13 := 0
  vtotal : BitVec 14 := 0
  iface : BitVec 2 := 0
  outBits : BitVec 4 := 0
  lt : W32 := 0
  link : W64 := 0
  deriving DecidableEq, Repr, Inhabited

/-- A band in flight of a head (R171, R173, R177-R181). -/
structure Band where
  frame : Nat
  band : Nat
  core : Option Nat := none
  started : Bool := false
  gen : BitVec 48 := 0
  srcbase : W64 := 0
  /-- SHIFT where backing 1 was sampled, else 0 -/
  shift : Nat := 0
  src : SrcCfg := {}
  pose : Option (List Byte) := none
  deadline : Bool := false
  homography : Option (List W32) := none
  delivered : List Nat := []
  scanned : Nat := 0
  deriving DecidableEq, Repr, Inhabited

/-- A kernel of a row (R193, R408, R409). -/
structure GlazeKernel where
  dict : Tab (BitVec 384) := []
  ndict : Nat := 0
  /-- dictionary entries with an uncorrectable error (R27, R183) -/
  dictBad : List Nat := []
  istream : Nat := 0
  nidx : Nat := 0
  deriving DecidableEq, Repr, Inhabited

/-- A HEAD_CMD in progress or waiting (R193). -/
structure HeadCmd where
  cmd : Nat
  hostReq : Bool
  recd : Nat := 0
  code : Nat := 0
  deriving DecidableEq, Repr, Inhabited

/-- The band sequencer of a row (R163, R166, R167, R169): `frame` and `first` name the round it runs, or the next one; `time` counts row time in dc, and
`endAt` is when the last round ended and `startAt` when the last one started. -/
structure Row where
  kernel : GlazeKernel := {}
  bundle : Nat := 0
  q : Tab W32 := []
  time : Nat := 0
  members : List Nat := []
  first : Nat := 0
  frame : Nat := 0
  active : Bool := false
  stopped : Bool := false
  syncWait : Bool := false
  syncNo : Nat := 0
  endAt : Nat := 0
  startAt : Nat := 0
  deriving DecidableEq, Repr, Inhabited

/-- The pose mailbox and buffer after reset (R175): identity rotation, zero position, time and sequence. -/
def resetPose : List Byte :=
  let one : List Byte := [0x00, 0x00, 0x80, 0x3F]
  let z : List Byte := List.replicate 12 0
  one ++ z ++ one ++ z ++ one ++ List.replicate 28 0

/-- A display head (R162, R175-R193). -/
structure Head where
  timing : Timing := {}
  cfg : BandCfg := {}
  /-- BAND_CFG and SKEW by the frame from which they are in force (R191) -/
  cfgs : Tab BandCfg := []
  cfgBad : Bool := false
  src : SrcCfg := {}
  srcFrame : W64 := 0
  overrun : Bool := false
  wportOvf : Bool := false
  roundLate : Bool := false
  abort : Bool := false
  bisque : W32 := 0
  abortedBands : W32 := 0
  lateLines : W32 := 0
  mhBase : BitVec 40 := 0
  mhSlots : BitVec 4 := 0
  hreqAddr : BitVec 46 := 0
  hreqState : BitVec 2 := 0
  hreqCode : BitVec 4 := 0
  hreqBusy : Bool := false
  hreqEntry : BitVec 12 := 0
  hreqOp : Nat := 0
  mailbox : List Byte := resetPose
  poseBuf : List Byte := resetPose
  /-- when the last snapshot was taken, and the buffer as it stood at the start of that dc (R177) -/
  poseAt : Nat := 0
  posePrev : List Byte := resetPose
  frame : Nat := 0
  frameStart : Nat := 0
  line : Nat := 0
  /-- line `line` is scanning out now (R162, R179) -/
  scanning : Bool := false
  synth : Bool := false
  row : Row := {}
  bands : List Band := []
  fifo : List (Nat × Nat × Nat × List W64) := []
  mode : Option Timing := none
  /-- whether the link trains with the settings of `mode` (R192, code 4) -/
  trains : Bool := true
  offPending : Bool := false
  kernel : Option GlazeKernel := none
  cmds : List HeadCmd := []
  result : Option Nat := none
  badEntry : BitVec 12 := 0
  /-- the source that its last band start sampled: address space, entry, generation (R171) -/
  lastGen : Nat × Nat × Nat := (0, 0, 0)
  blank : Bool := true
  /-- the last line sent down the link: frame, line, and the colour codes of its pixels (R179) -/
  shown : Option (Nat × Nat × List (Nat × Nat × Nat)) := none
  deriving DecidableEq, Repr, Inhabited

structure Display where
  heads : Tab Head := []
  glaze : Tab Glaze := []
  headSel : W32 := 0
  member : W16 := 0
  synthEn : BitVec 4 := 0
  mapBad : Bool := false
  ways : BitVec 4 := 4
  waysBad : Bool := false
  deriving DecidableEq, Repr, Inhabited

/-! ## Cores (05, 08, 09, 11, 15, 16) -/

/-- A key held by a thread (R370). -/
structure HeldKey where
  dom : BitVec 8
  key : W32
  seq : W32
  deriving DecidableEq, Repr, Inhabited

inductive TState where
  | runnable | waiting | exited
  deriving DecidableEq, Repr, Inhabited

/-- The fragment a shading thread carries: which pass, render and fragment, and its specials (R147). -/
structure ThreadFrag where
  pass : Nat
  render : Nat
  idx : Nat
  xy : W32
  info : W32
  visid : W32
  key : W32
  seq : W32
  sectioned : Bool := false
  deriving DecidableEq, Repr, Inhabited

/-- A thread (R195, R230, R272). -/
structure Thread where
  pc : W64 := 0
  st : TState := .runnable
  intrap : Bool := false
  fpstat : BitVec 5 := 0
  fptrap : BitVec 5 := 0
  trapcode : BitVec 8 := 0
  trappc : W64 := 0
  trapaddr : W64 := 0
  trapinfo : W32 := 0
  keys : List HeldKey := []
  lastIssue : Nat := 0
  /-- the cycle of its core from which WDOG counts it, and the one until which `SLEEP` holds it (R200, R321) -/
  wdogFrom : Nat := 0
  heldUntil : Nat := 0
  frag : Option ThreadFrag := none
  /-- the index that a withdrawn `RINGPUT` has claimed: home group, header offset, index (R128, R285) -/
  ringIdx : Option (Nat × Nat × W32) := none
  deriving DecidableEq, Repr, Inhabited

/-- A mask register: membership and arrival record (R201). -/
structure Mask where
  member : W32 := 0
  arrival : W32 := 0
  deriving DecidableEq, Repr, Inhabited

/-- What a waiting thread waits for (R196). -/
inductive Wait where
  | mwait (m : Nat)
  | bar
  | cbar
  | flag (f n : Nat)
  | bo (off : Nat) (phase : Bool)
  | all (mask : W64)
  | any (d : Dst) (mask : W64)
  | os (d : Dst) (dom : BitVec 8) (key seq : W32)
  | claim (n : Nat)
  | ringPut (home off slot src : Nat) (idx : W32)
  | ringGet (d : Dst) (home off cons : Nat)
  | fault (entry : Nat)
  /-- descheduled because the key table and the overflow queue of a slice are full: until when (R373) -/
  | table (slice retryAt : Nat)
  deriving DecidableEq, Repr, Inhabited

/-- A wait in force of some lanes of a coil, with its place in issue order. -/
structure WaitRec where
  lanes : W32
  wait : Wait
  order : Nat
  next : W64
  deriving DecidableEq, Repr, Inhabited

/-- The registers a long-latency producer writes when its result lands (R204): `(is s, register, lane)` and value; `bad` is an
uncorrectable error in the data (R276), and `due` the cycle of its core from which it may land (R458). -/
structure Landing where
  regs : List ((Bool × Nat × Nat) × W32)
  bad : Bool := false
  due : Nat := 0
  /-- the address that the data came from (R275) -/
  addr : W64 := 0
  /-- the matrix instruction that makes it, by its place in issue order: it lands once the engine has performed that one (R391) -/
  mx : Option Nat := none
  deriving DecidableEq, Repr, Inhabited

/-- The task a coil runs (R107, R116). -/
structure TaskCtx where
  tcb : BitVec 57
  launch : Nat
  part : Nat
  iter : Nat
  pro : W32
  ker : W32
  epi : W32
  trip : Nat
  itreg : Nat
  hasEpi : Bool
  ending : Bool := false
  faulted : Bool := false
  /-- the loop record of the task has not been read yet (R115) -/
  reading : Bool := false
  deriving DecidableEq, Repr, Inhabited

/-- An `EMITP` that stalls half-way: its pc, the lanes that it still concerns, the triangles that they have still to submit as it read them, and the lanes that
are in a trap handler meanwhile (R138, R348). -/
structure Emitting where
  pc : W64
  lanes : W32
  left : List (Nat × List CVert × W32 × BitVec 3)
  trapped : W32 := 0
  deriving DecidableEq, Repr, Inhabited

/-- A coil of 32 threads (R194-R206). -/
structure Coil where
  threads : List Thread := []
  v : Tab W32 := []
  vEmpty : List Nat := []
  s : Tab W32 := []
  sEmpty : List Nat := []
  masks : Tab Mask := []
  fairtime : Nat := 256
  role : BitVec 2 := 0
  pass : W64 := 0
  granules : Nat := 1
  sticky : W32 := 0
  stickyCount : Nat := 0
  turnOver : Bool := true
  /-- SC operations of the last instruction that wait for their positions (R255) -/
  scLeft : Nat := 0
  /-- an `ACDRAIN` of the coil has issued and has not formed its values yet: the coil is held (R392) -/
  drainHeld : Bool := false
  /-- its present miss has been counted in MFULL (R244) -/
  missFull : Bool := false
  landings : List Landing := []
  bad : List Nat := []
  /-- the addresses of those errors (R275) -/
  badAt : Tab W64 := []
  /-- poisoned units of 8 bytes of its register file: the even and the odd register of a pair, by the key of the even one (R27) -/
  struck : List Nat := []
  waits : List WaitRec := []
  task : Option TaskCtx := none
  parked : Bool := false
  /-- since when it is parked, and the cycle of its core from which WDOG has not counted it (R115, R200) -/
  parkedAt : Nat := 0
  parkedFrom : Nat := 0
  /-- stopped between two parts of its task for a save (R116, R128) -/
  atBoundary : Bool := false
  complete : Bool := false
  stopped : Bool := false
  /-- stopped by `MACHINE_CHECK` (R117) -/
  mcheck : Bool := false
  shading : Bool := false
  /-- an `EMITP` that stalls with some of its triangles submitted (R348) -/
  emitting : Option Emitting := none
  deriving DecidableEq, Repr, Inhabited

/-- A tile of an operand stream (R215, R386, R387). -/
structure Tile where
  tag : BitVec 12
  slot : BitVec 3
  bytes : List Byte
  bad : Bool := false
  deriving DecidableEq, Repr, Inhabited

/-- An accumulator row (R231). -/
structure AccRow where
  ae : Int := 0
  ag : W16 := 0
  m : Tab W64 := []
  /-- an uncorrectable error in it (R27, R276) -/
  bad : Bool := false
  deriving DecidableEq, Repr, Inhabited

/-- A scale register (R388). -/
structure ZReg where
  blocks : Cells := []
  bands : List W16 := [0, 0, 0, 0]
  tag : BitVec 12 := 0
  slot : BitVec 3 := 0
  /-- an uncorrectable error in it (R27, R276) -/
  bad : Bool := false
  deriving DecidableEq, Repr, Inhabited

/-- What an `ACDRAIN` has still to do: its coil and tag, the size of an element, the pages and their translations from its issue, each element's address and
value in the order of the writes, and, until its values have been formed, the issue group, the next pc and the flags that it then records (R392). -/
structure Drain where
  coil : Nat
  tag : Nat
  size : Nat
  pages : Tab Nat
  vals : List (Nat × Nat)
  rows : Nat × Nat
  forming : Option (W32 × W64 × BitVec 5) := none
  deriving DecidableEq, Repr, Inhabited

/-- A `ZLD` that the engine has not performed: the physical register that it writes, its slot word, side, tag and slot, and the pieces of 16 bytes that it
reads, each with its translation from the issue, and the pages that these passed through with their sizes (R393). -/
structure ZLoad where
  phys : Nat
  slot : Nat
  side : Nat
  tag : BitVec 12
  fs : BitVec 3
  pieces : List (Nat × Nat)
  pages : List (Nat × Nat)
  deriving DecidableEq, Repr, Inhabited

/-- An issued matrix or scale instruction that has not retired (R384): its place in issue order, the cc that the engine has still to spend on it (R386), the
physical scale registers that it reads until it retires (R389), the first row that it updates and how many, its writes, and its load. -/
structure MxEntry where
  order : Nat
  left : Nat
  reads : List Nat
  row : Nat
  rows : Nat
  drain : Option Drain
  load : Option ZLoad := none
  deriving DecidableEq, Repr, Inhabited

/-- The matrix context of a group (R215, R289). -/
structure Matrix where
  streams : Tab (List Tile) := []
  rows : Tab AccRow := []
  /-- the physical scale registers (R389) -/
  z : Tab ZReg := []
  /-- the physical register that a name maps to, itself where none is listed (R389) -/
  zmap : Tab Nat := []
  /-- the matrix queue, oldest first (R384) -/
  queue : List MxEntry := []
  /-- the coil, lanes and pc of the instruction that has been selected and has not passed its issue checks (R384) -/
  checking : Option (Nat × W32 × W64) := none
  deriving DecidableEq, Repr, Inhabited

/-- A load-block fill under way, or a block pinned once filled (R259, R360). -/
structure LdBlk where
  gid : Nat
  core : Nat
  asid : Nat := 0
  va : Nat := 0
  /-- its lines in memory, each with the leaf of its page -/
  lines : List (Nat × Nat)
  tag : Nat
  scope : Nat
  filling : Bool
  /-- the pages that its issue check found, with their sizes (R243) -/
  pages : List (Nat × Nat) := []
  /-- the CACHE field of its `LDBLK` (R299) -/
  cache : Nat := 0
  /-- an `SC` load-block that has not had its position yet (R255) -/
  sc : Bool := false
  /-- its place in issue order -/
  order : Nat := 0
  deriving DecidableEq, Repr, Inhabited

/-- A group resident on a core, or saved (R80, R206-R215, R287). -/
structure Group where
  cluster : Nat
  launch : Nat
  clgroup : Nat
  core : Nat
  slot0 : Nat
  slots : List Nat := []
  coils : List Coil := []
  lmem : Cells := []
  /-- poisoned units of 8 bytes of its local memory, by offset / 8 (R27) -/
  lbad : List Nat := []
  tagbits : W64 := 0xFFFFFFFFFFFFFFFF
  outst : Tab Nat := []
  tagScope : Tab Nat := []
  mx : Matrix := {}
  pool : Nat := 0
  cbarAt : Option Nat := none
  saved : Bool := false
  started : Bool := true
  /-- the words of its parameter block, and the trap that its coil 0 takes for a word that could not be read (R83) -/
  params : Tab W32 := []
  paramTrap : Option (Nat × Nat) := none
  deriving DecidableEq, Repr, Inhabited

/-- A copy descriptor (R210). -/
structure CopyDesc where
  kind : Nat := 0
  tag : Nat := 0
  boEn : Bool := false
  flEn : Bool := false
  pubEn : Bool := false
  pscope : Nat := 0
  srcLoc : Bool := false
  dstLoc : Bool := false
  fslot : BitVec 3 := 0
  btag : BitVec 12 := 0
  stream : Nat := 0
  zreg : Nat := 0
  src : BitVec 57 := 0
  dst : BitVec 57 := 0
  len : Nat := 0
  rows : Nat := 0
  sstride : Nat := 0
  dstride : Nat := 0
  bo : Nat := 0
  fcore : Nat := 0
  fflag : Nat := 0
  pub : BitVec 12 := 0
  aux : Nat := 0
  home : Nat := 0
  devid : W16 := 0
  reserved : Bool := false
  deriving DecidableEq, Repr, Inhabited

/-- How a copy stands: kicked and queued, running, waiting for a page, all landed, or failed (R209-R212, R277). -/
inductive CopySt where
  | queued | running | paged (entry : Nat) | landed | failed | remote
  deriving DecidableEq, Repr, Inhabited

/-- A copy (R209-R212, R286); `owner` is the group, coil and lane that kicked it, none for the hub engine's (queue and packet). -/
structure Copy where
  owner : Option (Nat × Nat × Nat) := none
  hub : Option (Nat × W32 × BitVec 57) := none
  asid : W16 := 0
  core : Nat := 0
  off : Nat := 0
  desc : CopyDesc := {}
  st : CopySt := .queued
  done : Nat := 0
  status : Nat := 0
  buf : List Byte := []
  /-- translations that the walks of a copy of the hub engine have given it (R244) -/
  pages : Tab Nat := []
  ringIdx : Option W32 := none
  /-- its present miss has been counted in MFULL (R244) -/
  missFull : Bool := false
  deriving DecidableEq, Repr, Inhabited

/-- A line of 128 bytes with dirty bytes: the data, which bytes are dirty, the scope at which the line is recorded and since when (R256, R258). -/
structure DirtyLine where
  data : BitVec 1024
  mask : BitVec 128
  scope : Nat
  since : Nat
  deriving DecidableEq, Repr, Inhabited

/-- A cache level by line number: dirty lines, and (L1 only) clean copies (R256). -/
structure Cache where
  dirty : Tab DirtyLine := []
  clean : Tab (BitVec 1024) := []
  /-- poisoned units of 8 bytes, by address / 8 (R27) -/
  bad : List Nat := []
  /-- lines to be victimised next (1) or last (2), by the CACHE field of the access that asked for it (R299) -/
  hints : Tab Nat := []
  deriving DecidableEq, Repr, Inhabited

/-- A core (R194, R207, R209, R214, R256). -/
structure Core where
  /-- CLOCK: cycles counted up to the time `clockAt` and the fraction of a cycle left, in units of 1/132,000 of a cycle of 1 MHz (R207) -/
  clock : Nat := 0
  clockFrac : Nat := 0
  clockAt : Nat := 0
  last : Tab Nat := []
  slots : Tab (Nat × Nat) := []
  flags : Tab W16 := []
  copyq : List Nat := []
  l1 : Cache := {}
  predictor : Tab Nat := []
  owned : List Nat := []
  tlb : List (Nat × Nat × Nat) := []
  deriving DecidableEq, Repr, Inhabited

/-- A task in a ready queue: its control block, its launch, and its READY time in cc (R113, R114). -/
structure ReadyTask where
  tcb : BitVec 57
  launch : Nat
  at_ : Nat := 0
  deriving DecidableEq, Repr, Inhabited

/-- A region's task unit, launch queue and region cache (R114, R115, R118, R256, R378). -/
structure Region where
  ready : Tab (List ReadyTask) := []
  faults : List (BitVec 57 × Nat) := []
  launchq : List (Nat × BitVec 57) := []
  cache : Cache := {}
  tlb : List (Nat × Nat × Nat) := []
  deriving DecidableEq, Repr, Inhabited

structure Cores where
  cores : Tab Core := []
  regions : Tab Region := []
  groups : Tab Group := []
  copies : Tab Copy := []
  blocks : Tab LdBlk := []
  nextCopy : Nat := 1
  nextBlk : Nat := 1
  order : Nat := 0
  taskBad : Bool := false
  overdec : Bool := false
  tcbLaunch : List (BitVec 57 × W16 × Nat) := []
  /-- FAULTED tasks that KC1 has left, with their launches (R111, R119) -/
  tcbLeft : List (BitVec 57 × Nat) := []
  deriving DecidableEq, Repr, Inhabited

/-! ## Translation, wheel, ordered sections (10, 11, 15) -/

/-- Who waits on a page (R244, R277, R278). -/
inductive Attached where
  | coil (gid c : Nat) (lanes : W32) (pc : W64)
  | copy (id : Nat)
  /-- a group that reads its parameter block (R83) -/
  | param (gid : Nat)
  deriving DecidableEq, Repr, Inhabited

/-- An entry of the merge table (R244): its page, the access that made it, whether its record is posted, and the trap code that answers the
attached accesses once its walk or its replay has failed (0 while it has not). -/
structure Merge where
  asid : Nat
  vpn : Nat
  kind : BitVec 8
  core : W16
  att : List Attached := []
  posted : Bool := false
  fail : Nat := 0
  /-- when it began to wait for a walker, in the order of such waits -/
  seq : Nat := 0
  deriving DecidableEq, Repr, Inhabited

/-- An SC operation of one lane waiting for its position (R255): kind 0 load, 1 store, 2 atomic, 3 fence, 4 an addition of the host, 5 a load-block; its
address, the page that its check found, size in bytes, operands, AOP and AT, sign extension, and the registers that receive its result. -/
structure ScOp where
  gid : Nat
  coil : Nat
  /-- the lanes whose access it is, and the pc and the place in issue order of its instruction (R255, R269) -/
  lanes : W32 := 0
  pc : W64 := 0
  order : Nat := 0
  kind : Nat
  core : Nat
  asid : Nat := 0
  va : Nat := 0
  pa : Nat := 0
  leaf : Nat := 0
  size : Nat
  scope : Nat
  data : Nat
  data2 : Nat
  aop : Nat
  at_ : Nat
  sx : Bool
  regs : List (Bool × Nat × Nat)
  place : Nat := 0
  /-- the CACHE field of its instruction (R299) -/
  cache : Nat := 0
  /-- the pages that its check found, with their sizes (R243) -/
  pages : List (Nat × Nat) := []
  deriving DecidableEq, Repr, Inhabited

/-- The state of a publish entry before a publish of the last 256 dc (R172). -/
structure PubPast where
  asid : Nat
  entry : Nat
  at_ : Nat
  gen : Nat
  active : Bool
  deriving DecidableEq, Repr, Inhabited

structure Xlat where
  asTab : BitVec 32 := 0
  tlbiVa : BitVec 45 := 0
  tlbiAsid : W16 := 0
  tlbiPages : BitVec 10 := 0
  tlbiAllVa : Bool := false
  tlbiAllAsid : Bool := false
  busy : Bool := false
  /-- the invalidation in progress has removed its entries: the place in issue order at which it did, whose older accesses it waits for (R243) -/
  tlbiFrom : Option Nat := none
  badWr : Bool := false
  mfull : W16 := 0
  /-- walks waited for so far (R244) -/
  walks : Nat := 0
  asCopies : Tab (W64 × W64) := []
  merge : Tab Merge := []
  pubPast : List PubPast := []
  /-- R255 -/
  wheel : Nat := 0
  scWaiting : Tab (List ScOp) := []
  deriving DecidableEq, Repr, Inhabited

/-- The holder of a key: a thread, and whether its context is saved (R280). -/
structure Holder where
  gid : Nat
  coil : Nat
  lane : Nat
  deriving DecidableEq, Repr, Inhabited

/-- A waiter of a key, in arrival order (R370): a thread's `OSENTER`, or a skip that waits for an entry, whose thread has gone on (group 0, R372, R373). -/
structure Waiter where
  gid : Nat
  coil : Nat
  lane : Nat
  seq : W32
  skip : Bool := false
  deriving DecidableEq, Repr, Inhabited

/-- A key-table entry (R369, R372, R282). -/
structure KeyEntry where
  asid : W16
  dom : BitVec 8
  key : W32
  nextseq : W32 := 0
  holder : Option Holder := none
  abandoned : Bool := false
  skips : W64 := 0
  lateSkips : List W32 := []
  waiters : List Waiter := []
  /-- its watchdog's count in ticks, and the time up to which it has counted (R282) -/
  wdog : Nat := 0
  wdogAt : Nat := 0
  deriving DecidableEq, Repr, Inhabited

/-- The key table of an L2 slice (R369, R373). -/
structure Slice where
  keys : Tab KeyEntry := []
  nextKey : Nat := 1
  overflow : List (W16 × BitVec 8 × W32 × Waiter) := []
  deriving DecidableEq, Repr, Inhabited

/-! ## The whole -/

/-- Who executes the instruction that `exec` is given (R195, R397, R413). -/
inductive Cur where
  | none
  | coil (gid c : Nat) (lanes : W32) (pc : W64)
  | glaze (core slot : Nat)
  | kiln (k slot : Nat)
  deriving DecidableEq, Repr, Inhabited

/-- What a unit of the part does of itself when it is due: the events of the opcode table that no agent outside brings about (log 2). -/
inductive Due where
  | moduleBoot | bootComplete
  | classShareWindow (unit : Nat) | displayCreditWindow (chan : Nat)
  | iclRetrainDone (port : Nat) | modulePark | attQuoteComplete | fwUpdateVerified | fwBankChange
  | iftResendTimeout (copy msg : Nat) | coreRetire (core : Nat) | kilnWatchdogRestart (k : Nat)
  | scannerPoll
  /-- the packet at the head of a queue's buffer, by its command -/
  | packet (qid : Nat)
  | waitRecheck (qid : Nat) | waitTimeout (qid : Nat)
  | dispatcherDecision | groupComplete (gid : Nat) | clusterSave (cluster : Nat) | energyRebalance (region : Nat)
  | taskStart (region : Nat) | completeTask (gid coil : Nat) | taskFaultListEntry (gid coil : Nat) | taskPoolClose (launch : Nat)
  | pageWalkComplete (entry : Nat) | tlbiComplete | dirtyLineSweep (core : Nat) | scWheelPosition
  | longLatencyLand (gid coil : Nat) | sleepHoldEnd (gid coil : Nat) | watchdogExpiry (gid coil : Nat)
  | copyDescriptorFetch (core : Nat) | copyBytesLand (copy bytes : Nat) | copyComplete (copy : Nat) | ldblkFillComplete (fill : Nat)
  | osGrant (slice entry : Nat) | osWatchdogExpiry (slice entry : Nat) | osOverflowRetry (slice : Nat)
  | waveStart (render : Nat) | blendApply (render : Nat) | tileRenderRetire (render : Nat) | passEnd (pass : Nat)
  | headCmdComplete (head : Nat) | headFrameEnd (head : Nat) | roundStart (head : Nat) | rowBundleIssue (head : Nat) | rowStop (head : Nat) | rowResume (head : Nat)
  | syncRelease (head : Nat) | roundTimeout (head : Nat) | poseLatch (head band : Nat) | bandDeadline (head band : Nat) | lineScanout (head : Nat)
  | bandStart (core : Nat) | bandDrainEnd (core : Nat) | fetchComplete (core : Nat) (m1 : Bool) | gqPush (core : Nat)
  deriving DecidableEq, Repr

/-- Which agent moves next (log 2): an event of the opcode table that an outside agent brings about, one that is due, an issue slot of a coil, a vc of a glaze core, a bundle of a kiln core, or time alone. -/
inductive Turn where
  | ev (i : Instr)
  | due (d : Due)
  | coil (gid c : Nat)
  /-- a cc of a core's matrix engine (R384) -/
  | matrix (core : Nat)
  /-- a group whose parameter block waits for a merge entry tries again (R83, R244) -/
  | param (gid : Nat)
  | glaze (core : Nat)
  /-- the vc of a glaze core whose bundle names another's scratchpad -/
  | glazeLate (core : Nat)
  /-- a dc of the `FETCH`es of a glaze core (R432) -/
  | fetch (core : Nat)
  /-- the stores of other cores of a row land in a glaze core's scratchpad (R186, R430) -/
  | inbound (core : Nat)
  | kiln (k : Nat)
  | elapse (ticks : Nat)
  deriving DecidableEq, Repr

structure State where
  time : Nat := 0
  agenda : List Turn := []
  cur : Cur := .none
  free : Nat := 0
  mem : List Host.Cell := []
  /-- Poisoned protected units: 32-byte sectors of memory, and 8-byte units of the L2 (R27). -/
  poison : List Nat := []
  l2bad : List Nat := []
  mod : Module := {}
  cmd : Command := {}
  fw : Firmware := {}
  disp : Dispatcher := {}
  gfx : Graphics := {}
  dpy : Display := {}
  cor : Cores := {}
  xlat : Xlat := {}
  slices : Tab Slice := []
  /-- Pending kiln register and memory writes of the bundle in progress, and its next bundle (R414). -/
  kwrites : List (Nat × Nat × W32) := []
  knext : Option (BitVec 12) := none
  deriving DecidableEq, Repr

/-- The machine after module reset: no unit is mapped, resident or loaded, every register at its reset value, and the boot
of R31 about to run. -/
def State.reset : State := {}

/-- Why a step would stop. No rule of the spec stops the part ("No behaviour of the 9440 is left undefined", R7), so no meaning raises one. -/
inductive Fault where
  /-- Raised by no meaning: safe, since nothing stops here. -/
  | stuck
  deriving DecidableEq, Repr

/-- Why an instruction would have no meaning in this model. -/
inductive Refusal where
  /-- Raised by an arm of `exec` whose instruction is not modelled yet: safe, the run ends. -/
  | notModelled (mnemonic : String)
  deriving DecidableEq, Repr

/-- The outcome of a step of this machine. -/
abbrev Out := Host.Outcome State Fault Refusal

end Sys2Proof.Machine
end

