-- ==== Sys2Proof/Machine/Ops.lean ====
section
/-! DEFINITION. The named operations that meanings are written over: memory and its caches, translation, publishing, event queues, threads and
their waits, masks, flags, tags, barriers, and taking a trap and returning from one. -/
namespace Sys2Proof.Machine

/-! ## Bytes and cells -/

/-- The byte at an address; an unlisted address reads 0 (DESIGN CHOICE, log 6). -/
def cellGet : Cells → Nat → Byte
  | [], _ => 0
  | (k, b) :: t, a => if a = k then b else cellGet t a

/-- The cells with a byte at an address, in canonical form: addresses rising, no byte equal to 0. -/
def cellPut : Cells → Nat → Byte → Cells
  | [], a, b => if b = 0 then [] else [(a, b)]
  | (k, c) :: t, a, b =>
    if a < k then (if b = 0 then (k, c) :: t else (a, b) :: (k, c) :: t)
    else if a = k then (if b = 0 then t else (a, b) :: t)
    else (k, c) :: cellPut t a b

/-- Bytes in ascending order as a number (R4). -/
def leNat : List Byte → Nat
  | [] => 0
  | b :: t => b.toNat + 256 * leNat t

/-- The low `n` bytes of a number in ascending order (R4). -/
def leBytes : Nat → Nat → List Byte
  | 0, _ => []
  | n + 1, v => BitVec.ofNat 8 v :: leBytes n (v / 256)

/-- `n` bytes from an address. -/
def cellsBytes (m : Cells) (a : Nat) : Nat → List Byte
  | 0 => []
  | n + 1 => cellGet m a :: cellsBytes m (a + 1) n

/-- Bytes written from an address upward. -/
def cellsWrite (m : Cells) (a : Nat) : List Byte → Cells
  | [] => m
  | b :: t => cellsWrite (cellPut m a b) (a + 1) t

/-- The canonical form: every address above `lo`, rising, no byte 0. -/
def cellsFrom : Nat → Cells → Bool
  | _, [] => true
  | lo, (a, b) :: t => lo ≤ a && b ≠ 0 && cellsFrom (a + 1) t

/-- Memory in canonical form. -/
def Memory.wf (m : Cells) : Bool := cellsFrom 0 m

/-- Bits `[lo + len - 1 : lo]` of a number. -/
def field (w lo len : Nat) : Nat := w / 2 ^ lo % 2 ^ len
def bit (w i : Nat) : Bool := w / 2 ^ i % 2 == 1
/-- `w` with `len` bits from `lo` replaced. -/
def setField (w lo len v : Nat) : Nat := w - field w lo len * 2 ^ lo + v % 2 ^ len * 2 ^ lo
/-- A field read as two's complement. -/
def sext (w len : Nat) : Int := if w % 2 ^ len < 2 ^ (len - 1) then (w % 2 ^ len : Nat) else (w % 2 ^ len : Nat) - (2 ^ len : Nat)
/-- An integer modulo 2^len. -/
def wrap (v : Int) (len : Nat) : Nat := (v % (2 ^ len : Nat)).toNat

/-- The list with its `i`-th entry changed. -/
def lmod {α : Type} (f : α → α) : List α → Nat → List α
  | [], _ => []
  | x :: t, 0 => f x :: t
  | x :: t, i + 1 => x :: lmod f t i

/-- An entry changed only if it is present. -/
def tupd {α : Type} (t : Tab α) (k : Nat) (f : α → α) : Tab α :=
  match tget t k with
  | some x => tput t k (f x)
  | none => t

/-! ## Physical memory (R11, R239) -/

def devTop : Nat := 2 ^ 39
def mmioBase : Nat := 2 ^ 50
def mailboxBase : Nat := 2 ^ 50 + 0x2000000
def hostBase : Nat := 2 ^ 51
def hostTop : Nat := 2 ^ 52

def inDevice (pa n : Nat) : Bool := pa + n ≤ devTop
def inHost (pa n : Nat) : Bool := hostBase ≤ pa && pa + n ≤ hostTop
def inMailbox (pa : Nat) : Bool := mailboxBase ≤ pa && pa < mailboxBase + 256

def State.head (s : State) (h : Nat) : Head := tgetD s.dpy.heads h {}
def State.modHead (s : State) (h : Nat) (f : Head → Head) : State :=
  { s with dpy := { s.dpy with heads := tmod s.dpy.heads h {} f } }

/-- The snapshot of R175: bytes 0x00 to 0x37 of the mailbox with the written sequence value. -/
def snapshotPose (s : State) (h : Nat) (seq : List Byte) : State :=
  s.modHead h (fun d => { d with
    mailbox := d.mailbox.take 0x38 ++ seq, poseBuf := d.mailbox.take 0x38 ++ seq, poseAt := s.time
    posePrev := if d.poseAt / 55 = s.time / 55 then d.posePrev else d.poseBuf })

/-- A head's pose buffer as it stood at the start of the present dc (R177). -/
def poseAtStart (s : State) (d : Head) : List Byte := if d.poseAt / 55 = s.time / 55 then d.posePrev else d.poseBuf

/-- Bytes replaced in a list from an index. -/
def spliceBytes (l : List Byte) (i : Nat) (bs : List Byte) : List Byte := l.take i ++ bs ++ l.drop (i + bs.length)

/-- A byte of physical memory. -/
def physGet (s : State) (pa : Nat) : Byte :=
  if inMailbox pa then ((s.head ((pa - mailboxBase) / 64)).mailbox[(pa - mailboxBase) % 64]?).getD 0
  else cellGet s.mem pa

def physBytes (s : State) (pa : Nat) : Nat → List Byte
  | 0 => []
  | n + 1 => physGet s pa :: physBytes s (pa + 1) n

def physNat (s : State) (pa n : Nat) : Nat := leNat (physBytes s pa n)

/-- The sectors of 32 bytes that a range meets. -/
def sectors (pa n : Nat) : List Nat := (List.range ((pa + n - 1) / 32 - pa / 32 + 1)).map (· + pa / 32)
/-- The channel that holds a physical address (R11). -/
def chanOf (pa : Nat) : Nat :=
  field pa 12 6 ^^^ field pa 18 6 ^^^ field pa 24 6 ^^^ field pa 30 6 ^^^ field pa 36 3
def State.chan (s : State) (c : Nat) : Chan := tgetD s.mod.chans c {}
/-- The ICL port that a physical address uses: PA[12] xor PA[21] (R15). -/
def portOf (pa : Nat) : Nat := if bit pa 12 != bit pa 21 then 1 else 0
/-- The port that carries an access of host memory: its own, or the other while its own retrains or has failed; none with both failed (R15, R17). -/
def carrierOf (s : State) (pa : Nat) : Option Nat :=
  let st (p : Nat) : PortState := (tgetD s.mod.icl p {}).st
  let p := portOf pa
  [p, 1 - p].find? (fun q => st q = .up) |>.or ([p, 1 - p].find? (fun q => st q ≠ .down))
/-- Whether both ICL ports have failed, so that the host is unreachable (R17). -/
def linkDown (s : State) : Bool := (tgetD s.mod.icl 0 {}).st = .down && (tgetD s.mod.icl 1 {}).st = .down
/-- An address in a frame of a retired channel (R14), or in host memory that no port reaches (R17): an access raises `MACHINE_CHECK`. -/
def unreachable (s : State) (pa : Nat) : Bool :=
  if inDevice pa 1 then (s.chan (chanOf pa)).st = 3 else if inHost pa 1 then (carrierOf s pa).isNone else false

/-- The home slice of a line of a page that is not `DSH` (R247). -/
def homeSlice (pa : Nat) : Nat := field pa 7 7 ^^^ field pa 14 7 ^^^ field pa 21 7 ^^^ field pa 28 7
/-- The display slice that homes a line of a `DSH` page (R174). -/
def displaySlice (pa : Nat) : Nat := 32 * field pa 9 2 + 28 + field pa 7 2
/-- The ways that a logical slice keeps for `DSH` lines with DISP_WAYS of them: the top ones of the 16 display slices (R174). -/
def displayWays (slice n : Nat) : Nat := if slice < 128 ∧ 28 ≤ slice % 32 then 2 ^ 16 - 2 ^ (16 - n) else 0

/-! ## Poisoned units (R27) -/

/-- The units of 8 bytes that a range meets. -/
def unitsOf (a n : Nat) : List Nat := (List.range ((a + n - 1) / 8 - a / 8 + 1)).map (· + a / 8)
/-- Poisoned units of a size after a write: those that it replaces whole are poisoned no more. -/
def stillBad (size : Nat) (l : List Nat) (a n : Nat) : List Nat :=
  if l.isEmpty then [] else l.filter (fun x => !(a ≤ size * x && size * x + size ≤ a + n))
/-- A unit poisoned. -/
def addBad (l : List Nat) (x : Nat) : List Nat := if l.contains x then l else x :: l
/-- Whether a poisoned unit of 8 bytes lies in a range. -/
def anyBad (l : List Nat) (a n : Nat) : Bool := !l.isEmpty && (unitsOf a n).any l.contains

/-- Whether an uncorrectable error stands in a range of memory or of the L2 over it (R27), or the range cannot be reached. -/
def poisoned (s : State) (pa n : Nat) : Bool :=
  (!s.poison.isEmpty && (sectors pa n).any s.poison.contains) || anyBad s.l2bad pa n || unreachable s pa

/-- Bytes written at an address: a write of a whole unit clears its error; a write of the sequence word of a mailbox takes a snapshot (R175). -/
def putPhys (s : State) (pa : Nat) (bs : List Byte) : State :=
  if inMailbox pa then
    let h := (pa - mailboxBase) / 64
    let o := (pa - mailboxBase) % 64
    if o = 0x38 ∧ bs.length = 8 then snapshotPose s h bs
    else s.modHead h (fun d => { d with mailbox := spliceBytes d.mailbox o bs })
  else { s with mem := cellsWrite s.mem pa bs, poison := stillBad 32 s.poison pa bs.length, l2bad := stillBad 8 s.l2bad pa bs.length }

/-- The units that a write replaces whole are sound, though its bytes were put one by one (R27). -/
def clearWhole (s : State) (pa n : Nat) : State := { s with poison := stillBad 32 s.poison pa n, l2bad := stillBad 8 s.l2bad pa n }

/-- The back-off of a wait on a counter that the device has written returns to 32 ns (R57). -/
def QWait.written (now pa n : Nat) (w : QWait) : QWait :=
  if pa < w.pa + 8 ∧ w.pa < pa + n then { w with interval := 4224, due := min w.due (now + 4224) } else w

def Queue.written (now pa n : Nat) (q : Queue) : Queue :=
  { q with
    wait := q.wait.map (QWait.written now pa n)
    running := q.running.map (fun e => match e.2 with | .launchWait id w => (e.1, .launchWait id (w.written now pa n)) | _ => e) }

/-- A write by the device: the queues that wait on a counter notice it (R57). -/
def physWrite (s : State) (pa : Nat) (bs : List Byte) : State :=
  let s := putPhys s pa bs
  { s with cmd := { s.cmd with queues := s.cmd.queues.map (fun e => (e.1, e.2.written s.time pa bs.length)) } }

/-! ## Cores and caches (R256 to R262) -/

def State.core (s : State) (k : Nat) : Core := tgetD s.cor.cores k {}
def State.modCore (s : State) (k : Nat) (f : Core → Core) : State :=
  { s with cor := { s.cor with cores := tmod s.cor.cores k {} f } }
def State.region (s : State) (r : Nat) : Region := tgetD s.cor.regions r {}
def State.modRegion (s : State) (r : Nat) (f : Region → Region) : State :=
  { s with cor := { s.cor with regions := tmod s.cor.regions r {} f } }
/-- The region of a core: eight cores to a region (R194). -/
def regionOf (k : Nat) : Nat := k / 8
/-- Whether the heads and the Ethernet ports are at work: from boot completion until the module has parked (R24, R28, R35). -/
def displayRuns (s : State) : Bool := s.mod.cond = .running || s.mod.cond = .quiescing

/-- The clock of a core in MHz (R23). -/
def coreFreq (s : State) (k : Nat) : Nat := tgetD s.mod.freq k 3300
/-- Ticks of `n` cc of a core. -/
def ccTicks (s : State) (k n : Nat) : Nat := n * 132000 / coreFreq s k
/-- The cycles of a core so far, at whatever clock each of them passed: what its timers count (R200, R207, R321). -/
def coreCycles (s : State) (k : Nat) : Nat :=
  let c := s.core k
  c.clock + (c.clockFrac + (s.time - c.clockAt) * coreFreq s k) / 132000
/-- CLOCK of a core (R207). -/
def coreClock (s : State) (k : Nat) : Nat := coreCycles s k % 2 ^ 64

/-- A core's clock set: its CLOCK goes on from the cycles counted so far (R100, R207). -/
def setFreq (s : State) (k f : Nat) : State :=
  let c := s.core k
  let t := c.clockFrac + (s.time - c.clockAt) * coreFreq s k
  let s := s.modCore k (fun c => { c with clock := c.clock + t / 132000, clockFrac := t % 132000, clockAt := s.time })
  { s with mod := { s.mod with freq := tput s.mod.freq k f } }

/-- A core with no resident group returns to 3.3 GHz or its ceiling (R100). -/
def idleCore (s : State) (k : Nat) : State :=
  if s.cor.groups.any (fun g => g.2.core = k && !g.2.saved) then s
  else
    let f := min 3300 (tgetD s.mod.ceiling k 3600)
    if coreFreq s k = f then s else setFreq s k f

/-- Byte `i` of a line. -/
def lineByte (d : BitVec 1024) (i : Nat) : Byte := BitVec.ofNat 8 (d.toNat / 2 ^ (8 * i))
/-- Bytes put into a line from byte `i`. -/
def linePut (d : BitVec 1024) (i : Nat) (bs : List Byte) : BitVec 1024 :=
  BitVec.ofNat 1024 (setField d.toNat (8 * i) (8 * bs.length) (leNat bs))
/-- The mask of `n` bytes from byte `i`. -/
def maskOf (i n : Nat) : BitVec 128 := BitVec.ofNat 128 ((2 ^ n - 1) * 2 ^ i)

/-- The dirty bytes among the first `n` of a line written to memory. -/
def mergeBytes (s : State) (line : Nat) (d : DirtyLine) : Nat → State
  | 0 => s
  | n + 1 =>
    let s := mergeBytes s line d n
    if d.mask.getLsbD n then physWrite s (128 * line + n) [lineByte d.data n] else s

/-- Whether every byte of unit `x` of a size, counted from address 0, is dirty in a line. -/
def wholeDirty (line : Nat) (d : DirtyLine) (size x : Nat) : Bool :=
  (List.range size).all (fun i => (size * x + i) / 128 == line && d.mask.getLsbD ((size * x + i) % 128))
/-- Whether a byte of the 8-byte unit `x` is dirty in a line. -/
def someDirty (line : Nat) (d : DirtyLine) (x : Nat) : Bool :=
  8 * x / 128 == line && (List.range 8).any (fun i => d.mask.getLsbD ((8 * x + i) % 128))

/-- The dirty bytes of a line written back to its home, with the poison that stands on them: a unit written whole is sound or poisoned as the line's is, and
one written in part stays as it was (R27, R256). -/
def mergeLine (s : State) (line : Nat) (d : DirtyLine) (bad : List Nat) : State :=
  let s := mergeBytes s line d 128
  let l2 := s.l2bad.filter (fun x => !wholeDirty line d 8 x)
  { s with
    poison := s.poison.filter (fun x => !wholeDirty line d 32 x)
    l2bad := (bad.filter (someDirty line d)).foldl addBad l2 }

/-- A dirty byte of a cache. -/
def dirtyByte (c : Cache) (pa : Nat) : Option Byte :=
  match tget c.dirty (pa / 128) with
  | some d => if d.mask.getLsbD (pa % 128) then some (lineByte d.data (pa % 128)) else none
  | none => none

/-- Bytes of one line made dirty in a cache, recorded at a scope (R256). (DEDUCED, log 45.) -/
def dirtyPut (c : Cache) (now scope pa : Nat) (bs : List Byte) : Cache :=
  let l := pa / 128
  let old : DirtyLine := tgetD c.dirty l { data := 0, mask := 0, scope, since := now }
  { c with
    dirty := tput c.dirty l { old with data := linePut old.data (pa % 128) bs, mask := old.mask ||| maskOf (pa % 128) bs.length, scope := max old.scope scope }
    bad := stillBad 8 c.bad pa bs.length
    clean := match tget c.clean l with | some d => tput c.clean l (linePut d (pa % 128) bs) | none => c.clean }

/-- A cache without the poison of lines that it does not hold. -/
def Cache.settleBad (c : Cache) : Cache :=
  if c.bad.isEmpty then c else { c with bad := c.bad.filter (fun x => (tget c.dirty (x / 16)).isSome || (tget c.clean (x / 16)).isSome) }

/-- A clean copy takes bytes that have been read or written elsewhere, so that no later load of the core reads older ones (R249). -/
def cleanTake (c : Cache) (pa : Nat) (bs : List Byte) : Cache :=
  match tget c.clean (pa / 128) with
  | some d => { c with clean := tput c.clean (pa / 128) (linePut d (pa % 128) bs) }
  | none => c

/-- Bytes of one line no longer dirty in a cache; a clean copy takes the new bytes. -/
def dirtyClear (c : Cache) (pa : Nat) (bs : List Byte) : Cache :=
  let l := pa / 128
  let dirty := match tget c.dirty l with
    | some d =>
      let m := d.mask &&& ~~~(maskOf (pa % 128) bs.length)
      if m = 0 then tdel c.dirty l else tput c.dirty l { d with mask := m }
    | none => c.dirty
  (cleanTake { c with dirty, bad := stillBad 8 c.bad pa bs.length } pa bs).settleBad

/-- Ownership of a line taken from every core but `k`: the predictor of a core whose line is recalled rises (R262). -/
def recallOwners (s : State) (k line : Nat) : State :=
  { s with cor := { s.cor with cores := s.cor.cores.map (fun (e : Nat × Core) =>
      if e.1 ≠ k ∧ e.2.owned.contains line then
        (e.1, { e.2 with owned := e.2.owned.erase line, predictor := tmod e.2.predictor (line % 1024) 0 (fun n => min 3 (n + 1)) })
      else e) } }

/-- A read of a range at the home by an agent other than core `k`'s own L1 recalls the owners of its lines (R262). -/
def recallLines (s : State) (k pa n : Nat) : State :=
  (List.range ((pa + n - 1) / 128 - pa / 128 + 1)).foldl (fun s i => recallOwners s k (pa / 128 + i)) s

/-- A line of a region cache written back to L2: the home recalls a core that owns it (R256, R262). -/
def regionWriteBack (s : State) (r line : Nat) : State :=
  match tget (s.region r).cache.dirty line with
  | some d =>
    let s := mergeLine (recallOwners s 192 line) line d (s.region r).cache.bad
    s.modRegion r (fun g => { g with cache := Cache.settleBad { g.cache with dirty := tdel g.cache.dirty line } })
  | none => s

/-- Every region's dirty bytes of a line written back before a `DEVICE` write to it (R256). -/
def recallRegions (s : State) (line : Nat) : State :=
  (List.range 24).foldl (fun s r => regionWriteBack s r line) s

/-- A write at `DEVICE` scope or wider by an agent outside the cores (`k` at least 192) or by core `k` (R256). -/
def deviceWrite (s : State) (k pa : Nat) (bs : List Byte) : State :=
  physWrite (recallOwners (recallRegions s (pa / 128)) k (pa / 128)) pa bs

/-- The parts of a range that lie in one line each, by their addresses. -/
def rangeLines (a n : Nat) : List Nat := if n = 0 then [] else (List.range ((a + n - 1) / 128 - a / 128 + 1)).map (fun i => if i = 0 then a else (a / 128 + i) * 128)

/-- A range written line by line by an agent outside the cores. -/
def deviceLines (s : State) (pa : Nat) (bs : List Byte) : State :=
  (rangeLines pa bs.length).foldl (fun s a => deviceWrite s 192 a ((bs.drop (a - pa)).take (128 - a % 128))) s

/-- The dirty bytes of a line taken into a region cache with the poison that stands on them: the line has been dirty since the older of the two (R258). -/
def takeLine (c : Cache) (line : Nat) (d : DirtyLine) (bad : List Nat) : Cache :=
  let c := (List.range 128).foldl (fun c i => if d.mask.getLsbD i then dirtyPut c d.since 2 (128 * line + i) [lineByte d.data i] else c) c
  { c with
    dirty := tupd c.dirty line (fun e => { e with since := min e.since d.since })
    bad := (bad.filter (someDirty line d)).foldl addBad (c.bad.filter (fun x => !wholeDirty line d 8 x)) }

/-- The dirty line of a table that has been dirty longest. -/
def oldestDirty (t : Tab DirtyLine) : Option Nat :=
  (t.foldl (fun (b : Option (Nat × Nat)) e => match b with | some x => if e.2.since < x.2 then some (e.1, e.2.since) else b | none => some (e.1, e.2.since)) none).map (·.1)

/-- Lines of a region cache of 4 MiB (R1). -/
def regionLines : Nat := 32768
/-- Lines of an L1 of 256 KiB (R1). -/
def l1Lines : Nat := 2048

/-- A region cache that holds a line more than it has room for evicts one to L2 (R1, R258). (DESIGN CHOICE, log 51.) -/
def trimRegion (s : State) (r : Nat) : State :=
  if regionLines < (s.region r).cache.dirty.length then
    match oldestDirty (s.region r).cache.dirty with | some l => regionWriteBack s r l | none => s
  else s

/-- A line of an L1 written back to the point of a scope (R257, R258). -/
def l1WriteBack (s : State) (k line scope : Nat) : State :=
  match tget (s.core k).l1.dirty line with
  | some d =>
    let bad := (s.core k).l1.bad
    let s := s.modCore k (fun c => { c with l1 := Cache.settleBad { c.l1 with dirty := tdel c.l1.dirty line } })
    if scope = 2 then
      trimRegion (s.modRegion (regionOf k) (fun g => { g with cache := takeLine g.cache line d bad })) (regionOf k)
    else mergeLine (recallOwners (recallRegions s line) k line) line d bad
  | none => s

/-- Lines that an L1 holds, dirty or clean. -/
def l1Held (c : Cache) : Nat := c.dirty.length + (c.clean.filter (fun e => (tget c.dirty e.1).isNone)).length

/-- Whether a load-block of a core pins a line (R259). -/
def pinnedLine (s : State) (k line : Nat) : Bool := s.cor.blocks.any (fun e => e.2.core = k && e.2.lines.any (fun l => l.1 = line))

/-- When a line of a cache is victimised: 0 next, 1 in turn, 2 last (R299). -/
def victimRank (c : Cache) (line : Nat) : Nat := match tget c.hints line with | some 1 => 0 | some 2 => 2 | _ => 1

/-- The victim of an L1 among the lines of a rank: a clean one that no load-block pins, or else the one dirty longest; with it, whether it is dirty. -/
def victimOf (s : State) (k rank : Nat) : Option (Nat × Bool) :=
  let c := (s.core k).l1
  match c.clean.find? (fun e => victimRank c e.1 = rank && (tget c.dirty e.1).isNone && !pinnedLine s k e.1) with
  | some e => some (e.1, false)
  | none => (oldestDirty (c.dirty.filter (fun e => victimRank c e.1 = rank))).map (·, true)

/-- An L1 that holds a line more than it has room for drops a clean victim, or evicts a dirty one to its region cache: `.STREAM` lines first, `.KEEP` lines
last (R1, R258, R299). (DESIGN CHOICE, log 51.) -/
def trimL1 (s : State) (k : Nat) : State :=
  if l1Lines < l1Held (s.core k).l1 then
    match [0, 1, 2].findSome? (victimOf s k) with
    | some (l, false) => s.modCore k (fun c => { c with l1 := Cache.settleBad { c.l1 with clean := tdel c.l1.clean l } })
    | some (l, true) => l1WriteBack s k l 2
    | none => s
  else s

/-- The lines of an access with a CACHE field in the core's L1 are victimised next or last (R299). -/
def noteHints (s : State) (k cache : Nat) (lines : List Nat) : State :=
  if cache = 0 then s
  else s.modCore k (fun c =>
    let held := lines.filter (fun l => (tget c.l1.dirty l).isSome || (tget c.l1.clean l).isSome)
    let old := c.l1.hints.filter (fun e => (tget c.l1.dirty e.1).isSome || (tget c.l1.clean e.1).isSome)
    { c with l1 := { c.l1 with hints := held.foldl (fun t l => tput t l cache) old } })

/-- A release at a scope by core `k`: what is recorded below the scope is written back to its point, the region's lines first (R257). -/
def releaseAt (s : State) (k scope : Nat) : State :=
  if scope < 2 then s
  else
    let s := if scope ≥ 3 then ((s.region (regionOf k)).cache.dirty.map (·.1)).foldl (fun s l => regionWriteBack s (regionOf k) l) s else s
    ((s.core k).l1.dirty.map (·.1)).foldl (fun s l => l1WriteBack s k l scope) s

/-- A load-block ended: its lines leave the L1; dirty bytes go onward as in an eviction (R258, R259). -/
def endBlock (s : State) (id : Nat) : State :=
  match tget s.cor.blocks id with
  | some b =>
    let s := b.lines.foldl (fun s e =>
      let s := l1WriteBack s b.core e.1 2
      s.modCore b.core (fun c => { c with l1 := Cache.settleBad { c.l1 with clean := tdel c.l1.clean e.1 } })) s
    { s with cor := { s.cor with blocks := tdel s.cor.blocks id } }
  | none => s

/-- An acquire at a scope by a thread of a group on core `k`: at `CLUSTER` or wider the clean lines go and the group's load-blocks end (R257, R259).
A block still filling stays: its fill has not been made (R360). -/
def acquireAt (s : State) (k gid scope : Nat) : State :=
  if scope < 2 then s
  else
    let ids := (s.cor.blocks.filter (fun e => e.2.gid = gid && !e.2.filling)).map (·.1)
    let s := ids.foldl endBlock s
    s.modCore k (fun c => { c with l1 := Cache.settleBad { c.l1 with clean := [] } })

/-! ## Translation (R239 to R244) -/

/-- Attributes of a resolved page: a leaf word whose ADDR is that of the 4 KiB page, with the page size (0 4 KiB, 1 64 KiB, 2 2 MiB, 3 1 GiB) above bit 64. -/
def leafW (l : Nat) : Bool := bit l 2
def leafX (l : Nat) : Bool := bit l 3
def leafOrd (l : Nat) : Nat := field l 4 2
def leafCp (l : Nat) : Nat := field l 6 2
def leafDsh (l : Nat) : Bool := bit l 8
def leafPa (l : Nat) : Nat := field l 12 40 * 4096
def leafPub (l : Nat) : Nat := field l 52 12
def leafSize (l : Nat) : Nat := l / 2 ^ 64

inductive WalkRes where
  | leaf (l : Nat)
  | absent
  | bad
  deriving DecidableEq, Repr

/-- An AS-table entry: the copy the device holds, or the entry in memory (R240). -/
def asEntry (s : State) (asid : Nat) : Nat × Nat :=
  match tget s.xlat.asCopies asid with
  | some e => (e.1.toNat, e.2.toNat)
  | none =>
    let a := s.xlat.asTab.toNat * 2 ^ 20 + 16 * asid
    (physNat s a 8, physNat s (a + 8) 8)

def asOk (e : Nat × Nat) : Bool := bit e.1 0 && field e.1 1 11 == 0 && field e.2 0 17 == 0 && field e.2 52 12 == 0
def asFabric (e : Nat × Nat) : Nat := field e.1 52 12
def asPubTab (e : Nat × Nat) : Nat := field e.2 17 35 * 2 ^ 17

/-- A leaf entry of a level, checked under R242 and resolved to the 4 KiB page of `va`. -/
def leafOf (e level va : Nat) : WalkRes :=
  let contig := bit e 9
  let log := if level = 2 then 30 else if level = 1 then 21 else if contig then 16 else 12
  let base := field e 12 40 * 4096
  let mmio := mmioBase ≤ base && base < mmioBase + 2 ^ 26
  if field e 10 2 ≠ 0 ∨ leafOrd e = 3 ∨ leafCp e = 3 ∨ (contig ∧ level ≠ 0) ∨ base % 2 ^ log ≠ 0 ∨ (leafDsh e ∧ !inDevice base (2 ^ log))
      ∨ !(inDevice base (2 ^ log) || inHost base (2 ^ log) || mmio) then .bad
  else
    let pa := base + va % 2 ^ log / 4096 * 4096
    if mmio ∧ (leafOrd e ≠ 1 ∨ pa ≠ mailboxBase) then .bad
    else
      let size := if level = 2 then 3 else if level = 1 then 2 else if contig then 1 else 0
      .leaf (setField e 12 40 (pa / 4096) + size * 2 ^ 64)

/-- The walk from a table of a level downward (R241). -/
def walkFrom (s : State) (va : Nat) : Nat → Nat → WalkRes
  | level, table =>
    let e := physNat s (table + 8 * field va (12 + 9 * level) 9) 8
    if !bit e 0 then .absent
    else if bit e 1 then (if level ≥ 3 then .bad else leafOf e level va)
    else match level with
      | 0 => .bad
      | l + 1 =>
        let next := field e 12 40 * 4096
        if e ≠ 1 + next ∨ !(inDevice next 4096 || inHost next 4096) then .bad
        else walkFrom s va l next

/-- A page walk (R240, R241). -/
def walk (s : State) (asid va : Nat) : WalkRes :=
  let e := asEntry s asid
  let root := field e.1 12 40 * 4096
  if !asOk e then .bad
  else if !(inDevice root 4096 || inHost root 4096) then .bad
  else walkFrom s va 4 root

/-- What a lookup of a page gives an access: a leaf, a miss in both TLBs, an access violation, or the trap of a failed walk or replay. -/
inductive Look where
  | hit (l : Nat)
  | miss
  | bad
  | fail (code : Nat)
  deriving DecidableEq, Repr

def tlbFind (l : List (Nat × Nat × Nat)) (asid vpn : Nat) : Option Nat :=
  (l.find? (fun e => e.1 = asid && e.2.1 = vpn)).map (·.2.2)

/-- The merge entry of a page that is being walked or awaits its replay (R244). -/
def mergeOf (s : State) (asid vpn : Nat) : Option (Nat × Merge) :=
  s.xlat.merge.find? (fun e => e.2.asid = asid && e.2.vpn = vpn && e.2.fail = 0)

/-- Whether an attachment is that of the issue group that executes. -/
def attachedCur (s : State) (m : Merge) : Bool :=
  match s.cur with
  | .coil gid c lanes pc => m.att.any (fun a => match a with | .coil g d l p => g == gid && d == c && p == pc && l &&& lanes != 0 | _ => false)
  | _ => false

/-- The failed walk or replay of a page whose answer the issue group that executes has not taken yet (R242, R279). -/
def failedOf (s : State) (asid vpn : Nat) : Option (Nat × Merge) :=
  s.xlat.merge.find? (fun e => e.2.asid = asid && e.2.vpn = vpn && e.2.fail ≠ 0 && attachedCur s e.2)

/-- The lookup of an engine of core `k`: its TLB, then its region's (R244). -/
def lookTlb (s : State) (k asid vpn : Nat) : Look :=
  match tlbFind (s.core k).tlb asid vpn with
  | some l => .hit l
  | none => match tlbFind (s.region (regionOf k)).tlb asid vpn with | some l => .hit l | none => .miss

/-- The lookup of a core for the issue group that executes: the outcome of a failed walk first, then its TLB, then its region's. -/
def lookCore (s : State) (k asid vpn : Nat) : Look :=
  match failedOf s asid vpn with
  | some (_, m) => .fail m.fail
  | none => lookTlb s k asid vpn

/-- The lookup of an agent of the hub that takes no part in the merge table, which walks at once. -/
def lookHub (s : State) (asid vpn : Nat) : Look :=
  match walk s asid (vpn * 4096) with
  | .leaf l => .hit l
  | .absent => .miss
  | .bad => .bad

/-- The lookup of an access that its core's TLBs have answered before: they, or the page table as it stands. -/
def lookAny (s : State) (k asid vpn : Nat) : Look :=
  match lookTlb s k asid vpn with
  | .miss => lookHub s asid vpn
  | l => l

/-- A publish-table entry: VBASE, SHIFT, LEN, ACTIVE, GEN (R264). -/
structure PubEntry where
  vbase : Nat
  shift : Nat
  len : Nat
  active : Bool
  gen : Nat
  deriving DecidableEq, Repr

def pubAddr (s : State) (asid n : Nat) : Nat := asPubTab (asEntry s asid) + 32 * n

/-- A publish-table entry, if it is valid (R264). -/
def pubEntry (s : State) (asid n : Nat) : Option PubEntry :=
  let a := pubAddr s asid n
  let w0 := physNat s a 8
  let w1 := physNat s (a + 8) 8
  let w2 := physNat s (a + 16) 8
  let w3 := physNat s (a + 24) 8
  if n = 0 ∨ n ≥ 4096 ∨ !asOk (asEntry s asid) ∨ w0 ≥ 2 ^ 57 ∨ w1 ≥ 2 ^ 57 ∨ w0 % 4096 ≠ 0 ∨ w1 % 4096 ≠ 0 ∨ w1 = 0 ∨ w2 ≥ 2 ^ 32 ∨ w2 = 0
      ∨ field w3 1 15 ≠ 0 then none
  else some { vbase := w0, shift := w1, len := w2, active := bit w3 0, gen := field w3 16 48 }

/-- Kinds of access: the direction or a fetch, and the backing chosen on a publishable page (R265): active, inactive, or a given one. -/
inductive Backing where
  | active | inactive | given (b : Bool)
  deriving DecidableEq, Repr

inductive TR where
  | ok (pa leaf : Nat)
  | miss (vpn : Nat)
  | bad
  | wfault (vpn : Nat)
  | fail (code vpn : Nat)
  deriving DecidableEq, Repr

/-- The rights of an access on a page (R242). -/
def rights (l : Nat) (write fetch : Bool) (vpn va : Nat) : TR :=
  if fetch && !leafX l then .bad else if write && !leafW l then .wfault vpn else .ok (leafPa l + va % 4096) l

/-- An address translated for an access: page, rights and publish entry (R239, R242, R264, R265). On a publishable page whose access goes to backing 1 the
rights of both pages are needed. (DESIGN CHOICE, log 63.) -/
def translate (s : State) (look : Nat → Look) (asid va : Nat) (write fetch : Bool) (backing : Backing) : TR :=
  if va ≥ 2 ^ 57 then .bad
  else
    let vpn := va / 4096
    match look vpn with
    | .miss => .miss vpn
    | .bad => .bad
    | .fail c => .fail c vpn
    | .hit l =>
      if leafPub l = 0 then rights l write fetch vpn va
      else match pubEntry s asid (leafPub l) with
        | none => .bad
        | some e =>
          if !(e.vbase ≤ va && va < e.vbase + 4096 * e.len) then .bad
          else
            let b := match backing with | .active => e.active | .inactive => !e.active | .given b => b
            match rights l write fetch vpn va with
            | .ok pa l' =>
              if !b then .ok pa l'
              else
                let va2 := (va + e.shift) % 2 ^ 57
                match look (va2 / 4096) with
                | .miss => .miss (va2 / 4096)
                | .bad => .bad
                | .fail c => .fail c (va2 / 4096)
                | .hit l2 => if leafPub l2 ≠ 0 then .bad else rights l2 write fetch (va2 / 4096) va2
            | r => r

/-- The pages that the translation of an address passes through, with their sizes: its own, and on a publishable one those of both backings (R243, R264). -/
def pagesOf (s : State) (look : Nat → Look) (asid va : Nat) : List (Nat × Nat) :=
  match look (va / 4096) with
  | .hit l => (va / 4096, leafSize l) :: (if leafPub l = 0 then [] else match pubEntry s asid (leafPub l) with
    | some e => let v := (va + e.shift) % 2 ^ 57 / 4096; (match look v with | .hit m => [(v, leafSize m)] | _ => [])
    | none => [])
  | _ => []

/-- Translation for an agent that walks at once. -/
def translateHub (s : State) (asid va : Nat) (write : Bool) : TR :=
  translate s (lookHub s asid) asid va write false .active

/-- A publish: ACTIVE and GEN change at the home in one step (R266), and no copy of the word in an L1 stays behind (R267). -/
def publishEntry (s : State) (asid n : Nat) : State :=
  match pubEntry s asid n with
  | some e =>
    let gen := if e.gen + 1 ≥ 2 ^ 48 then 1 else e.gen + 1
    let old : PubPast := { asid, entry := n, at_ := s.time, gen := e.gen, active := e.active }
    let s := { s with xlat := { s.xlat with pubPast := s.xlat.pubPast.filter (fun p => s.time < p.at_ + 256 * 55) ++ [old] } }
    let a := pubAddr s asid n + 24
    let bs := leBytes 8 ((if e.active then 0 else 1) + gen * 2 ^ 16)
    let s := deviceWrite s 192 a bs
    { s with cor := { s.cor with cores := s.cor.cores.map (fun (e : Nat × Core) => (e.1, { e.2 with l1 := cleanTake e.2.l1 a bs })) } }
  | none => s

/-- Whether a publish entry and its AS-table entry can be read (R61, R212). -/
def pubReadable (s : State) (asid n : Nat) : Bool :=
  ((tget s.xlat.asCopies asid).isSome || !poisoned s (s.xlat.asTab.toNat * 2 ^ 20 + 16 * asid) 16) && !poisoned s (pubAddr s asid n) 32

/-! ## Accesses of cores -/

/-- Whether a page's accesses go to L2 or beyond (R258, R260). -/
def bypass (leaf : Nat) : Bool := leafCp leaf ≠ 0 || leafOrd leaf == 1

/-- A byte as a load of core `k` at a scope reads it (R256). A page that the L1 does not allocate is read at L2 but for bytes that the core or its region
holds dirty through another mapping of the line (R252, R258). -/
def loadByte (s : State) (k leaf scope pa : Nat) : Byte :=
  match dirtyByte (s.core k).l1 pa with
  | some b => b
  | none =>
    match (if scope ≤ 1 ∧ bypass leaf = false then (tget (s.core k).l1.clean (pa / 128)).map (fun d => lineByte d (pa % 128)) else none) with
    | some b => b
    | none => (dirtyByte (s.region (regionOf k)).cache pa).getD (physGet s pa)

/-- Whether the unit that a load of core `k` at a scope reads a byte from is poisoned: that of the first level that holds the byte, where it holds the unit
whole, and otherwise what lies below it too (R27, R256). -/
def byteBad (s : State) (k leaf scope pa : Nat) : Bool :=
  let l1 := (s.core k).l1
  let rc := (s.region (regionOf k)).cache
  let below (c : Cache) (r : Bool) : Bool :=
    c.bad.contains (pa / 8) || (match tget c.dirty (pa / 128) with | some d => !wholeDirty (pa / 128) d 8 (pa / 8) && r | none => r)
  if (dirtyByte l1 pa).isSome then below l1 (poisoned s pa 1)
  else if scope ≤ 1 ∧ bypass leaf = false ∧ (tget l1.clean (pa / 128)).isSome then l1.bad.contains (pa / 8)
  else if (dirtyByte rc pa).isSome then below rc (poisoned s pa 1)
  else poisoned s pa 1

/-- Whether a load of core `k` meets an uncorrectable error, or bytes that cannot be reached (R14, R17, R27). -/
def loadBad (s : State) (k leaf scope pa n : Nat) : Bool := unreachable s pa || (List.range n).any (fun i => byteBad s k leaf scope (pa + i))

def loadBytes (s : State) (k leaf scope pa : Nat) : Nat → List Byte
  | 0 => []
  | n + 1 => loadByte s k leaf scope pa :: loadBytes s k leaf scope (pa + 1) n

def loadNat (s : State) (k leaf scope pa n : Nat) : Nat := leNat (loadBytes s k leaf scope pa n)

/-- A line as a fill of core `k` reads it. -/
def fillData (s : State) (k leaf line : Nat) : BitVec 1024 :=
  BitVec.ofNat 1024 (leNat (loadBytes s k leaf 2 (128 * line) 128))

/-- Poisoned units of a line as a fill of core `k` reads it: poison travels with the data (R27). -/
def fillBad (s : State) (k leaf line : Nat) : List Nat :=
  (unitsOf (128 * line) 128).filter (fun u => (List.range 8).any (fun i => byteBad s k leaf 2 (8 * u + i)))

/-- After a `THREAD` or `GROUP` load, the L1 holds a clean copy of the line; the home recalls a core that owns it (R256, R262). (DEDUCED, log 48.) -/
def fillClean (s : State) (k leaf scope pa : Nat) : State :=
  if scope > 1 ∨ bypass leaf ∨ (tget (s.core k).l1.clean (pa / 128)).isSome then s
  else
    let s := recallOwners s k (pa / 128)
    let d := fillData s k leaf (pa / 128)
    let bad := fillBad s k leaf (pa / 128)
    trimL1 (s.modCore k (fun c => { c with l1 := { c.l1 with clean := tput c.l1.clean (pa / 128) d, bad := bad.foldl addBad c.l1.bad } })) k

/-- What a load of core `k` leaves in its L1: a clean copy at `THREAD` or `GROUP` scope, and in every case no older bytes than it has read; a load at the home
takes the line from a core that owns it (R249, R256, R262). -/
def loadNote (s : State) (k leaf scope pa n : Nat) : State :=
  if scope ≤ 1 ∧ bypass leaf = false then fillClean s k leaf scope pa
  else
    let bs := loadBytes s k leaf scope pa n
    let s := recallOwners s k (pa / 128)
    s.modCore k (fun c => { c with l1 := cleanTake c.l1 pa bs })

/-- A store of core `k` at a scope, within one line (R256). -/
def storeBytes (s : State) (k leaf scope pa : Nat) (bs : List Byte) : State :=
  if bypass leaf then
    deviceWrite (s.modCore k (fun c => { c with l1 := dirtyClear c.l1 pa bs })) k pa bs
  else if scope ≤ 1 then trimL1 (s.modCore k (fun c => { c with l1 := dirtyPut c.l1 s.time 1 pa bs })) k
  else if scope = 2 then
    let s := s.modCore k (fun c => { c with l1 := dirtyClear c.l1 pa bs })
    trimRegion (s.modRegion (regionOf k) (fun g => { g with cache := dirtyPut g.cache s.time 2 pa bs })) (regionOf k)
  else deviceWrite (s.modCore k (fun c => { c with l1 := dirtyClear c.l1 pa bs })) k pa bs

/-- Whether an atomic is performed near: the predictor, the hints, and what is always at home (R262). (DEDUCED, log 46.) -/
def atomicNear (s : State) (k leaf pa place : Nat) : Bool :=
  if leafOrd leaf = 1 ∨ leafCp leaf = 2 ∨ inHost pa 1 then false
  else if place = 1 then true
  else if place = 2 then false
  else tgetD (s.core k).predictor (pa / 128 % 1024) 0 < 2

/-- The predictor and the ownership of the line after an atomic of core `k`: the counter falls where the line was owned near already, wherever the atomic
is performed (R262). -/
def atomicPlace (s : State) (k leaf pa place : Nat) : State :=
  let line := pa / 128
  let near := atomicNear s k leaf pa place
  (recallOwners s k line).modCore k (fun c =>
    let c := if c.owned.contains line then { c with predictor := tmod c.predictor (line % 1024) 0 (· - 1) } else c
    { c with owned := if near then (if c.owned.contains line then c.owned else line :: c.owned) else c.owned.erase line })

/-- Whether the bytes that an atomic of core `k` reads hold an uncorrectable error, those on their way home among them (R27). -/
def atomicBad (s : State) (k pa size : Nat) : Bool := poisoned (recallRegions (l1WriteBack s k (pa / 128) 3) (pa / 128)) pa size

/-- One atomic step on a line held at device coherence: the old value, and the memory with the new one, if any (R262, R364). The core's clean copy of the
line takes the bytes, so that no later load reads older ones (R249); a value made from an error is an error (R27). -/
def atomicStep (s : State) (k leaf pa size place : Nat) (f : Nat → Option Nat) : Nat × State :=
  let line := pa / 128
  let s := atomicPlace (recallRegions (l1WriteBack s k line 3) line) k leaf pa place
  let old := physNat s pa size
  let bad := poisoned s pa size
  match f old with
  | some v =>
    let bs := leBytes size v
    let t := physWrite (s.modCore k (fun c => { c with l1 := dirtyClear c.l1 pa bs })) pa bs
    (old, if bad then { t with l2bad := (unitsOf pa size).foldl addBad t.l2bad } else t)
  | none => (old, s.modCore k (fun c => { c with l1 := cleanTake c.l1 pa (physBytes s pa size) }))

/-! ## Event queues (R72) -/

def evDepth (q : Nat) : Nat := match q with | 0 => 256 | 1 => 1024 | 2 => 256 | 3 => 64 | 4 => 4096 | 5 => 256 | 6 => 64 | _ => 16

/-- An event record: source, kind, unit, payload (R72). (DEDUCED, log 10.) -/
def evRec (q kind unit : Nat) (payload : BitVec 96) : BitVec 128 :=
  BitVec.ofNat 128 (q + kind % 256 * 2 ^ 8 + unit % 65536 * 2 ^ 16 + payload.toNat * 2 ^ 32)

def State.events (s : State) (q : Nat) : List (BitVec 128) := tgetD s.fw.events q []
def State.setEvents (s : State) (q : Nat) (l : List (BitVec 128)) : State :=
  { s with fw := { s.fw with events := tput s.fw.events q l } }
def eventRoom (s : State) (q : Nat) : Bool := (s.events q).length < evDepth q

/-- 1 added to a 16-bit count that saturates. -/
def satInc (n : W16) : W16 := if n = 0xFFFF then n else n + 1

/-- A record posted to a queue, and what happens when it is full (R72). A record of SERVICE or FAULTQ beyond the depth is the one its unit holds; so is the
report of a launch that had been handed over on the direct path before ACCT filled. (DESIGN CHOICE, log 64.) -/
def postEvent (s : State) (q : Nat) (r : BitVec 128) : State :=
  let l := s.events q
  if l.length < evDepth q then
    let s := if q = 1 ∧ evDepth 1 ≤ l.length + 1 then { s with fw := { s.fw with acctHeld := true } } else s
    s.setEvents q (l ++ [r])
  else if q = 3 then
    let s := s.setEvents q (l.drop 1 ++ [r])
    { s with fw := { s.fw with ageLost := satInc s.fw.ageLost } }
  else if q = 6 then { s with fw := { s.fw with headevLost := satInc s.fw.headevLost } }
  else if q = 7 then s.setEvents q (l.dropLast ++ [r])
  else s.setEvents q (l ++ [r])

/-- A record whose kind and payload the unit defines without the spec stating them: free values (DESIGN CHOICE, log 3). -/
def postFree (s : State) (q unit : Nat) : State :=
  { postEvent s q (evRec q (Config.freeKind s.free).toNat unit (Config.freePayload s.free)) with free := s.free + 1 }

/-- A record whose payload holds a number that the spec names, in its low 32 bits, and is otherwise the unit's own: the region of an age notice, the status
of a unit of KC0 (R72, R87, R97). (DESIGN CHOICE, log 3.) -/
def postNote (s : State) (q unit low : Nat) : State :=
  { postEvent s q (evRec q (Config.freeKind s.free).toNat unit (BitVec.ofNat 96 (setField (Config.freePayload s.free).toNat 0 32 low))) with free := s.free + 1 }

/-! ## Merge table and page faults (R244, R277 to R279) -/

/-- The lowest unused index below `n`. -/
def freeIndex {α : Type} (t : Tab α) (n : Nat) : Option Nat := (List.range n).find? (fun i => (tget t i).isNone)

/-- Whether an attachment replaces another: an issue group is one by its coil and pc, a task's record by its coil. -/
def sameAttached : Attached → Attached → Bool
  | .coil g c l p, .coil h d m q => g == h && c == d && (l == 0) == (m == 0) && (l == 0 || p == q)
  | .copy a, .copy b => a == b
  | .param a, .param b => a == b
  | _, _ => false

/-- An attachment with the lanes of those that it replaces. -/
def joinLanes (l : List Attached) (a : Attached) : Attached :=
  l.foldl (fun a b => match a, b with | .coil g c m p, .coil _ _ n _ => .coil g c (m ||| n) p | a, _ => a) a

/-- An access attached to the merge entry of its page, a new one if there is none; a full table counts in MFULL (R244). The kind that the entry's record shows
is that of the first access attached, or 1 once a write has been (R278). (DESIGN CHOICE, log 65.) -/
def attachMiss (s : State) (asid vpn kind core : Nat) (a : Attached) : State :=
  match mergeOf s asid vpn with
  | some (i, m) =>
    let att := m.att.filter (fun b => !sameAttached a b) ++ [joinLanes (m.att.filter (sameAttached a)) a]
    let m := { m with att, kind := if kind = 1 then 1 else m.kind }
    { s with xlat := { s.xlat with merge := tput s.xlat.merge i m } }
  | none =>
    match freeIndex s.xlat.merge 4096 with
    | some i =>
      { s with xlat := { s.xlat with
        merge := tput s.xlat.merge i { asid, vpn, kind := BitVec.ofNat 8 kind, core := BitVec.ofNat 16 core, att := [a], seq := s.xlat.walks }
        walks := s.xlat.walks + 1 } }
    | none => { s with xlat := { s.xlat with mfull := if s.xlat.mfull = 65535 then 65535 else s.xlat.mfull + 1 } }

/-- An attachment that has taken the answer of a failed walk leaves its entry, and the last one frees it. -/
def detach (s : State) (asid vpn : Nat) (a : Attached) : State :=
  match failedOf s asid vpn with
  | some (i, m) =>
    let att := m.att.filterMap (fun b =>
      if sameAttached a b then (match a, b with | .coil g c l p, .coil _ _ n _ => if n &&& ~~~l = 0 then none else some (.coil g c (n &&& ~~~l) p) | _, _ => none)
      else some b)
    if att.isEmpty then { s with xlat := { s.xlat with merge := tdel s.xlat.merge i } }
    else { s with xlat := { s.xlat with merge := tput s.xlat.merge i { m with att } } }
  | none => s

/-- The FAULTQ record of a merge entry (R278). -/
def faultRecord (i : Nat) (m : Merge) : BitVec 128 :=
  BitVec.ofNat 128 (4 + m.kind.toNat * 2 ^ 8 + m.core.toNat * 2 ^ 16 + i * 2 ^ 32 + m.asid * 2 ^ 44 + m.vpn % 2 ^ 45 * 2 ^ 60)

def postFault (s : State) (i : Nat) : State :=
  match tget s.xlat.merge i with
  | some m =>
    let s := postEvent s 4 (faultRecord i m)
    { s with xlat := { s.xlat with merge := tput s.xlat.merge i { m with posted := true } } }
  | none => s

/-- A walk's result in both TLBs: the newest entries stay (R244). (DEDUCED, log 47.) -/
def fillTlb (s : State) (k asid vpn leaf : Nat) : State :=
  let put (n : Nat) (l : List (Nat × Nat × Nat)) := ((asid, vpn, leaf) :: l.filter (fun e => !(e.1 = asid && e.2.1 = vpn))).take n
  let s := s.modCore k (fun c => { c with tlb := put 256 c.tlb })
  s.modRegion (regionOf k) (fun g => { g with tlb := put 8192 g.tlb })

/-- The copy of its AS-table entry that the device holds after a walk (R240). -/
def holdAs (s : State) (asid : Nat) : State :=
  let e := asEntry s asid
  { s with xlat := { s.xlat with asCopies := tput s.xlat.asCopies asid (BitVec.ofNat 64 e.1, BitVec.ofNat 64 e.2) } }

/-! ## Groups, coils and threads -/

def State.group? (s : State) (gid : Nat) : Option Group := tget s.cor.groups gid
def State.group (s : State) (gid : Nat) : Group := tgetD s.cor.groups gid { cluster := 0, launch := 0, clgroup := 0, core := 0, slot0 := 0 }
def State.modGroup (s : State) (gid : Nat) (f : Group → Group) : State :=
  { s with cor := { s.cor with groups := tupd s.cor.groups gid f } }
def State.coil (s : State) (gid c : Nat) : Coil := ((s.group gid).coils[c]?).getD {}
def State.modCoil (s : State) (gid c : Nat) (f : Coil → Coil) : State :=
  s.modGroup gid (fun g => { g with coils := lmod f g.coils c })
def State.launch (s : State) (id : Nat) : Launch := tgetD s.disp.launches id {}
def State.modLaunch (s : State) (id : Nat) (f : Launch → Launch) : State :=
  { s with disp := { s.disp with launches := tupd s.disp.launches id f } }
def State.launchOf (s : State) (gid : Nat) : Launch := s.launch (s.group gid).launch
def State.asidOf (s : State) (gid : Nat) : Nat := (s.launchOf gid).asid.toNat

/-- Whether what a packet started has completed (R52). -/
def pendingDone (s : State) : Pending → Bool
  | .launch id => (s.launch id).ended.isSome
  | .launchWait id _ => (s.launch id).ended.isSome
  | .graph id => match tget s.disp.graphs id with | some g => g.ended | none => true
  | .copy id => (tget s.cor.copies id).isNone

def laneIn (lanes : W32) (t : Nat) : Bool := lanes.getLsbD t
/-- The lanes of a set in ascending order (R8). -/
def laneList (lanes : W32) : List Nat := (List.range 32).filter (laneIn lanes)
def laneMask (l : List Nat) : W32 := l.foldl (fun m t => m ||| BitVec.ofNat 32 (2 ^ t)) 0
def lowestLane (lanes : W32) : Nat := ((laneList lanes).head?).getD 0

/-- Threads of the lanes in a set changed. -/
def mapThreads (lanes : W32) (f : Thread → Thread) : Nat → List Thread → List Thread
  | _, [] => []
  | i, t :: ts => (if laneIn lanes i then f t else t) :: mapThreads lanes f (i + 1) ts

def Coil.mapLanes (co : Coil) (lanes : W32) (f : Thread → Thread) : Coil := { co with threads := mapThreads lanes f 0 co.threads }
def Coil.thread (co : Coil) (t : Nat) : Thread := (co.threads[t]?).getD {}
/-- The lanes whose threads satisfy a condition. -/
def Coil.lanesWhere (co : Coil) (p : Thread → Bool) : W32 :=
  laneMask ((List.range co.threads.length).filter (fun t => p (co.thread t)))

/-- A wait entered by some lanes of a coil; an explicit wait ends the sticky path's turn (R196). -/
def enterWait (s : State) (gid c : Nat) (lanes : W32) (w : Wait) (next : W64) : State :=
  let s := s.modCoil gid c (fun co =>
    { co.mapLanes lanes (fun t => { t with st := .waiting }) with waits := co.waits ++ [{ lanes, wait := w, order := s.cor.order, next }], turnOver := true })
  { s with cor := { s.cor with order := s.cor.order + 1 } }

/-- The misses that have been met: the accesses attached to each entry, and those counted on a full table (R244). -/
def missShape (s : State) : List (Nat × BitVec 8 × Nat) × W16 := (s.xlat.merge.map (fun e => (e.1, e.2.kind, e.2.att.length)), s.xlat.mfull)

/-- An issue slot of a coil taken by a path, which becomes or stays the sticky one (R196, R198). -/
def Coil.slotOf (co : Coil) (lanes : W32) : Coil :=
  { co with sticky := lanes, turnOver := false, stickyCount := if co.turnOver then 1 else co.stickyCount + 1 }

/-- A miss of a coil (R244, R277): it takes its issue slot (R198), and stalls on the merge entry of its page, or waits for the replay where the entry's record is posted; a miss that
finds the table full is counted once. -/
def missAt (s : State) (gid c : Nat) (lanes : W32) (pc : W64) (vpn kind : Nat) : State :=
  let asid := s.asidOf gid
  let full := (mergeOf s asid vpn).isNone && (freeIndex s.xlat.merge 4096).isNone
  if full && (s.coil gid c).missFull then s
  else
    let old := missShape s
    let s := attachMiss s asid vpn kind (s.group gid).core (.coil gid c lanes pc)
    let s := if missShape s = old then s else s.modCoil gid c (fun co => co.slotOf lanes)
    let s := if full || (s.coil gid c).missFull then s.modCoil gid c (fun co => { co with missFull := full }) else s
    match mergeOf s asid vpn with
    | some (i, m) => if m.posted then enterWait s gid c lanes (.fault i) pc else s
    | none => s

/-- The lanes of a wait continue at their next instruction. -/
def Coil.wake (co : Coil) (r : WaitRec) (lanes : W32) : Coil :=
  let left := r.lanes &&& ~~~lanes
  let co := co.mapLanes (r.lanes &&& lanes) (fun t => { t with st := .runnable, pc := r.next })
  { co with waits := co.waits.filterMap (fun q => if q = r then (if left = 0 then none else some { r with lanes := left }) else some q) }

/-- Every wait of a coil that satisfies a condition ends. -/
def Coil.wakeAll (co : Coil) (p : Wait → Bool) : Coil :=
  (co.waits.filter (fun r => p r.wait)).foldl (fun co r => co.wake r r.lanes) co

/-! ## Masks (R201, R324) -/

def Coil.mask (co : Coil) (m : Nat) : Mask := tgetD co.masks m {}
def Coil.setMask (co : Coil) (m : Nat) (k : Mask) : Coil := { co with masks := tput co.masks m k }

/-- Waiters of a mask in a set of lanes continue. -/
def Coil.wakeMask (co : Coil) (m : Nat) (lanes : W32) : Coil :=
  (co.waits.filter (fun r => r.wait = .mwait m)).foldl (fun co r => co.wake r lanes) co

/-- The release test of a mask: a record equal to a non-empty membership releases everyone. -/
def Coil.testMask (co : Coil) (m : Nat) : Coil :=
  let k := co.mask m
  if k.member ≠ 0 ∧ k.arrival = k.member then (co.setMask m { k with arrival := 0 }).wakeMask m 0xFFFFFFFF else co

/-- `MaskWrite` of R324. -/
def Coil.maskWrite (co : Coil) (m : Nat) (new : W32) : Coil :=
  let co := co.setMask m { member := new, arrival := (co.mask m).arrival &&& new }
  (co.wakeMask m (~~~new)).testMask m

/-- Lanes leave a mask (R201). -/
def Coil.leaveMask (co : Coil) (m : Nat) (lanes : W32) : Coil :=
  let k := co.mask m
  (co.setMask m { member := k.member &&& ~~~lanes, arrival := k.arrival &&& ~~~lanes }).testMask m

/-! ## Barriers, flags, barrier objects and tags -/

/-- Whether every thread of a group has exited or waits in a barrier. -/
def arrivedAll (g : Group) (p : Wait → Bool) : Bool :=
  g.coils.all (fun co =>
    let w := co.waits.foldl (fun m r => if p r.wait then m ||| r.lanes else m) (0 : W32)
    (List.range co.threads.length).all (fun t => (co.thread t).st = .exited || laneIn w t))

/-- The `BAR` episode of a group completes when every thread that has not exited has arrived (R367). -/
def testBar (s : State) (gid : Nat) : State :=
  if arrivedAll (s.group gid) (· = .bar) then s.modGroup gid (fun g => { g with coils := g.coils.map (·.wakeAll (· = .bar)) }) else s

def State.cluster (s : State) (id : Nat) : Cluster := tgetD s.disp.clusters id { launch := 0, x := 0, y := 0, z := 0 }

/-- The cc of a group's last arrival at a `CBAR`, the exit of its last thread that has not arrived among them (R367). -/
def noteCbar (s : State) (gid : Nat) : State :=
  if arrivedAll (s.group gid) (· = .cbar) then s.modGroup gid (fun g => { g with cbarAt := some (g.cbarAt.getD s.time) }) else s

/-- The `CBAR` episode of a cluster: an acquire at `CLUSTER` scope for its participants; the region counts it and each core's spread for R100. A group whose
threads have all exited has arrived at the later episodes too, as its last thread exited (R367). -/
def testCbar (s : State) (cl : Nat) : State :=
  let gs := (s.cluster cl).groups.filter (fun g => (s.group? g).isSome)
  let any := gs.any (fun g => (s.group g).coils.any (fun co => co.waits.any (fun r => r.wait = .cbar)))
  if any ∧ gs.all (fun g => arrivedAll (s.group g) (· = .cbar)) then
    let times := gs.map (fun g => ((s.group g).core, ((s.group g).cbarAt).getD s.time))
    let s := gs.foldl (fun s g =>
      let s := acquireAt s (s.group g).core g 2
      s.modGroup g (fun g => { g with
        coils := g.coils.map (·.wakeAll (· = .cbar))
        cbarAt := if g.coils.all (fun co => co.threads.all (fun t => t.st = .exited)) then g.cbarAt else none })) s
    let r := (s.cluster cl).region
    { s with mod := { s.mod with
        episodes := tmod s.mod.episodes r 0 (· + 1)
        balance := tmod s.mod.balance r [] (fun l => l ++ times.map (fun t => (t.1, (t.2 : Int), gs.length))) } }
  else s

/-- A flag of a core (R214). -/
def State.flag (s : State) (k f : Nat) : Nat := (tgetD (s.core k).flags f 0).toNat
def State.setFlag (s : State) (k f v : Nat) : State :=
  s.modCore k (fun c => { c with flags := tput c.flags f (BitVec.ofNat 16 v) })

/-- The waiters of a flag in issue order: those that can be satisfied subtract and continue, with an acquire at `DEVICE` (R214, R368). -/
def serveFlag (s : State) (k f : Nat) : State :=
  let all : List (Nat × Nat × Nat × WaitRec) := s.cor.groups.flatMap (fun (e : Nat × Group) =>
    if e.2.core ≠ k ∨ e.2.saved then [] else
      (List.range e.2.coils.length).flatMap (fun c => ((e.2.coils[c]?).getD {}).waits.filterMap (fun r =>
        match r.wait with | .flag g _ => if g = f then some (r.order, e.1, c, r) else none | _ => none)))
  let sorted := all.foldl (fun l x => l.takeWhile (fun y => y.1 < x.1) ++ [x] ++ l.dropWhile (fun y => y.1 < x.1)) []
  sorted.foldl (fun s x =>
    match x.2.2.2.wait with
    | .flag _ n =>
      let v := s.flag k f
      if n ≤ v then
        let s := acquireAt (s.setFlag k f (v - n)) k x.2.1 3
        s.modCoil x.2.1 x.2.2.1 (fun co => co.wake x.2.2.2 x.2.2.2.lanes)
      else s
    | _ => s) s

/-- An increment of a flag, saturating (R214). -/
def flagAdd (s : State) (k f n : Nat) : State := serveFlag (s.setFlag k f (min 0xFFFF (s.flag k f + n))) k f

/-! ## Traps (R270 to R275) -/

/-- A trap to be raised on an issue group: its code, the lanes that caused it, and what TRAPINFO and TRAPADDR hold (R271, R272). -/
structure TrapReq where
  code : Nat
  cause : W32 := 0xFFFFFFFF
  write : Bool := false
  reg : Nat := 0
  kind : Nat := 0
  imm : Nat := 0
  addrs : List W64 := []
  deriving DecidableEq, Repr

def tILLEGAL_INSN : Nat := 0x01
def tILLEGAL_REG : Nat := 0x02
def tEMPTY_READ : Nat := 0x03
def tILLEGAL_CONVERGENCE : Nat := 0x04
def tSTALE_BINDING : Nat := 0x05
def tSPARSE_META : Nat := 0x06
def tILLEGAL_OPERAND : Nat := 0x07
def tOS_GAP : Nat := 0x08
def tOS_ORDER : Nat := 0x09
def tMISALIGNED : Nat := 0x0A
def tACCESS_VIOLATION : Nat := 0x0B
def tPAGE_FAULT : Nat := 0x0C
def tFP_EXCEPTION : Nat := 0x0D
def tWATCHDOG : Nat := 0x0E
def tTRAP_INSN : Nat := 0x0F
def tMACHINE_CHECK : Nat := 0x10
def tBKPT : Nat := 0x11

/-- Codes of kind trap: the instruction has completed (R271). -/
def trapCompletes (code : Nat) : Bool := code == tFP_EXCEPTION || code == tTRAP_INSN || code == tBKPT

/-- Whether a trap on a set of lanes of a coil is fatal (R274). -/
def trapFatal (s : State) (gid c : Nat) (lanes : W32) (code : Nat) : Bool :=
  code == tMACHINE_CHECK || (s.launchOf gid).rec_.trapvec == 0 || (laneList lanes).any (fun t => ((s.coil gid c).thread t).intrap)

/-- The TRAPINFO of a lane, INTRAP aside (R272). -/
def trapInfo (t : TrapReq) (lane : Nat) : W32 :=
  BitVec.ofNat 32 ((if laneIn t.cause lane then 1 else 0) + (if t.write then 2 else 0) + t.reg % 256 * 2 ^ 3 + t.kind % 4 * 2 ^ 11 + t.imm % 65536 * 2 ^ 16)

/-- The threads of a set with their trap specials, INTRAP, and the pc at the handler (R270). -/
def trapThreads (lanes : W32) (t : TrapReq) (trappc vec : W64) : Nat → List Thread → List Thread
  | _, [] => []
  | i, th :: ths =>
    (if laneIn lanes i then
      { th with trapcode := BitVec.ofNat 8 t.code, trappc := trappc, trapaddr := (t.addrs[i]?).getD 0, trapinfo := trapInfo t i,
                intrap := true, st := .runnable, pc := vec }
     else th) :: trapThreads lanes t trappc vec (i + 1) ths

/-- The address in a containment record: of the data with the error for a `MACHINE_CHECK`, and of the access for a fault that gives one (R275). -/
def recordAddr (lanes : W32) (t : TrapReq) : W64 :=
  (t.addrs[lowestLane (if t.code = tMACHINE_CHECK then t.cause else lanes)]?).getD 0

/-- Whether a set of lanes holds the path that is sticky: that of the lowest runnable lane of the path issued last (R196, R317). -/
def Coil.onSticky (co : Coil) (lanes : W32) : Bool :=
  !co.turnOver && (match (laneList co.sticky).find? (fun l => (co.thread l).st = .runnable) with | some l => laneIn lanes l | none => false)

/-- The lanes that a trap takes from an `EMITP` that stalls half-way (R348). -/
def Emitting.trap (e : Emitting) (lanes : W32) : Emitting := { e with trapped := e.trapped ||| (e.lanes &&& lanes) }
/-- The lanes that return from a trap to a pc: they go on with the `EMITP` that they left there, and with no other (R273, R348). -/
def Emitting.resume (e : Emitting) (back : Nat → Option W64) : Option Emitting :=
  let here := laneMask ((laneList e.trapped).filter (fun l => back l = some e.pc))
  let gone := laneMask ((laneList e.trapped).filter (fun l => (back l).isSome && back l ≠ some e.pc))
  if e.lanes &&& ~~~gone = 0 then none
  else some { e with lanes := e.lanes &&& ~~~gone, trapped := e.trapped &&& ~~~(here ||| gone), left := e.left.filter (fun x => !laneIn gone x.1) }

/-- Taking a trap (R270): TRAPPC is the instruction for a fault and the next one for a trap; the threads continue at TRAPVEC and stay or become the
sticky path, whose turn is not over. A fatal trap does not enter the handler: the coil issues no more, and the dispatcher contains the launch (R274, R275). (DEDUCED, log 15.) -/
def raiseTrap (s : State) (gid c : Nat) (lanes : W32) (pc next : W64) (t : TrapReq) : State :=
  if trapFatal s gid c lanes t.code then
    let g := s.group gid
    let rec_ : Containment :=
      { code := BitVec.ofNat 8 t.code, cause := if t.code = tMACHINE_CHECK then 2 else if (s.launchOf gid).rec_.trapvec = 0 then 1 else 0,
        core := BitVec.ofNat 8 g.core, coil := BitVec.ofNat 5 c, lane := BitVec.ofNat 5 (lowestLane lanes), pc, addr := recordAddr lanes t }
    let s := s.modCoil gid c (fun co => { co with stopped := true, mcheck := co.mcheck || t.code == tMACHINE_CHECK })
    { s with disp := { s.disp with inbox := s.disp.inbox ++ [.contain g.launch rec_] } }
  else
    let vec : W64 := (s.launchOf gid).rec_.trapvec.setWidth 64
    s.modCoil gid c (fun co =>
      { co with threads := trapThreads lanes t (if trapCompletes t.code then next else pc) vec 0 co.threads
                sticky := lanes, turnOver := false, emitting := co.emitting.map (·.trap lanes)
                stickyCount := if co.onSticky lanes then co.stickyCount else 0 })

/-- Returning from a trap (R273): INTRAP clear, the pc at TRAPPC. -/
def returnTrap (co : Coil) (lanes : W32) : Coil :=
  { co.mapLanes lanes (fun t => { t with intrap := false, pc := t.trappc }) with
    emitting := co.emitting.bind (·.resume (fun l => if laneIn lanes l then some (co.thread l).trappc else none)) }

/-- A waiting instruction whose read meets an uncorrectable error: `MACHINE_CHECK` on the issue group that waits, with the address of the data (R275, R276). -/
def waitError (s : State) (gid c : Nat) (r : WaitRec) (addr : Nat) : State :=
  let pc := ((s.coil gid c).thread (lowestLane r.lanes)).pc
  let s := s.modCoil gid c (fun co => { co.mapLanes r.lanes (fun t => { t with st := .runnable }) with waits := co.waits.filter (fun q => q ≠ r) })
  raiseTrap s gid c r.lanes pc pc { code := tMACHINE_CHECK, cause := r.lanes, addrs := List.replicate 32 (BitVec.ofNat 64 addr) }

/-! ## Barrier objects, tags and local memory (R208, R212, R213) -/

/-- Bytes of a group's local memory (R208). -/
def localNat (s : State) (gid off n : Nat) : Nat := leNat (cellsBytes (s.group gid).lmem off n)
/-- Whether a local range holds an uncorrectable error (R27, R276). -/
def localBad (s : State) (gid off n : Nat) : Bool := anyBad (s.group gid).lbad off n
/-- The waits of a group's coils on a barrier object. -/
def boWaits (s : State) (gid off : Nat) : List (Nat × WaitRec) :=
  (List.range (s.group gid).coils.length).flatMap (fun c =>
    ((s.coil gid c).waits.filter (fun r => match r.wait with | .bo o _ => o == off | _ => false)).map (fun r => (c, r)))

/-- Waits of a group on a barrier object whose PHASE now differs end, with an acquire at `GROUP`; where the object holds an uncorrectable error they take it
(R213, R276, R376). -/
def testBo (s : State) (gid off : Nat) : State :=
  if localBad s gid off 8 then (boWaits s gid off).foldl (fun s x => waitError s gid x.1 x.2 off) s
  else s.modGroup gid (fun g =>
    let phase := (cellGet g.lmem (off + 4)).toNat % 2 == 1
    { g with coils := g.coils.map (·.wakeAll (fun w => match w with | .bo o p => o == off && p != phase | _ => false)) })

/-- `n` added to PENDING modulo 2^32; a result of 0 toggles PHASE (R213, R366). -/
def countBo (s : State) (gid off : Nat) (n : Int) : State :=
  let s := s.modGroup gid (fun g =>
    let v := wrap ((leNat (cellsBytes g.lmem off 4) : Int) + n) 32
    let m := cellsWrite g.lmem off (leBytes 4 v)
    { g with lmem := if v = 0 then cellPut m (off + 4) (cellGet m (off + 4) ^^^ 1) else m })
  testBo s gid off

/-- Every wait of a group on a barrier object examined: its local memory has changed (R213). -/
def testAllBo (s : State) (gid : Nat) : State :=
  let offs := (s.group gid).coils.flatMap (fun co => co.waits.filterMap (fun r => match r.wait with | .bo o _ => some o | _ => none))
  offs.foldl (fun s o => testBo s gid o) s

/-- Bytes stored to a group's local memory: a unit replaced whole is poisoned no more (R27). -/
def localWrite (s : State) (gid off : Nat) (bs : List Byte) : State :=
  testAllBo (s.modGroup gid (fun g => { g with lmem := cellsWrite g.lmem off bs, lbad := stillBad 8 g.lbad off bs.length })) gid
/-- Bytes of local memory that a group sees (R208). -/
def localSize (s : State) (gid : Nat) : Nat := (s.launchOf gid).rec_.lmem * 4096

/-- The scope of the acquire that an observed tag set gives: the widest among their completions, `GROUP` at least (R212). -/
def tagScopes (g : Group) (mask : W64) : Nat :=
  (List.range 64).foldl (fun m t => if mask.getLsbD t then max m (tgetD g.tagScope t 1) else m) 1

/-- Tag waits whose condition now holds end: D of a `WAITANY` receives the bits, and the wait is an acquire (R377). -/
def testTags (s : State) (gid : Nat) : State :=
  let g := s.group gid
  let ready (r : WaitRec) : Bool := match r.wait with
    | .all m => g.tagbits &&& m = m
    | .any _ m => g.tagbits &&& m ≠ 0
    | _ => false
  let any := g.coils.any (fun co => co.waits.any ready)
  if !any then s
  else
    let scope := g.coils.foldl (fun m co => co.waits.foldl (fun m r => if ready r then
      (match r.wait with | .all k => max m (tagScopes g k) | .any _ k => max m (tagScopes g (g.tagbits &&& k)) | _ => m) else m) m) 1
    let s := s.modGroup gid (fun g => { g with coils := g.coils.map (fun co =>
      (co.waits.filter ready).foldl (fun co r =>
        let co := match r.wait with
          | .any (.s n) m =>
            let v := (g.tagbits &&& m).toNat
            { co with s := tput (tput co.s n.toNat (BitVec.ofNat 32 v)) (n.toNat + 1) (BitVec.ofNat 32 (v / 2 ^ 32)) }
          | _ => co
        co.wake r r.lanes) co) })
    acquireAt s g.core gid scope

/-- `CKICK`, `LDBLK` and `ACDRAIN` on a tag: one more outstanding, the bit clear (R212). -/
def tagKick (s : State) (gid tag : Nat) : State :=
  s.modGroup gid (fun g => { g with
    outst := tmod g.outst tag 0 (· + 1), tagbits := g.tagbits &&& ~~~(BitVec.ofNat 64 (2 ^ tag)), tagScope := tdel g.tagScope tag })

/-- A completion of a tag at a scope: one less outstanding; at 0 the bit is set (R212, R360). -/
def tagDone (s : State) (gid tag scope : Nat) : State :=
  let s := s.modGroup gid (fun g =>
    let n := tgetD g.outst tag 0 - 1
    { g with outst := if n = 0 then tdel g.outst tag else tput g.outst tag n
             tagScope := tmod g.tagScope tag 1 (max scope)
             tagbits := if n = 0 then g.tagbits ||| BitVec.ofNat 64 (2 ^ tag) else g.tagbits })
  testTags s gid

end Sys2Proof.Machine
end

