-- ==== Sys2Proof/Machine/Operands.lean ====
section
/-! DEFINITION. The operand forms of a Xamal instruction (R203, R204, R296 to R298), and the issue of one instruction for an issue
group: the checks made for its active threads, and what is done when it completes, stalls or traps (R202, R204, R270). -/
namespace Sys2Proof.Machine

/-! ## Values -/

/-- How an operand is read: 32-, 64- and 128-bit integers, FP32, FP64, and two packed halves of format `c` (R298, R315, R335). -/
inductive OTy where
  | i32 | i64 | b128 | f32 | f64
  | h (c : Nat)
  deriving DecidableEq, Repr

/-- Registers that an operand of a type takes (R203). -/
def OTy.words : OTy → Nat
  | .i32 | .f32 | .h _ => 1
  | .i64 | .f64 => 2
  | .b128 => 4

/-- An integer converted exactly to a code of a format. -/
def intCode (c : Nat) (n : Int) : Nat := (narrow c (xOfQ (qInt n)) 0 false 0).1

/-- FP32 bits widened exactly to FP64 (R298). (DEDUCED, log 14.) -/
def widen32 (w : Nat) : Nat :=
  if field w 23 8 = 255 then field w 31 1 * 2 ^ 63 + 2047 * 2 ^ 52 + field w 0 23 * 2 ^ 29
  else (narrow 11 (valueOf 10 w) 0 false 0).1

/-- An immediate source: the 8-bit field, or the word of the two-word form (R298). -/
def immOf (ty : OTy) (e : Ext) (i : BitVec 8) : Nat :=
  match e with
  | .i w =>
    let v := w.toNat % 2 ^ 32
    match ty with
    | .i32 | .f32 | .h _ => v
    | .i64 => wrap (sext v 32) 64
    | .b128 => wrap (sext v 32) 128
    | .f64 => widen32 v
  | _ =>
    let n := i.toInt
    match ty with
    | .i32 => wrap n 32
    | .i64 => wrap n 64
    | .b128 => wrap n 128
    | .f32 => intCode 10 n
    | .f64 => intCode 11 n
    | .h c => intCode c n * (1 + 2 ^ 16)

/-- The registers from `n` of a lane as one number, the first in the low bits (R203). -/
def Coil.vNat (co : Coil) (lane : Nat) : Nat → Nat → Nat
  | _, 0 => 0
  | n, w + 1 => (tgetD co.v (n * 32 + lane) 0).toNat + 2 ^ 32 * co.vNat lane (n + 1) w
def Coil.sNat (co : Coil) : Nat → Nat → Nat
  | _, 0 => 0
  | n, w + 1 => (tgetD co.s n 0).toNat + 2 ^ 32 * co.sNat (n + 1) w

/-- Registers from `n` written with the words of a number. -/
def Coil.vPut (co : Coil) (lane n : Nat) : Nat → Nat → Coil
  | 0, _ => co
  | w + 1, v => ({ co with v := tput co.v (n * 32 + lane) (BitVec.ofNat 32 v) }).vPut lane (n + 1) w (v / 2 ^ 32)
def Coil.sPut (co : Coil) (n : Nat) : Nat → Nat → Coil
  | 0, _ => co
  | w + 1, v => ({ co with s := tput co.s n (BitVec.ofNat 32 v) }).sPut (n + 1) w (v / 2 ^ 32)

/-- A source of a lane (R297). -/
def Coil.src (co : Coil) (e : Ext) (ty : OTy) (lane : Nat) : Src → Nat
  | .v n _ => co.vNat lane n.toNat ty.words
  | .s n _ => co.sNat n.toNat ty.words
  | .imm i => immOf ty e i
  | .mask m => (co.mask m.toNat).member.toNat
  | .zero => 0

/-- A destination register of a lane written with `w` words. -/
def Coil.dst (co : Coil) (lane w : Nat) (d : Dst) (v : Nat) : Coil :=
  match d with
  | .v n => co.vPut lane n.toNat w v
  | .s n => co.sPut n.toNat w v
  | _ => co

/-! ## Register checks -/

/-- Registers that an instruction names: kind `s` or `v`, first number, how many, the trap bit, and whether it is the destination. -/
structure Named where
  isS : Bool
  n : Nat
  w : Nat
  trap : Bool := false
  isD : Bool := false
  /-- the one lane in which it is named, active or not (R333) -/
  lane : Option Nat := none
  deriving DecidableEq, Repr

/-- How many registers of each operand an instruction reads or writes; 0 where the operand is not a register operand. -/
structure Needs where
  a : Nat := 0
  b : Nat := 0
  c : Nat := 0
  d : Nat := 0
  deriving DecidableEq, Repr

def namedSrc (s : Src) (w : Nat) : List Named :=
  if w = 0 then [] else match s with
  | .v n t => [{ isS := false, n := n.toNat, w, trap := t }]
  | .s n t => [{ isS := true, n := n.toNat, w, trap := t }]
  | _ => []
def namedDst (d : Dst) (w : Nat) : List Named :=
  if w = 0 then [] else match d with
  | .v n => [{ isS := false, n := n.toNat, w, isD := true }]
  | .s n => [{ isS := true, n := n.toNat, w, isD := true }]
  | _ => []
def namedOf (x : XOp) (n : Needs) : List Named := namedSrc x.a n.a ++ namedSrc x.b n.b ++ namedSrc x.c n.c ++ namedDst x.dst n.d

/-- A register name outside the coil's allocation or not aligned for its width (R203). -/
def Named.illegal (r : Named) (granules : Nat) : Bool := r.n % r.w ≠ 0 || (!r.isS && r.n + r.w > 8 * granules)
/-- Keys of the registers named in a lane. -/
def Named.keys (r : Named) (lane : Nat) : List Nat := (List.range r.w).map (fun i => if r.isS then r.n + i else (r.n + i) * 32 + r.lane.getD lane)
/-- Whether a register named is empty in a lane (R204). -/
def Named.empty (r : Named) (co : Coil) (lane : Nat) : Bool :=
  (r.keys lane).any (fun k => if r.isS then co.sEmpty.contains k else co.vEmpty.contains k)
/-- The key of a register named among the errors of a coil. -/
def Named.errKey (r : Named) (k : Nat) : Nat := if r.isS then 8192 + k else k
/-- The protected unit of a register named: an even and an odd register (R27). -/
def Named.unit (r : Named) (k : Nat) : Nat := if r.isS then 8192 + k / 2 * 2 else k / 64 * 64 + k % 32
/-- Whether a register named lies in a poisoned unit (R27). -/
def Named.struck (r : Named) (co : Coil) (lane : Nat) : Bool := (r.keys lane).any (fun k => co.struck.contains (r.unit k))
/-- Whether a register named has an error: one pending in it, or, where it is read, a poisoned unit (R27, R276). -/
def Named.bad (r : Named) (co : Coil) (lane : Nat) : Bool :=
  (r.keys lane).any (fun k => co.bad.contains (r.errKey k)) || (!r.isD && r.struck co lane)

/-- The address of the first error pending in the registers named, in each lane (R275). -/
def errorAddrs (co : Coil) (rs : List Named) : List W64 :=
  (List.range 32).map (fun l => ((rs.findSome? (fun r => (r.keys l).findSome? (fun k => tget co.badAt (r.errKey k)))).getD 0))
/-- The address of the first error pending in a register of each lane (R275). -/
def pendingAddrs (co : Coil) : List W64 :=
  (List.range 32).map (fun l => (((co.badAt.find? (fun e => 8192 ≤ e.1 || e.1 % 32 == l)).map (·.2)).getD 0))

/-- A unit that destinations replace whole is poisoned no more; one that they replace in part stays so (R27). -/
def Coil.replaceUnits (co : Coil) (act : List Nat) (rs : List Named) : Coil :=
  let whole := rs.flatMap (fun r => if r.isD ∧ 2 ≤ r.w then act.flatMap (fun l => (r.keys l).map r.unit) else [])
  { co with struck := co.struck.filter (fun u => !whole.contains u) }

inductive Gate where
  | go
  | stall
  | trap (t : TrapReq)
  deriving DecidableEq, Repr

/-- The checks made for the active threads before an instruction is performed: names, pending errors, full/empty (R203, R204, R276). (DEDUCED, log 13.) -/
def gate (co : Coil) (act : List Nat) (rs : List Named) : Gate :=
  match rs.find? (fun r => r.illegal co.granules) with
  | some r => .trap { code := tILLEGAL_REG, cause := laneMask act, reg := r.n, kind := if r.isS then 1 else 0 }
  | none =>
    if rs.any (fun r => act.any (r.bad co)) then
      .trap { code := tMACHINE_CHECK, cause := laneMask (act.filter (fun l => rs.any (fun r => r.bad co l))), addrs := errorAddrs co rs }
    else match rs.find? (fun r => r.trap && act.any (r.empty co)) with
      | some r => .trap { code := tEMPTY_READ, cause := laneMask (act.filter (r.empty co)), reg := r.n, kind := if r.isS then 1 else 0 }
      | none => if rs.any (fun r => act.any (r.empty co)) then .stall else .go

/-! ## Issue -/

/-- What an instruction's performance sees: the group and coil, the issue group and its pc, the next pc, the active lanes, the fields, the coil as it
was at issue, and the core. -/
structure Ctx where
  gid : Nat
  c : Nat
  lanes : W32
  pc : W64
  next : W64
  act : List Nat
  x : XOp
  co : Coil
  k : Nat

/-- How a performance ends. `done` has completed, with flags of lanes; `stall` leaves the machine as it was; `miss` waits for a page walk of kind read 0,
write 1; `failed` meets a page whose walk or replay failed; `trap` is performed for no thread; `hold` stalls with what it has begun kept, and `trapIn`
traps with what it has done kept. -/
inductive Res where
  | done (s : State) (fl : List (Nat × Flags) := [])
  | stall
  | miss (vpn kind : Nat)
  | failed (vpn : Nat) (t : TrapReq)
  | trap (t : TrapReq)
  | hold (s : State)
  | trapIn (s : State) (t : TrapReq)

/-- Bytes of an instruction: 16 with a second word (R296). -/
def xopSize (x : XOp) : Nat := if x.ext.present then 16 else 8

/-- The threads for which an instruction is active (R202). -/
def activeOf (co : Coil) (x : XOp) (lanes : W32) : W32 :=
  if x.msk = 15 then lanes
  else
    let m := (co.mask x.msk.toNat).member
    lanes &&& (if x.mn then ~~~m else m)

/-- An issue: the group becomes or stays the sticky path and its counts restart (R196 to R200). -/
def markIssued (s : State) (gid c : Nat) (lanes : W32) : State :=
  let s := s.modCoil gid c (fun co =>
    (co.mapLanes lanes (fun t => { t with lastIssue := s.cor.order, wdogFrom := coreCycles s (s.group gid).core })).slotOf lanes)
  { s with cor := { s.cor with order := s.cor.order + 1 } }

/-- Flags raised by lanes in their FPSTAT (R230). -/
def addFlags (s : State) (gid c : Nat) (fl : List (Nat × Flags)) : State :=
  fl.foldl (fun s f => s.modCoil gid c (fun co => co.mapLanes (laneMask [f.1]) (fun t => { t with fpstat := t.fpstat ||| f.2 }))) s

/-- Lanes of a flag list whose trap enables meet their flags (R230). -/
def trapLanes (co : Coil) (fl : List (Nat × Flags)) : W32 :=
  laneMask ((fl.filter (fun f => (co.thread f.1).fptrap &&& f.2 ≠ 0)).map (·.1))

/-- The poisoned units that an instruction's destinations replace (R27). -/
def replaceUnits (s : State) (gid c : Nat) (co : Coil) (act : List Nat) (rs : List Named) : State :=
  if rs.any (fun r => r.isD && act.any (r.struck co)) then s.modCoil gid c (·.replaceUnits act rs) else s

/-- The issue of a Xamal instruction by the coil that executes: `rs` names its registers, `body` performs it, and `missed` is what a miss leaves besides
(R202, R204, R270). -/
def issueOn (x : XOp) (rs : List Named) (body : Ctx → State → Res) (s : State) (missed : State → State := id) : State :=
  match s.cur with
  | .coil gid c lanes pc =>
    let co := s.coil gid c
    let act := laneList (activeOf co x lanes)
    let next := pc + BitVec.ofNat 64 (xopSize x)
    let k := (s.group gid).core
    let s1 := markIssued s gid c lanes
    let s2 := s1.modCoil gid c (fun co => co.mapLanes lanes (fun t => { t with pc := next }))
    if act.isEmpty then s2
    else match gate co act rs with
      | .trap t => raiseTrap s1 gid c lanes pc next t
      | .stall => s
      | .go =>
        match body { gid, c, lanes, pc, next, act, x, co, k } s2 with
        | .done s3 fl =>
          let s4 := addFlags (replaceUnits s3 gid c co act rs) gid c fl
          let t := trapLanes (s4.coil gid c) fl
          if t = 0 then s4 else raiseTrap s4 gid c lanes pc next { code := tFP_EXCEPTION, cause := t }
        | .stall => s
        | .miss vpn kind => missed (missAt s gid c lanes pc vpn kind)
        | .failed vpn t => raiseTrap (detach s1 (s.asidOf gid) vpn (.coil gid c lanes pc)) gid c lanes pc next t
        | .trap t => raiseTrap s1 gid c lanes pc next t
        | .hold s3 => s3.modCoil gid c (fun q => { q with threads := co.threads })
        | .trapIn s3 t => raiseTrap s3 gid c lanes pc next t
  | _ => s

/-- An issue that names its operands' registers alone. -/
def issue (x : XOp) (n : Needs) (body : Ctx → State → Res) (s : State) : State := issueOn x (namedOf x n) body s

/-! ## Reads and writes of a performance -/

def Ctx.a (cx : Ctx) (ty : OTy) (lane : Nat) : Nat := cx.co.src cx.x.ext ty lane cx.x.a
def Ctx.b (cx : Ctx) (ty : OTy) (lane : Nat) : Nat := cx.co.src cx.x.ext ty lane cx.x.b
def Ctx.cc (cx : Ctx) (ty : OTy) (lane : Nat) : Nat := cx.co.src cx.x.ext ty lane cx.x.c
/-- The active lanes as a set. -/
def Ctx.actMask (cx : Ctx) : W32 := laneMask cx.act
def Ctx.low (cx : Ctx) : Nat := (cx.act.head?).getD 0
def Ctx.high (cx : Ctx) : Nat := (cx.act.getLast?).getD 0
def Ctx.modCo (cx : Ctx) (s : State) (f : Coil → Coil) : State := s.modCoil cx.gid cx.c f
def Ctx.fn (cx : Ctx) : Nat := cx.x.fn.toNat

/-- Results of lanes written to D in ascending lane order: an `s` destination keeps the highest lane's (R316). -/
def Ctx.write (cx : Ctx) (s : State) (w : Nat) (vals : List (Nat × Nat)) : State :=
  cx.modCo s (fun co => vals.foldl (fun co v => co.dst v.1 w cx.x.dst v.2) co)

/-- A short-latency result for each active thread. -/
def perLane (w : Nat) (f : Ctx → Nat → Nat) (cx : Ctx) (s : State) : Res :=
  .done (cx.write s w (cx.act.map (fun t => (t, f cx t))))

/-- A short-latency result with its flags for each active thread. -/
def perLaneF (w : Nat) (f : Ctx → Nat → Nat × Flags) (cx : Ctx) (s : State) : Res :=
  let r := cx.act.map (fun t => (t, f cx t))
  .done (cx.write s w (r.map (fun e => (e.1, e.2.1)))) (r.map (fun e => (e.1, e.2.2)))

/-- Registers of D in a lane, as a landing names them. -/
def dstRegs (d : Dst) (w lane : Nat) : List (Bool × Nat × Nat) :=
  match d with
  | .v n => (List.range w).map (fun i => (false, n.toNat + i, lane))
  | .s n => (List.range w).map (fun i => (true, n.toNat + i, 0))
  | _ => []

/-- The words of a value beside the registers that receive them. -/
def landWords : List (Bool × Nat × Nat) → Nat → List ((Bool × Nat × Nat) × W32)
  | [], _ => []
  | r :: t, v => (r, BitVec.ofNat 32 v) :: landWords t (v / 2 ^ 32)

/-- Registers marked empty (R204). -/
def Coil.markEmpty (co : Coil) (rs : List (Bool × Nat × Nat)) : Coil :=
  rs.foldl (fun co r => if r.1 then { co with sEmpty := co.sEmpty.erase r.2.1 ++ [r.2.1] }
    else { co with vEmpty := co.vEmpty.erase (r.2.1 * 32 + r.2.2) ++ [r.2.1 * 32 + r.2.2] }) co

/-- A long-latency result of lanes: D is empty until it lands, from `due` on; `bad` marks data with an uncorrectable error (R204, R276). -/
def Ctx.later (cx : Ctx) (s : State) (w : Nat) (vals : List (Nat × Nat)) (bad : Bool := false) (due : Nat := 0) (addr : W64 := 0) : State :=
  cx.modCo s (fun co =>
    let regs := vals.flatMap (fun v => landWords (dstRegs cx.x.dst w v.1) v.2)
    { co.markEmpty (regs.map (·.1)) with landings := co.landings ++ [{ regs, bad, due, addr }] })

/-- A long-latency result for each active thread. Its flags are recorded, and the `FP_EXCEPTION` that they may raise is taken, as it issues. (DESIGN CHOICE,
log 66.) -/
def perLaneLong (w : Nat) (f : Ctx → Nat → Nat × Flags) (cx : Ctx) (s : State) : Res :=
  let r := cx.act.map (fun t => (t, f cx t))
  .done (cx.later s w (r.map (fun e => (e.1, e.2.1)))) (r.map (fun e => (e.1, e.2.2)))

/-- The pc of lanes set. -/
def Ctx.jump (cx : Ctx) (s : State) (targets : List (Nat × W64)) : State :=
  cx.modCo s (fun co => targets.foldl (fun co t => co.mapLanes (laneMask [t.1]) (fun th => { th with pc := t.2 })) co)

/-- Lanes enter a wait: their pc stays at the waiting instruction (R196, R285). -/
def Ctx.wait (cx : Ctx) (s : State) (lanes : W32) (w : Wait) : State :=
  if lanes = 0 then s
  else enterWait (cx.modCo s (fun co => co.mapLanes lanes (fun t => { t with pc := cx.pc }))) cx.gid cx.c lanes w cx.next

/-- The sticky path's turn ends (R196). -/
def Ctx.turnOver (cx : Ctx) (s : State) : State := cx.modCo s (fun co => { co with turnOver := true })

def Ctx.trapAll (cx : Ctx) (code : Nat) : Res := .trap { code, cause := cx.actMask }
def Ctx.trapSome (_ : Ctx) (code : Nat) (lanes : List Nat) : Res := .trap { code, cause := laneMask lanes }

/-- `MACHINE_CHECK` for errors pending in registers of lanes, with the addresses that they came from (R275, R276). -/
def Ctx.pendingTrap (cx : Ctx) (lanes : List Nat) : Res := .trap { code := tMACHINE_CHECK, cause := laneMask lanes, addrs := pendingAddrs cx.co }

/-- The launch of the executing group. -/
def Ctx.launch (cx : Ctx) (s : State) : Launch := s.launchOf cx.gid
/-- CODE of the launch (R81). -/
def Ctx.code (cx : Ctx) (s : State) : W64 := (cx.launch s).rec_.code.setWidth 64
/-- A format slot of the launch (R225). -/
def Ctx.slot (cx : Ctx) (s : State) (n : Nat) : Nat := (((cx.launch s).rec_.fslots[n]?).getD 0).toNat

end Sys2Proof.Machine
end

