-- ==== Sys2Proof/Machine/Sections.lean ====
section
/-! DEFINITION. Ordered sections: the key tables of the L2 slices and what enters, leaves, skips and expires there (R369 to R373, R280, R282). -/
namespace Sys2Proof.Machine

def State.slice (s : State) (i : Nat) : Slice := tgetD s.slices i {}
def State.modSlice (s : State) (i : Nat) (f : Slice → Slice) : State := { s with slices := tmod s.slices i {} f }

/-- The home slice of a key (R369). -/
def keySlice (dom : BitVec 8) (key : W32) : Nat :=
  let h := key.toNat ^^^ (dom.toNat * 0x01010101)
  (field h 0 7 ^^^ field h 7 7 ^^^ field h 14 7 ^^^ field h 21 7 ^^^ field h 28 4) % 128

/-- The entry of a key at its home. -/
def findKey (s : State) (sl : Nat) (asid : W16) (dom : BitVec 8) (key : W32) : Option (Nat × KeyEntry) :=
  (s.slice sl).keys.find? (fun e => e.2.asid = asid && e.2.dom = dom && e.2.key = key)

/-- The physical slice of its die that serves a logical slice (R34, R39). -/
def physSlice (s : State) (n : Nat) : Nat := ((tget s.mod.slicePhys n).map (·.toNat)).getD (n % 32)
/-- The logical slices that the physical slice of a logical slice serves (R39). -/
def sharers (s : State) (sl : Nat) : List Nat :=
  if s.mod.sliceShared.contains sl then
    ((List.range 32).map (· + sl / 32 * 32)).filter (fun m => s.mod.sliceShared.contains m && physSlice s m == physSlice s sl)
  else [sl]

/-- Whether the key table of a slice is full: 512 entries, for both logical slices together once a lost slice's entries have moved (R39, R369). -/
def keyFull (s : State) (sl : Nat) : Bool :=
  (s.slice sl).keys.length ≥ 512
    || (s.mod.sliceShared.contains sl && ((sharers s sl).map (fun m => (s.slice m).keys.length)).foldl (· + ·) 0 == 512)

/-- A new entry: nextseq 0, no holder (R370). -/
def allocKey (s : State) (sl : Nat) (asid : W16) (dom : BitVec 8) (key : W32) : Nat × State :=
  let id := (s.slice sl).nextKey
  (id, s.modSlice sl (fun t => { t with keys := tput t.keys id { asid, dom, key, wdogAt := s.time }, nextKey := id + 1 }))

/-- Whether a request of a slice's overflow queue is for a key. -/
def KeyEntry.here (e : KeyEntry) (q : W16 × BitVec 8 × W32 × Waiter) : Bool := q.1 == e.asid && q.2.1 == e.dom && q.2.2.1 == e.key
/-- Whether a thread waits on a key at its entry or in the overflow queue of its slice. -/
def keyAwaited (s : State) (e : KeyEntry) : Bool :=
  e.waiters.any (fun w => !w.skip) || (s.slice (keySlice e.dom e.key)).overflow.any (fun q => e.here q && !q.2.2.2.skip)
/-- Whether a key's watchdog counts: it has a waiter and no holder, and no context of its address space is saved (R282). -/
def keyCounts (s : State) (e : KeyEntry) : Bool := e.holder.isNone && keyAwaited s e && (tget s.disp.paused e.asid.toNat).isNone
/-- The watchdog's count brought up to the present (R282). -/
def tickKey (s : State) (e : KeyEntry) : KeyEntry := { e with wdog := if keyCounts s e then e.wdog + (s.time - e.wdogAt) else e.wdog, wdogAt := s.time }

/-- An entry changed, its watchdog counted up to now first. -/
def modKey (s : State) (sl id : Nat) (f : KeyEntry → KeyEntry) : State := s.modSlice sl (fun t => { t with keys := tupd t.keys id (fun e => f (tickKey s e)) })

/-- How far a seq is ahead of nextseq, modulo 2^32. -/
def seqAhead (e : KeyEntry) (seq : W32) : Nat := (seq - e.nextseq).toNat

/-- A consumed seq: behind nextseq, or marked in the window (R370). -/
def seqConsumed (e : KeyEntry) (seq : W32) : Bool :=
  2 ^ 31 ≤ seqAhead e seq || (seqAhead e seq < 64 && e.skips.getLsbD (seqAhead e seq))

/-- A claimed seq (R370). -/
def seqClaimed (e : KeyEntry) (seq : W32) : Bool :=
  seqConsumed e seq || (e.holder.isSome && seq = e.nextseq) || e.waiters.any (fun w => w.seq = seq)

/-- Skips that the home holds beyond the window, entered as far as they now fall within it (R372). -/
def windowIn (e : KeyEntry) : KeyEntry :=
  let inn := e.lateSkips.filter (fun q => seqAhead e q < 64)
  { e with
    lateSkips := e.lateSkips.filter (fun q => !(seqAhead e q < 64))
    skips := inn.foldl (fun k q => k ||| BitVec.ofNat 64 (2 ^ seqAhead e q)) e.skips }

/-- nextseq passes marked seqs while no thread holds the key (R372). -/
def advanceKey : Nat → KeyEntry → KeyEntry
  | 0, e => e
  | n + 1, e =>
    let e := windowIn e
    if e.holder.isNone ∧ e.skips.getLsbD 0 then advanceKey n { e with nextseq := e.nextseq + 1, skips := e.skips >>> (1 : Nat) } else e

def advanced (e : KeyEntry) : KeyEntry := advanceKey (65 + e.lateSkips.length) e

/-- A wait of one lane ended without its instruction: the thread is at the waiting instruction again (R285). -/
def withdrawLane (s : State) (gid c lane : Nat) : State :=
  s.modCoil gid c (fun co =>
    let m := laneMask [lane]
    let co := co.mapLanes m (fun t => if t.st = .waiting then { t with st := .runnable } else t)
    { co with waits := co.waits.filterMap (fun r => let l := r.lanes &&& ~~~m; if l = 0 then none else some { r with lanes := l }) })

/-- `OS_GAP` raised in a waiting thread; a skip whose thread has gone on raises none (R370, R282). (DEDUCED, log 16.) -/
def raiseGap (s : State) (key : W32) (w : Waiter) : State :=
  if w.skip then s
  else
    let pc := ((s.coil w.gid w.coil).thread w.lane).pc
    let s := withdrawLane s w.gid w.coil w.lane
    let m := laneMask [w.lane]
    raiseTrap s w.gid w.coil m pc (pc + 8) { code := tOS_GAP, cause := m, addrs := List.replicate 32 (key.setWidth 64) }

/-- Waiters whose seq is consumed take `OS_GAP` (R370). -/
def examineKey (s : State) (sl id : Nat) : State :=
  match tget (s.slice sl).keys id with
  | some e =>
    let gone := e.waiters.filter (fun w => seqConsumed e w.seq)
    gone.foldl (fun s w => raiseGap s e.key w) (modKey s sl id (fun e => { e with waiters := e.waiters.filter (fun w => !seqConsumed e w.seq) }))
  | none => s

/-- Whether a waiter can be granted now (R370). -/
def grantable (e : KeyEntry) : Option Waiter := if e.holder.isSome then none else e.waiters.find? (fun w => w.seq = e.nextseq)

/-- A thread holds a key: D receives the status, and the grant is an acquire at `DEVICE` scope (R370). -/
def takeKey (s : State) (sl id : Nat) (gid c lane : Nat) (d : Dst) : State :=
  match tget (s.slice sl).keys id with
  | some e =>
    let s := modKey s sl id (fun e => { e with holder := some { gid, coil := c, lane }, wdog := 0 })
    let s := s.modCoil gid c (fun co =>
      (co.dst lane 1 d (if e.abandoned then 1 else 0)).mapLanes (laneMask [lane])
        (fun t => { t with
          keys := t.keys ++ [{ dom := e.dom, key := e.key, seq := e.nextseq }]
          frag := t.frag.map (fun f => if e.dom = 0 ∧ f.key = e.key ∧ f.seq = e.nextseq then { f with sectioned := true } else f) }))
    acquireAt s (s.group gid).core gid 3
  | none => s

/-- The grant of a waiting `OSENTER` (R370). -/
def grantKey (s : State) (sl id : Nat) : State :=
  match tget (s.slice sl).keys id with
  | some e =>
    match grantable e with
    | some w =>
      let s := modKey s sl id (fun e => { e with waiters := e.waiters.erase w })
      match (s.coil w.gid w.coil).waits.find? (fun r => laneIn r.lanes w.lane) with
      | some r =>
        let d := match r.wait with | .os d _ _ _ => d | _ => .v 0
        let s := s.modCoil w.gid w.coil (fun co => co.wake r (laneMask [w.lane]))
        takeKey s sl id w.gid w.coil w.lane d
      | none => s
    | none => s
  | none => s

/-- A skip entered at an entry: within the window marked, beyond it held by the home (R372). -/
def enterSkip (s : State) (sl id : Nat) (seq : W32) : State :=
  let s := modKey s sl id (fun e =>
    let e := if seqAhead e seq < 64 then { e with skips := e.skips ||| BitVec.ofNat 64 (2 ^ seqAhead e seq) } else { e with lateSkips := e.lateSkips ++ [seq] }
    advanced { e with wdog := 0 })
  examineKey s sl id

/-- A request at an entry: an `OSENTER` waits there or takes `OS_GAP`; a skip is entered, unless its seq has been claimed meanwhile (R370, R372). -/
def joinKey (s : State) (sl id : Nat) (w : Waiter) : State :=
  match tget (s.slice sl).keys id with
  | some e =>
    if w.skip then
      if seqClaimed e w.seq then s else enterSkip s sl id w.seq
    else if seqConsumed e w.seq then raiseGap s e.key w
    else modKey s sl id (fun e => { e with waiters := e.waiters ++ [w] })
  | none => s

/-- Requests of the overflow queue served as entries free, in arrival order (R373). -/
def drainOverflow (sl : Nat) : Nat → State → State
  | 0, s => s
  | n + 1, s =>
    match (s.slice sl).overflow with
    | [] => s
    | (asid, dom, key, w) :: rest =>
      match findKey s sl asid dom key with
      | some (id, _) => drainOverflow sl n (joinKey ((modKey s sl id (fun e => e)).modSlice sl (fun t => { t with overflow := rest })) sl id w)
      | none =>
        if keyFull s sl then s
        else
          let (id, s) := allocKey (s.modSlice sl (fun t => { t with overflow := rest })) sl asid dom key
          drainOverflow sl n (joinKey s sl id w)

def serveOverflow (s : State) (sl : Nat) : State := (sharers s sl).foldl (fun s m => drainOverflow m (s.slice m).overflow.length s) s

/-- Whether a request finds neither an entry nor room for one, and the overflow queue full too (R373). -/
def noRoom (s : State) (asid : W16) (dom : BitVec 8) (key : W32) : Bool :=
  (findKey s (keySlice dom key) asid dom key).isNone && keyFull s (keySlice dom key) && 64 ≤ (s.slice (keySlice dom key)).overflow.length

/-- A request at the home of its key: joined, or queued where there is no entry for it (R373); the home itself finds room for an implicit skip (R372). -/
def requestKey (s : State) (asid : W16) (dom : BitVec 8) (key : W32) (w : Waiter) : State :=
  let sl := keySlice dom key
  match findKey s sl asid dom key with
  | some (id, _) => joinKey s sl id w
  | none =>
    if !keyFull s sl then
      let (id, s) := allocKey s sl asid dom key
      joinKey s sl id w
    else s.modSlice sl (fun t => { t with overflow := t.overflow ++ [(asid, dom, key, w)] })

/-- A leave: nextseq rises and the key has no holder; `.LAST` frees the entry, and waiters and the skips that the home holds meet a new one (R371, R372). -/
def leaveKey (s : State) (asid : W16) (dom : BitVec 8) (key : W32) (last abandoned : Bool) : State :=
  let sl := keySlice dom key
  match findKey s sl asid dom key with
  | some (id, e) =>
    if last then
      if e.waiters.isEmpty ∧ e.lateSkips.isEmpty then serveOverflow (s.modSlice sl (fun t => { t with keys := tdel t.keys id })) sl
      else examineKey (modKey s sl id (fun e => advanced { asid, dom, key, waiters := e.waiters, lateSkips := e.lateSkips, wdogAt := s.time })) sl id
    else
      let s := modKey s sl id (fun e =>
        advanced { e with nextseq := e.nextseq + 1, skips := e.skips >>> (1 : Nat), holder := none, abandoned := e.abandoned || abandoned, wdog := 0 })
      examineKey s sl id
  | none => s

/-- A key leaves a thread's list. -/
def dropKey (s : State) (gid c lane : Nat) (dom : BitVec 8) (key : W32) : State :=
  s.modCoil gid c (fun co => co.mapLanes (laneMask [lane]) (fun t => { t with keys := t.keys.filter (fun k => !(k.dom = dom && k.key = key)) }))

/-- Every key of a thread left implicitly with the abandoned bit set (R280, R319): a leave is a release at `DEVICE` scope (R371). -/
def abandonKeys (s : State) (gid c lane : Nat) : State :=
  let asid := (s.launchOf gid).asid
  let keys := ((s.coil gid c).thread lane).keys
  let s := if keys.isEmpty then s else releaseAt s (s.group gid).core 3
  keys.foldl (fun s k => leaveKey (dropKey s gid c lane k.dom k.key) asid k.dom k.key false true) s

/-- A key freed at its home, with the requests for it that wait for an entry: none but implicit skips are left (R156). -/
def freeKey (s : State) (asid : W16) (dom : BitVec 8) (key : W32) : State :=
  let sl := keySlice dom key
  let e : KeyEntry := { asid, dom, key, wdogAt := 0 }
  let here (k : KeyEntry) : Bool := k.asid == asid && k.dom == dom && k.key == key
  if (s.slice sl).keys.any (fun k => here k.2) || (s.slice sl).overflow.any e.here then
    serveOverflow (s.modSlice sl (fun t => { t with keys := t.keys.filter (fun k => !here k.2), overflow := t.overflow.filter (fun q => !e.here q) })) sl
  else s

/-- Requests of a thread leave the home tables: its place in a wait or a queue goes (R285). -/
def forgetRequests (s : State) (gid c lane : Nat) : State :=
  let mine (w : Waiter) : Bool := !w.skip && w.gid = gid && w.coil = c && w.lane = lane
  { s with slices := s.slices.map (fun (e : Nat × Slice) => (e.1, { e.2 with
      keys := e.2.keys.map (fun k => (k.1, if k.2.waiters.any mine || e.2.overflow.any (fun q => mine q.2.2.2) then { tickKey s k.2 with waiters := k.2.waiters.filter (fun w => !mine w) } else k.2))
      overflow := e.2.overflow.filter (fun q => !mine q.2.2.2) })) }

/-- The skip window is 64 seqs from nextseq: a skip beyond it is held back (R372). -/
def skipHeld (s : State) (asid : W16) (dom : BitVec 8) (key seq : W32) : Bool :=
  match findKey s (keySlice dom key) asid dom key with
  | some (_, e) => 64 ≤ seqAhead e seq && seqAhead e seq < 2 ^ 31
  | none => 64 ≤ seq.toNat && seq.toNat < 2 ^ 31

/-- Whether an `OSSKIP` of a seq takes `OS_GAP` (R372). -/
def skipGap (s : State) (asid : W16) (dom : BitVec 8) (key seq : W32) : Bool :=
  match findKey s (keySlice dom key) asid dom key with
  | some (_, e) => seqClaimed e seq
  | none => 2 ^ 31 ≤ seq.toNat || (s.slice (keySlice dom key)).overflow.any (fun q => q.1 = asid && q.2.1 = dom && q.2.2.1 = key && q.2.2.2.seq = seq)

/-- The pass of a thread that shades a fragment, if that pass is programmable (R155). -/
def progFrag (s : State) (t : Thread) : Option ThreadFrag :=
  match t.frag with
  | some f => match tget s.gfx.passes f.pass with
    | some p => if p.desc.ordered && p.desc.prog then some f else none
    | none => none
  | none => none

/-- The end of a fragment's section duty when its thread exits: an implicit skip or leave, a release at `DEVICE` scope as an explicit one is (R371, R372), other
keys left with the abandoned bit (R156, R319). -/
def endSections (s : State) (gid c lane : Nat) : State :=
  let t := (s.coil gid c).thread lane
  let asid := (s.launchOf gid).asid
  match progFrag s t with
  | some f =>
    let s := if f.sectioned ∧ t.keys.isEmpty then s else releaseAt s (s.group gid).core 3
    let s := if t.keys.any (fun k => k.dom = 0 && k.key = f.key) then leaveKey (dropKey s gid c lane 0 f.key) asid 0 f.key false false else s
    let s := if f.sectioned then s else requestKey s asid 0 f.key { gid := 0, coil := 0, lane := 0, seq := f.seq, skip := true }
    abandonKeys s gid c lane
  | none => abandonKeys s gid c lane

end Sys2Proof.Machine
end

