-- ==== Sys2Proof/Machine/Threads.lean ====
section
/-! DEFINITION. The ends of threads and coils: what a thread leaves behind, when a coil has completed, and the group's register pool
(R124, R125, R153, R319, R351). -/
namespace Sys2Proof.Machine

def State.modRender (s : State) (id : Nat) (f : Render → Render) : State :=
  { s with gfx := { s.gfx with renders := tupd s.gfx.renders id f } }
def State.modPass (s : State) (id : Nat) (f : Pass → Pass) : State :=
  { s with gfx := { s.gfx with passes := tupd s.gfx.passes id f } }

/-- Vector registers of granules from `lo` up to `hi` set to 0 and full. -/
def Coil.clearGranules (co : Coil) (lo hi : Nat) : Coil :=
  { co with v := co.v.filter (fun e => e.1 < 256 * lo || 256 * hi ≤ e.1), vEmpty := co.vEmpty.filter (fun k => k < 256 * lo || 256 * hi ≤ k) }

/-- The first waiting `REGCLAIM` of a group: its order, coil, count and record. -/
def firstClaim (g : Group) : Option (Nat × Nat × Nat × WaitRec) :=
  let all := (List.range g.coils.length).flatMap (fun c => ((g.coils[c]?).getD {}).waits.filterMap (fun r =>
    match r.wait with | .claim n => some (r.order, c, n, r) | _ => none))
  all.foldl (fun (b : Option (Nat × Nat × Nat × WaitRec)) x => match b with | some y => if x.1 < y.1 then some x else b | none => some x) none

/-- Waiting claims served strictly in issue order (R125). -/
def serveClaims (gid : Nat) : Nat → State → State
  | 0, s => s
  | n + 1, s =>
    let g := s.group gid
    match firstClaim g with
    | some (_, c, k, r) =>
      if k ≤ g.pool then
        serveClaims gid n ((s.modGroup gid (fun g => { g with pool := g.pool - k })).modCoil gid c (fun co =>
          ({ co with granules := co.granules + k }.clearGranules co.granules (co.granules + k)).wake r r.lanes))
      else s
    | none => s

/-- A coil whose threads have all exited and whose results have landed has completed: its granules return to the pool (R124, R319). -/
def settleCoil (s : State) (gid c : Nat) : State :=
  let co := s.coil gid c
  if co.threads.all (fun t => t.st = .exited) ∧ co.landings.isEmpty ∧ !co.complete then
    let s := s.modCoil gid c (fun co => { co with complete := true, granules := 0 })
    let s := s.modGroup gid (fun g => { g with pool := g.pool + co.granules })
    serveClaims gid 32 s
  else s

/-- A fragment's shading has ended: with the colour and motion of an `EXIT`, or with nothing (R153, R351). -/
def endFragment (s : State) (co : Coil) (lane : Nat) (kill : Bool) : State :=
  match (co.thread lane).frag with
  | some f =>
    let cover := BitVec.ofNat 16 (field f.info.toNat 5 16)
    let result := if kill then none else some ((List.range 5).map (fun i => tgetD co.v (i * 32 + lane) 0), cover)
    s.modRender f.render (fun r => { r with frags := lmod (fun g => { g with done := true, result }) r.frags f.idx })
  | none => s

/-- One thread ends: it leaves every mask and its sections (R201, R319). -/
def endThread (kill : Bool) (s : State) (gid c lane : Nat) : State :=
  let co := s.coil gid c
  let s := endFragment s co lane kill
  let s := s.modCoil gid c (fun co =>
    (List.range 12).foldl (fun co m => co.leaveMask m (laneMask [lane])) (co.mapLanes (laneMask [lane]) (fun t => { t with st := .exited })))
  endSections s gid c lane

/-- Threads end; barriers that waited only for them complete, and their coil may have completed (R319, R367). -/
def endThreads (s : State) (gid c : Nat) (lanes : List Nat) (kill : Bool) : State :=
  let s := lanes.foldl (fun s l => endThread kill s gid c l) s
  let s := settleCoil (noteCbar (testBar s gid) gid) gid c
  testCbar s (s.group gid).cluster

/-- Lanes with an error pending in one of their registers (R276). -/
def pendingError (co : Coil) (lanes : List Nat) : List Nat :=
  lanes.filter (fun l => co.bad.any (fun k => 8192 ≤ k || k % 32 == l))

end Sys2Proof.Machine
end

