-- ==== Sys2Proof/Machine/Control.lean ====
section
/-! DEFINITION. Xamal control, mask and special-register instructions (R317 to R325). -/
namespace Sys2Proof.Machine

/-- The pcs of lanes set; a split of the path restarts the fairness count (R198, R317). -/
def Ctx.branch (cx : Ctx) (s : State) (targets : List (Nat × W64)) : State :=
  let s := cx.jump s targets
  cx.modCo s (fun co =>
    let ps := (laneList cx.lanes).map (fun l => (co.thread l).pc)
    if ps.all (fun p => some p == ps.head?) then co else { co with stickyCount := 0 })

/-- An integer type field (R315). -/
def tyOf (ty : Nat) : OTy := if ty = 2 then .i64 else .i32
/-- A value as the type reads it (R315). -/
def readInt (ty v : Nat) : Int := if ty = 1 then (v : Int) else if ty = 0 then sext v 32 else sext v 64
/-- The conditions of `ICMP` and `BRC` (R304). -/
def intCond (cond : Nat) (a b : Int) : Bool :=
  match cond with | 0 => a == b | 1 => a != b | 2 => a < b | 3 => a ≤ b | 4 => a > b | _ => a ≥ b

def execNop (x : XOp) (s : State) : Out := .next (issue x {} (fun _ s => .done s) s)

/-- The branch offset of format B (R299). -/
def ofsOf (x : XOp) : W64 := match x.ext with | .b o => BitVec.ofInt 64 o.toInt | _ => 0

def execBra (x : XOp) (s : State) : Out :=
  .next (issue x {} (fun cx s => .done (cx.branch s (cx.act.map (fun t => (t, cx.pc + ofsOf x))))) s)

def execBrc (x : XOp) (s : State) : Out :=
  let ty := x.fn.toNat % 4
  let w := (tyOf ty).words
  .next (issue x { a := w, b := w } (fun cx s =>
    .done (cx.branch s ((cx.act.filter (fun t => intCond (x.fn.toNat / 8) (readInt ty (cx.a (tyOf ty) t)) (readInt ty (cx.b (tyOf ty) t)))).map
      (fun t => (t, cx.pc + ofsOf x))))) s)

/-- CODE + a (R317). -/
def indirect (cx : Ctx) (s : State) (t : Nat) : W64 := cx.code s + BitVec.ofNat 64 (cx.a .i32 t)

def execBrx (x : XOp) (s : State) : Out :=
  .next (issue x { a := 1 } (fun cx s => .done (cx.branch s (cx.act.map (fun t => (t, indirect cx s t))))) s)

/-- The link: the next pc as an offset from CODE (R317). -/
def writeLink (cx : Ctx) (s : State) : State := cx.write s 1 (cx.act.map (fun t => (t, (cx.next - cx.code s).toNat % 2 ^ 32)))

def execCall (x : XOp) (s : State) : Out :=
  .next (issue x { d := 1 } (fun cx s => .done (cx.branch (writeLink cx s) (cx.act.map (fun t => (t, cx.pc + ofsOf x))))) s)

def execCallx (x : XOp) (s : State) : Out :=
  .next (issue x { a := 1, d := 1 } (fun cx s => .done (cx.branch (writeLink cx s) (cx.act.map (fun t => (t, indirect cx s t))))) s)

def execRet (x : XOp) (s : State) : Out :=
  .next (issue x { a := 1 } (fun cx s => .done (cx.branch s (cx.act.map (fun t => (t, indirect cx s t))))) s)

/-- Lanes whose fragment's colour and motion, which `EXIT` reads, hold an uncorrectable error (R153, R276). -/
def badColour (co : Coil) (lanes : List Nat) : List Nat :=
  lanes.filter (fun l => (co.thread l).frag.isSome && ({ isS := false, n := 0, w := 5 } : Named).struck co l)

/-- `EXIT` and `KILL` (R104, R276, R319, R351). -/
def endBody (kill : Bool) (cx : Ctx) (s : State) : Res :=
  let bad := pendingError cx.co cx.act ++ (if kill then [] else badColour cx.co cx.act)
  if !bad.isEmpty then cx.pendingTrap bad
  else if cx.co.task.isSome then cx.trapAll tILLEGAL_INSN
  else .done (endThreads s cx.gid cx.c cx.act kill)

def execExit (x : XOp) (s : State) : Out := .next (issue x {} (endBody false) s)

/-- `TRAP` and `BKPT`: raised on the active threads alone (R320). -/
def softTrap (code : Nat) (cx : Ctx) (s : State) : Res :=
  .done (raiseTrap s cx.gid cx.c cx.actMask cx.pc cx.next { code, cause := cx.actMask, imm := cx.a .i32 cx.low % 2 ^ 16 })

def execTrap (x : XOp) (s : State) : Out := .next (issue x {} (softTrap tTRAP_INSN) s)
def execBkpt (x : XOp) (s : State) : Out := .next (issue x {} (softTrap tBKPT) s)

/-- Whether FAIR is set in the launch (R81, R198). -/
def Ctx.fair (cx : Ctx) (s : State) : Bool := (cx.launch s).rec_.fair

def yieldBody (cx : Ctx) (s : State) : Res := .done (if cx.fair s then cx.turnOver s else s)

def execYield (x : XOp) (s : State) : Out := .next (issue x {} yieldBody s)

/-- `SLEEP` holds its active threads, or with `FAIR` = 0 its path, for n cc of the core (R321). -/
def execSleep (x : XOp) (s : State) : Out :=
  .next (issue x { a := 1 } (fun cx s =>
    let n := min (cx.a .i32 cx.low) 65535
    let hold (lanes : W32) : State := cx.modCo s (fun co => co.mapLanes lanes (fun t => { t with heldUntil := coreCycles s cx.k + n }))
    if n = 0 then yieldBody cx s else .done (if cx.fair s then cx.turnOver (hold cx.actMask) else hold cx.lanes)) s)

/-! ## Specials (R207, R272, R305, R322) -/

/-- The value of a special of a thread (R305). -/
def specialValue (cx : Ctx) (s : State) (n t : Nat) : Nat :=
  let g := s.group cx.gid
  let cl := s.cluster g.cluster
  let th := cx.co.thread t
  let fr (f : ThreadFrag → W32) : Nat := match th.frag with | some q => (f q).toNat | none => 0
  match n with
  | 0x00 => t
  | 0x01 => cx.c
  | 0x02 => g.core + g.slot0 * 256
  | 0x03 => cl.x
  | 0x04 => cl.y
  | 0x05 => cl.z
  | 0x06 => g.clgroup
  | 0x07 => cx.co.role.toNat
  | 0x08 => coreClock s cx.k
  | 0x09 => g.tagbits.toNat
  | 0x0A => cx.co.fairtime
  | 0x0B => th.fpstat.toNat
  | 0x0C => th.fptrap.toNat
  | 0x0D => cx.co.pass.toNat
  | 0x10 => th.trapcode.toNat
  | 0x11 => th.trappc.toNat
  | 0x12 => th.trapaddr.toNat
  | 0x13 => th.trapinfo.toNat + (if th.intrap then 4 else 0)
  | 0x18 => fr (·.xy)
  | 0x19 => fr (·.info)
  | 0x1A => fr (·.visid)
  | 0x1B => fr (·.key)
  | 0x1C => fr (·.seq)
  | _ => 0

def execGets (x : XOp) (s : State) : Out :=
  let n := x.fn.toNat
  let w := if special64 n then 2 else 1
  .next (issue x { d := w } (fun cx s =>
    if n = 0x14 then cx.trapAll tILLEGAL_OPERAND else .done (cx.write s w (cx.act.map (fun t => (t, specialValue cx s n t))))) s)

/-- Threads of the active lanes changed, each by its own value of A. -/
def Ctx.setThreads (cx : Ctx) (s : State) (f : Nat → Thread → Thread) : State :=
  cx.modCo s (fun co => cx.act.foldl (fun co t => co.mapLanes (laneMask [t]) (f t)) co)

/-- `SETS` (R273, R322). -/
def setsBody (n : Nat) (cx : Ctx) (s : State) : Res :=
  match n with
  | 0x0A => .done (cx.modCo s (fun co => { co with fairtime := cx.a .i32 cx.high % 2 ^ 16 }))
  | 0x0B => .done (cx.setThreads s (fun t th => { th with fpstat := BitVec.ofNat 5 (cx.a .i32 t) }))
  | 0x0C => .done (cx.setThreads s (fun t th => { th with fptrap := BitVec.ofNat 5 (cx.a .i32 t) }))
  | 0x0D => .done (cx.modCo s (fun co => { co with pass := BitVec.ofNat 64 (cx.a .i64 cx.high) }))
  | 0x11 => .done (cx.setThreads s (fun t th => { th with trappc := BitVec.ofNat 64 (cx.a .i64 t) }))
  | 0x14 =>
    let out := cx.act.filter (fun t => !(cx.co.thread t).intrap)
    if out.isEmpty then .done (cx.branch (cx.modCo s (fun co => returnTrap co cx.actMask)) []) else cx.trapSome tILLEGAL_OPERAND out
  | _ => cx.trapAll tILLEGAL_OPERAND

/-- The special that `SETS` names (R322). -/
def spOf (d : Dst) : Nat := match d with | .sp n => n.toNat | _ => 0

def execSets (x : XOp) (s : State) : Out :=
  .next (issue x { a := if special64 (spOf x.dst) then 2 else 1 } (setsBody (spOf x.dst)) s)

/-! ## Masks (R201, R323 to R325) -/

def maskOfDst (d : Dst) : Nat := match d with | .m n => n.toNat | _ => 0

def execMjoin (x : XOp) (s : State) : Out :=
  .next (issue x {} (fun cx s => .done (cx.modCo s (fun co =>
    let k := co.mask (maskOfDst x.dst)
    co.setMask (maskOfDst x.dst) { k with member := k.member ||| cx.actMask }))) s)

def execMleave (x : XOp) (s : State) : Out :=
  .next (issue x {} (fun cx s => .done (cx.modCo s (fun co => co.leaveMask (maskOfDst x.dst) cx.actMask))) s)

def execMwait (x : XOp) (s : State) : Out :=
  let m := maskOfDst x.dst
  .next (issue x {} (fun cx s =>
    let come := cx.actMask &&& (cx.co.mask m).member
    let s := cx.wait s come (.mwait m)
    .done (cx.modCo s (fun co => { (co.setMask m { co.mask m with arrival := (co.mask m).arrival ||| come }).testMask m with turnOver := true }))) s)

def execMset (x : XOp) (s : State) : Out :=
  .next (issue x { a := 1 } (fun cx s => .done (cx.modCo s (fun co => co.maskWrite (maskOfDst x.dst) (BitVec.ofNat 32 (cx.a .i32 cx.high))))) s)

def execMget (x : XOp) (s : State) : Out := .next (issue x { d := 1 } (perLane 1 (fun cx t => cx.a .i32 t)) s)

def execMbal (x : XOp) (s : State) : Out :=
  .next (issue x { a := 1 } (fun cx s =>
    .done (cx.modCo s (fun co => co.maskWrite (maskOfDst x.dst) (laneMask (cx.act.filter (fun t => cx.a .i32 t ≠ 0)))))) s)

/-- The logical operations of `MLOG` (R304). -/
def mlogOp (op : Nat) (a b : W32) : W32 :=
  match op with | 0 => a &&& b | 1 => a ||| b | 2 => a ^^^ b | 3 => a &&& ~~~b | _ => ~~~a

def execMlog (x : XOp) (s : State) : Out :=
  .next (issue x { a := 1, b := if x.fn = 4 then 0 else 1 } (fun cx s =>
    .done (cx.modCo s (fun co => co.maskWrite (maskOfDst x.dst)
      (mlogOp x.fn.toNat (BitVec.ofNat 32 (cx.a .i32 cx.high)) (BitVec.ofNat 32 (cx.b .i32 cx.high)))))) s)

/-- The number of 1 bits below `n`. -/
def popCount (v : Nat) : Nat → Nat
  | 0 => 0
  | n + 1 => v / 2 ^ n % 2 + popCount v n
/-- The lowest 1 bit at or above `i`, or `i + fuel`. -/
def lowestBit (v : Nat) : Nat → Nat → Nat
  | i, 0 => i
  | i, n + 1 => if bit v i then i else lowestBit v (i + 1) n

def execMpop (x : XOp) (s : State) : Out := .next (issue x { a := 1, d := 1 } (perLane 1 (fun cx t => popCount (cx.a .i32 t) 32)) s)

def execMfirst (x : XOp) (s : State) : Out := .next (issue x { a := 1, d := 1 } (perLane 1 (fun cx t => lowestBit (cx.a .i32 t) 0 32)) s)

end Sys2Proof.Machine
end

