-- ==== Sys2Proof/Machine/Integer.lean ====
section
/-! DEFINITION. Xamal integer, logic, bit-field and lane-exchange instructions (R315, R316, R326 to R333). -/
namespace Sys2Proof.Machine

/-- TY of an integer instruction and its width W (R304, R315). -/
def iTy (x : XOp) : Nat := x.fn.toNat % 4
def iSub (x : XOp) : Nat := x.fn.toNat / 8
def iW (ty : Nat) : Nat := if ty = 2 then 64 else 32
/-- The range of a type (R315). -/
def iLo (ty : Nat) : Int := if ty = 1 then 0 else -(2 ^ (iW ty - 1) : Nat)
def iHi (ty : Nat) : Int := if ty = 1 then (2 ^ 32 : Nat) - 1 else (2 ^ (iW ty - 1) : Nat) - 1
def clampTy (ty : Nat) (r : Int) : Int := max (iLo ty) (min (iHi ty) r)

/-- An instruction of one source at the type's width. -/
def intUn (x : XOp) (f : Nat → Nat → Nat) (s : State) : Out :=
  let ty := iTy x
  let w := (tyOf ty).words
  .next (issue x { a := w, d := w } (perLane w (fun cx t => f ty (cx.a (tyOf ty) t))) s)

/-- An instruction of two sources at the type's width. -/
def intBin (x : XOp) (f : Nat → Nat → Nat → Nat) (s : State) : Out :=
  let ty := iTy x
  let w := (tyOf ty).words
  .next (issue x { a := w, b := w, d := w } (perLane w (fun cx t => f ty (cx.a (tyOf ty) t) (cx.b (tyOf ty) t))) s)

/-- An exact integer result of two sources, written modulo 2^W (R326). -/
def intArith (x : XOp) (f : Nat → Int → Int → Int) (s : State) : Out :=
  intBin x (fun ty a b => wrap (f ty (readInt ty a) (readInt ty b)) (iW ty)) s

def execMov (x : XOp) (s : State) : Out := intUn x (fun _ a => a) s

/-- The value of `MOVI` (R298, R326). -/
def moviValue (x : XOp) : Nat := match x.ext with | .i w => if iTy x = 2 then w.toNat else w.toNat % 2 ^ 32 | _ => 0

def execMovi (x : XOp) (s : State) : Out :=
  let w := (tyOf (iTy x)).words
  .next (issue x { d := w } (perLane w (fun _ _ => moviValue x)) s)

/-- The `.SAT` form clamps the exact result to the type's range (R326). -/
def satIf (x : XOp) (ty : Nat) (r : Int) : Int := if iSub x % 2 = 1 then clampTy ty r else r

def execIadd (x : XOp) (s : State) : Out := intArith x (fun ty a b => satIf x ty (a + b)) s
def execIsub (x : XOp) (s : State) : Out := intArith x (fun ty a b => satIf x ty (a - b)) s
def execImul (x : XOp) (s : State) : Out := intArith x (fun _ a b => a * b) s
def execImulh (x : XOp) (s : State) : Out := intArith x (fun ty a b => (a * b).fdiv (2 ^ iW ty : Nat)) s
def execImin (x : XOp) (s : State) : Out := intArith x (fun _ a b => min a b) s
def execImax (x : XOp) (s : State) : Out := intArith x (fun _ a b => max a b) s
def execIabs (x : XOp) (s : State) : Out := intUn x (fun ty a => wrap (readInt ty a).natAbs (iW ty)) s

/-- Three sources at the type's width. -/
def execImad (x : XOp) (s : State) : Out :=
  let ty := iTy x
  let t' := tyOf ty
  let w := t'.words
  .next (issue x { a := w, b := w, c := w, d := w } (perLane w (fun cx t =>
    wrap (readInt ty (cx.a t' t) * readInt ty (cx.b t' t) + readInt ty (cx.cc t' t)) (iW ty))) s)

/-- A condition written as 1 or 0, or as a mask of the active threads for which it holds (R327, R338). -/
def condResult (x : XOp) (f : Ctx → Nat → Bool) (cx : Ctx) (s : State) : Res :=
  match x.dst with
  | .m n => .done (cx.modCo s (fun co => co.maskWrite n.toNat (laneMask (cx.act.filter (f cx)))))
  | _ => perLane 1 (fun cx t => if f cx t then 1 else 0) cx s

def execIcmp (x : XOp) (s : State) : Out :=
  let ty := iTy x
  let w := (tyOf ty).words
  .next (issue x { a := w, b := w, d := 1 }
    (condResult x (fun cx t => intCond (iSub x) (readInt ty (cx.a (tyOf ty) t)) (readInt ty (cx.b (tyOf ty) t)))) s)

def execSel (x : XOp) (s : State) : Out :=
  let ty := iTy x
  let w := (tyOf ty).words
  .next (issue x { a := w, b := w, c := 1, d := w } (perLane w (fun cx t => if cx.cc .i32 t ≠ 0 then cx.a (tyOf ty) t else cx.b (tyOf ty) t)) s)

def execAnd (x : XOp) (s : State) : Out := intBin x (fun _ a b => a &&& b) s
def execOr (x : XOp) (s : State) : Out := intBin x (fun _ a b => a ||| b) s
def execXor (x : XOp) (s : State) : Out := intBin x (fun _ a b => a ^^^ b) s
def execAndn (x : XOp) (s : State) : Out := intBin x (fun ty a b => a &&& (2 ^ iW ty - 1 - b)) s
def execNot (x : XOp) (s : State) : Out := intUn x (fun ty a => 2 ^ iW ty - 1 - a) s

/-- A shift by a 32-bit count modulo W (R328). -/
def shiftOp (x : XOp) (f : Nat → Nat → Nat → Nat) (s : State) : Out :=
  let ty := iTy x
  let w := (tyOf ty).words
  .next (issue x { a := w, b := 1, d := w } (perLane w (fun cx t => f ty (cx.a (tyOf ty) t) (cx.b .i32 t % iW ty))) s)

def execShl (x : XOp) (s : State) : Out := shiftOp x (fun ty a n => a * 2 ^ n % 2 ^ iW ty) s
def execShr (x : XOp) (s : State) : Out := shiftOp x (fun _ a n => a / 2 ^ n) s
def execSar (x : XOp) (s : State) : Out := shiftOp x (fun ty a n => wrap ((sext a (iW ty)).fdiv (2 ^ n : Nat)) (iW ty)) s
def execRot (x : XOp) (s : State) : Out := shiftOp x (fun ty a n => (a * 2 ^ n + a / 2 ^ (iW ty - n)) % 2 ^ iW ty) s

/-- `BFE`: the field of `a` that the descriptor names, with the sign of its top bit unless TY is `.N32` (R329). -/
def bfeValue (ty a f : Nat) : Nat :=
  let w := iW ty
  let pos := min (f % 256) w
  let len := min (f / 256 % 256) w
  let v := a / 2 ^ pos % 2 ^ len
  if ty ≠ 1 ∧ 0 < len ∧ bit v (len - 1) then wrap ((v : Int) - (2 ^ len : Nat)) w else v

/-- `BFI`: the low bits of `b` put into `a` (R329). -/
def bfiValue (ty a b f : Nat) : Nat :=
  let w := iW ty
  let pos := min (f % 256) w
  let len := min (f / 256 % 256) w
  setField a pos (min len (w - pos)) b

def execBfe (x : XOp) (s : State) : Out :=
  let ty := iTy x
  let w := (tyOf ty).words
  .next (issue x { a := w, b := 1, d := w } (perLane w (fun cx t => bfeValue ty (cx.a (tyOf ty) t) (cx.b .i32 t))) s)

def execBfi (x : XOp) (s : State) : Out :=
  let ty := iTy x
  let w := (tyOf ty).words
  .next (issue x { a := w, b := w, c := 1, d := w } (perLane w (fun cx t => bfiValue ty (cx.a (tyOf ty) t) (cx.b (tyOf ty) t) (cx.cc .i32 t))) s)

def execPopc (x : XOp) (s : State) : Out :=
  let ty := iTy x
  .next (issue x { a := (tyOf ty).words, d := 1 } (perLane 1 (fun cx t => popCount (cx.a (tyOf ty) t) (iW ty))) s)

/-- Leading zero bits of a value of `w` bits. -/
def leadingZeros (v : Nat) : Nat → Nat
  | 0 => 0
  | n + 1 => if bit v n then 0 else 1 + leadingZeros v n

def execClz (x : XOp) (s : State) : Out :=
  let ty := iTy x
  .next (issue x { a := (tyOf ty).words, d := 1 } (perLane 1 (fun cx t => leadingZeros (cx.a (tyOf ty) t) (iW ty))) s)

/-- The low `n` bits of a value in reverse order. -/
def reverseBits (v : Nat) : Nat → Nat
  | 0 => 0
  | n + 1 => v % 2 * 2 ^ n + reverseBits (v / 2) n

def execBrev (x : XOp) (s : State) : Out := intUn x (fun ty a => reverseBits a (iW ty)) s

/-- `LEA` (R330): the index is 32 bits but in `.64`. -/
def execLea (x : XOp) (s : State) : Out :=
  let ty := iTy x
  let bt := tyOf ty
  .next (issue x { a := 2, b := bt.words, c := 1, d := 2 } (perLane 2 (fun cx t =>
    wrap ((cx.a .i64 t : Int) + readInt ty (cx.b bt t) * (2 ^ (cx.cc .i32 t % 64) : Nat)) 64)) s)

/-! ## Exchanges across the coil -/

/-- The source lane of `SHFL`, if it is in range (R331). -/
def shflLane (mode t b : Nat) : Option Nat :=
  match mode with
  | 0 => some (b % 32)
  | 1 => if b ≤ t then some (t - b) else none
  | 2 => if t + b ≤ 31 then some (t + b) else none
  | _ => some (t ^^^ (b % 32))

def execShfl (x : XOp) (s : State) : Out :=
  let ty := iTy x
  let w := (tyOf ty).words
  .next (issue x { a := w, b := 1, d := w } (perLaneLong w (fun cx t =>
    match shflLane (iSub x) t (cx.b .i32 t) with
    | some u => (cx.a (tyOf ty) (if cx.act.contains u then u else t), 0)
    | none => (cx.a (tyOf ty) t, 0))) s)

/-- The combining operations of `ISCAN` and `IREDC` (R332). -/
def scanOp (op ty a b : Nat) : Nat :=
  match op with
  | 0 => (a + b) % 2 ^ iW ty
  | 1 => if readInt ty a ≤ readInt ty b then a else b
  | 2 => if readInt ty a ≤ readInt ty b then b else a
  | 3 => a &&& b
  | 4 => a ||| b
  | _ => a ^^^ b

/-- The identity of an operation (R332). -/
def scanId (op ty : Nat) : Nat :=
  match op with
  | 1 => wrap (iHi ty) (iW ty)
  | 2 => wrap (iLo ty) (iW ty)
  | 3 => 2 ^ iW ty - 1
  | _ => 0

def execIscan (x : XOp) (s : State) : Out :=
  let ty := iTy x
  let w := (tyOf ty).words
  let op := iSub x % 8
  .next (issue x { a := w, d := w } (perLane w (fun cx t =>
    ((cx.act.filter (fun u => if iSub x = op then u ≤ t else u < t)).map (cx.a (tyOf ty))).foldl (scanOp op ty) (scanId op ty))) s)

def execIredc (x : XOp) (s : State) : Out :=
  let ty := iTy x
  let w := (tyOf ty).words
  let op := iSub x % 8
  .next (issue x { a := w, d := w } (perLane w (fun cx _ => (cx.act.map (cx.a (tyOf ty))).foldl (scanOp op ty) (scanId op ty))) s)

/-- The registers of an instruction that names `others` and, in the lane that B gives, which need not be active, `mine`; while B itself is empty that lane is
not known yet (R333). -/
def laneNamed (x : XOp) (others : Needs) (mine : List Named) (s : State) : List Named :=
  match s.cur with
  | .coil gid c lanes _ =>
    let co := s.coil gid c
    let low := lowestLane (activeOf co x lanes)
    let rest := namedOf x others
    if (namedSrc x.b 1).any (fun r => r.empty co low) then rest
    else mine.map (fun r => { r with lane := some (co.src x.ext .i32 low x.b % 32) }) ++ rest
  | _ => []

/-- `VTOS`: lane b's register to a uniform one (R333). -/
def execVtos (x : XOp) (s : State) : Out :=
  let ty := tyOf (iTy x)
  .next (issueOn x (laneNamed x { b := 1, d := ty.words } (namedSrc x.a ty.words) s)
    (fun cx s => .done (cx.later s ty.words [(cx.low, cx.a ty (cx.b .i32 cx.low % 32))])) s)

/-- `STOV`: a uniform value to lane b's register (R333). -/
def execStov (x : XOp) (s : State) : Out :=
  let ty := tyOf (iTy x)
  .next (issueOn x (laneNamed x { a := ty.words, b := 1 } (namedDst x.dst ty.words) s)
    (fun cx s => .done (cx.modCo s (fun co => co.dst (cx.b .i32 cx.low % 32) ty.words x.dst (cx.a ty cx.low)))) s)

end Sys2Proof.Machine
end

