-- ==== Sys2Proof/Machine/Float.lean ====
section
/-! DEFINITION. Xamal floating-point arithmetic, comparison, reduction and special functions (R335 to R341). -/
namespace Sys2Proof.Machine

/-- FT and SUB (R304). -/
def fTy (x : XOp) : Nat := x.fn.toNat % 8
def fSub (x : XOp) : Nat := x.fn.toNat / 8
/-- The format code of a type's elements (R335). -/
def fFmt (ft : Nat) : Nat := match ft with | 0 => 10 | 1 => 11 | 2 => 9 | _ => 8
def fOTy (ft : Nat) : OTy := match ft with | 0 => .f32 | 1 => .f64 | 2 => .h 9 | _ => .h 8
/-- Element `e` of a value. -/
def fElem (ft v e : Nat) : Nat := if ft < 2 then v else field v (16 * e) 16

/-- The elements of a type computed independently; their flags together (R335). -/
def fEach (ft : Nat) (f : Nat → Nat × Flags) : Nat × Flags :=
  if ft < 2 then f 0 else ((f 0).1 + (f 1).1 * 2 ^ 16, (f 0).2 ||| (f 1).2)

/-- An exact result narrowed once, with the flags of both (R229, R336). -/
def fNarrow (c : Nat) (x : XR × Flags) (rnd r : Nat) : Nat × Flags :=
  let n := narrow c x.1 rnd false r
  (n.1, x.2 ||| n.2)

/-- Arithmetic of two sources; under SR, C supplies r (R304, R336). -/
def fBin (x : XOp) (long : Bool) (op : XR → XR → XR × Flags) (s : State) : Out :=
  let ft := fTy x
  let c := fFmt ft
  let t := fOTy ft
  let rm := fSub x
  let f (cx : Ctx) (l : Nat) : Nat × Flags := fEach ft (fun e =>
    fNarrow c (op (valueOf c (fElem ft (cx.a t l) e)) (valueOf c (fElem ft (cx.b t l) e))) rm (if rm = 2 then field (cx.cc .i32 l) (16 * e) 16 else 0))
  .next (issue x { a := t.words, b := t.words, c := if rm = 2 then 1 else 0, d := t.words } (if long then perLaneLong t.words f else perLaneF t.words f) s)

def execFadd (x : XOp) (s : State) : Out := fBin x false xAdd s
def execFsub (x : XOp) (s : State) : Out := fBin x false (fun a b => xAdd a (xNegate b)) s
def execFmul (x : XOp) (s : State) : Out := fBin x false xMul s
def execFdiv (x : XOp) (s : State) : Out := fBin x true xDiv s

def execFfma (x : XOp) (s : State) : Out :=
  let ft := fTy x
  let c := fFmt ft
  let t := fOTy ft
  let v (n e : Nat) : XR := valueOf c (fElem ft n e)
  .next (issue x { a := t.words, b := t.words, c := t.words, d := t.words } (perLaneF t.words (fun cx l => fEach ft (fun e =>
    fNarrow c (xFma (v (cx.a t l) e) (v (cx.b t l) e) (v (cx.cc t l) e)) (fSub x) 0))) s)

/-- Minimum and maximum by R236 (R337). -/
def fMinMax (x : XOp) (mx : Bool) (s : State) : Out :=
  let ft := fTy x
  let t := fOTy ft
  .next (issue x { a := t.words, b := t.words, d := t.words } (perLaneF t.words (fun cx l => fEach ft (fun e =>
    minMaxCode (fFmt ft) mx (fElem ft (cx.a t l) e) (fElem ft (cx.b t l) e)))) s)

def execFmin (x : XOp) (s : State) : Out := fMinMax x false s
def execFmax (x : XOp) (s : State) : Out := fMinMax x true s

/-- A comparison of two codes: whether it holds, and its flag (R338). -/
def fCond (c cond a b : Nat) : Bool × Flags :=
  let x := valueOf c a
  let y := valueOf c b
  let un := xIsNan x || xIsNan y
  let ordered := 2 ≤ cond && cond ≤ 5
  let fl : Flags := if xIsSig x || xIsSig y || (ordered && un) then fIV else 0
  let k := xCmp x y
  let r := match cond with
    | 0 => !un && k == 0
    | 1 => un || k != 0
    | 2 => !un && k < 0
    | 3 => !un && k ≤ 0
    | 4 => !un && k > 0
    | 5 => !un && k ≥ 0
    | 6 => un
    | _ => !un
  (r, fl)

def execFcmp (x : XOp) (s : State) : Out :=
  let ft := fTy x
  let t := fOTy ft
  let cond (cx : Ctx) (l e : Nat) : Bool × Flags := fCond (fFmt ft) (fSub x) (fElem ft (cx.a t l) e) (fElem ft (cx.b t l) e)
  let body (cx : Ctx) (s : State) : Res :=
    let fl := cx.act.map (fun l => (l, if ft < 2 then (cond cx l 0).2 else (cond cx l 0).2 ||| (cond cx l 1).2))
    match x.dst with
    | .m n => .done (cx.modCo s (fun co => co.maskWrite n.toNat (laneMask (cx.act.filter (fun l => (cond cx l 0).1))))) fl
    | _ => .done (cx.write s 1 (cx.act.map (fun l =>
        (l, (if (cond cx l 0).1 then 1 else 0) + (if ft ≥ 2 && (cond cx l 1).1 then 2 else 0))))) fl
  .next (issue x { a := t.words, b := t.words, d := 1 } body s)

/-- The class bit of a code (R339). -/
def fClassBit (c v : Nat) : Nat :=
  match valueOf c v with
  | .nan sig => if sig then 8 else 9
  | .inf n => if n then 0 else 7
  | .zero n => if n then 3 else 4
  | .fin q =>
    let sub := field v (fmtM c) (fmtE c) = 0
    if q.num < 0 then (if sub then 2 else 1) else (if sub then 5 else 6)

def execFclass (x : XOp) (s : State) : Out :=
  let ft := fTy x
  let t := fOTy ft
  .next (issue x { a := t.words, d := 1 } (perLane 1 (fun cx l =>
    (fEach ft (fun e => (2 ^ fClassBit (fFmt ft) (fElem ft (cx.a t l) e), 0))).1)) s)

/-- One node of `FREDC` (R340). -/
def fNode (c op a b : Nat) : Nat × Flags :=
  if op = 0 then fNarrow c (xAdd (valueOf c a) (valueOf c b)) 0 0 else minMaxCode c (op == 2) a b

def execFredc (x : XOp) (s : State) : Out :=
  let ft := fTy x
  let t := fOTy ft
  .next (issue x { a := t.words, d := t.words } (fun cx s =>
    let r := fEach ft (fun e =>
      let p := pairTree (fNode (fFmt ft) (fSub x)) ((List.range 32).map (fun l => if cx.act.contains l then some (fElem ft (cx.a t l) e) else none))
      (p.1.getD 0, p.2))
    .done (cx.write s t.words (cx.act.map (fun l => (l, r.1)))) (cx.act.map (fun l => (l, r.2)))) s)

/-- A special function of one source, a long-latency producer; `FSQRT` alone takes a rounding (R341). -/
def fSpecial (x : XOp) (fn : SFn) (s : State) : Out :=
  let ft := fTy x
  let t := fOTy ft
  let rm := fSub x
  .next (issue x { a := t.words, c := if rm = 2 then 1 else 0, d := t.words } (perLaneLong t.words (fun cx l => fEach ft (fun e =>
    special fn (fFmt ft) (fElem ft (cx.a t l) e) rm (if rm = 2 then field (cx.cc .i32 l) (16 * e) 16 else 0)))) s)

def execFrcp (x : XOp) (s : State) : Out := fSpecial x .rcp s
def execFrsq (x : XOp) (s : State) : Out := fSpecial x .rsq s
def execFsqrt (x : XOp) (s : State) : Out := fSpecial x .sqrt s
def execFexp2 (x : XOp) (s : State) : Out := fSpecial x .exp2 s
def execFlog2 (x : XOp) (s : State) : Out := fSpecial x .log2 s
def execFsin (x : XOp) (s : State) : Out := fSpecial x .sin s
def execFcos (x : XOp) (s : State) : Out := fSpecial x .cos s
def execFtanh (x : XOp) (s : State) : Out := fSpecial x .tanh s
def execFerf (x : XOp) (s : State) : Out := fSpecial x .erf s

end Sys2Proof.Machine
end

