-- ==== Sys2Proof/Machine/Convert.lean ====
section
/-! DEFINITION. Xamal conversion instructions (R342 to R346). -/
namespace Sys2Proof.Machine

/-- The fields of format C. -/
def convFields (x : XOp) : Nat × Nat × Nat := match x.ext with | .c f t n => (f.toNat, t.toNat, n.toNat) | _ => (0, 0, 0)

/-- The format slot that a conversion names, in the launch of the coil that executes (R225, R342). -/
def convSlot (x : XOp) (s : State) : Nat :=
  match s.cur with
  | .coil gid _ _ _ => (((s.launchOf gid).rec_.fslots[(convFields x).2.2]?).getD 0).toNat
  | _ => 0

/-- Type codes with 18 replaced by the ELEM of the slot (R342). -/
def convCode (slot c : Nat) : Nat := if c = 18 then field slot 0 5 else c
def convFrom (x : XOp) (s : State) : Nat := convCode (convSlot x s) (convFields x).1
def convTo (x : XOp) (s : State) : Nat := convCode (convSlot x s) (convFields x).2.1
/-- The rounding and saturation, with those of the slot where RM is 3 or SAT is 2 (R304, R342). -/
def convRnd (x : XOp) (s : State) : Nat := if x.fn.toNat % 4 = 3 then field (convSlot x s) 13 2 else x.fn.toNat % 4
def convSat (x : XOp) (s : State) : Bool := if x.fn.toNat / 4 = 2 then bit (convSlot x s) 15 else x.fn.toNat / 4 == 1

/-- Whether the codes that a slot gives are accepted, and C is unused unless it supplies r (R297, R342). -/
def convLegal (opc : Nat) (x : XOp) (s : State) : Bool :=
  convOk opc (convFrom x s) (convTo x s) && (convRnd x s == 2 || x.c == .v 0 false)

/-- Registers of a type code. -/
def codeWords (c : Nat) : Nat := if c = 11 ∨ c = 14 ∨ c = 15 then 2 else 1

/-- A conversion's issue: words that the slot makes illegal raise ILLEGAL_INSN at decode, whatever the mask (R342). -/
def convIssue (opc : Nat) (x : XOp) (n : Needs) (body : Ctx → State → Res) (s : State) : Out :=
  if convLegal opc x s then .next (issue x n body s)
  else match s.cur with
    | .coil gid c lanes pc => .next (raiseTrap (markIssued s gid c lanes) gid c lanes pc (pc + 16) { code := tILLEGAL_INSN })
    | _ => .next s

/-- A source read by its type code, with the immediates of R342. -/
def Ctx.conv (cx : Ctx) (code l : Nat) (src : Src) : Nat :=
  match src with
  | .imm i =>
    if 12 ≤ code ∧ code ≤ 15 then wrap i.toInt (if codeWords code = 2 then 64 else 32)
    else if code = 16 ∨ code = 17 then intCode (if code = 16 then 9 else 8) i.toInt * (1 + 2 ^ 16)
    else if 8 ≤ code then intCode code i.toInt
    else i.toNat % 2 ^ fmtBits code
  | _ =>
    let v := cx.co.src cx.x.ext (if codeWords code = 2 then .i64 else .i32) l src
    if code < 8 then v % 2 ^ fmtBits code else if code < 10 then v % 2 ^ 16 else v

/-- The value of a code of a type (R342). -/
def codeValue (code v : Nat) : XR :=
  if code ≤ 11 then valueOf code v
  else xOfQ (qInt (match code with | 12 => sext v 32 | 14 => sext v 64 | _ => (v : Int)))

/-- r for the low and the high value (R342). -/
def Ctx.rLow (cx : Ctx) (l : Nat) : Nat := field (cx.cc .i32 l) 0 16
def Ctx.rHigh (cx : Ctx) (l : Nat) : Nat := field (cx.cc .i32 l) 16 16

def execCvt (x : XOp) (s : State) : Out :=
  let f := convFrom x s
  let t := convTo x s
  let rnd := convRnd x s
  let sat := convSat x s
  convIssue 0x60 x { a := codeWords f, c := if rnd = 2 then 1 else 0, d := codeWords t } (perLaneF (codeWords t) (fun cx l =>
    let a := cx.conv f l x.a
    if 16 ≤ f then
      let (cf, ct) := if f = 16 then (9, 8) else (8, 9)
      let lo := narrow ct (valueOf cf (field a 0 16)) rnd sat (cx.rLow l)
      let hi := narrow ct (valueOf cf (field a 16 16)) rnd sat (cx.rHigh l)
      (lo.1 + hi.1 * 2 ^ 16, lo.2 ||| hi.2)
    else narrow t (valueOf f a) rnd sat (cx.rLow l))) s

/-- An exact value rounded to an integer by RNE, RTZ or SR (R228, R344). -/
def roundInt (q : Q) (rnd r : Nat) : Int :=
  if rnd = 0 then qRne q
  else if rnd = 1 then qRtz q
  else
    let lo := qFloor q
    if (r : Int) < qFloor (qMul (qSub q (qInt lo)) (qInt 65536)) then lo + 1 else lo

/-- A floating-point value converted to an integer type (R344). -/
def toIntCode (t : Nat) (v : XR) (rnd r : Nat) (sat : Bool) : Nat × Flags :=
  let w := if codeWords t = 2 then 64 else 32
  let lo : Int := if t = 13 ∨ t = 15 then 0 else -(2 ^ (w - 1) : Nat)
  let hi : Int := if t = 13 ∨ t = 15 then (2 ^ w : Nat) - 1 else (2 ^ (w - 1) : Nat) - 1
  let out (b : Int) : Nat × Flags := (wrap b w, if sat then fNX else fNX ||| fIV)
  match v with
  | .nan _ => (0, fIV)
  | .inf n => out (if n then lo else hi)
  | .zero _ => (0, 0)
  | .fin q =>
    let n := roundInt q rnd r
    if n < lo then out lo else if n > hi then out hi else (wrap n w, if qEq q (qInt n) then 0 else fNX)

def execCvti (x : XOp) (s : State) : Out :=
  let f := convFrom x s
  let t := convTo x s
  let rnd := convRnd x s
  let sat := convSat x s
  convIssue 0x61 x { a := codeWords f, c := if rnd = 2 then 1 else 0, d := codeWords t } (perLaneF (codeWords t) (fun cx l =>
    let v := codeValue f (cx.conv f l x.a)
    if 12 ≤ t then toIntCode t v rnd (cx.rLow l) sat else narrow t v rnd sat (cx.rLow l))) s

def execQnt (x : XOp) (s : State) : Out :=
  let f := convFrom x s
  let t := convTo x s
  let rnd := convRnd x s
  let sat := convSat x s
  convIssue 0x62 x { a := codeWords f, b := 1, c := if rnd = 2 then 1 else 0, d := 1 } (perLaneF 1 (fun cx l =>
    let q := xDiv (valueOf f (cx.conv f l x.a)) (valueOf 10 (cx.conv 10 l x.b))
    let n := narrow t q.1 rnd sat (cx.rLow l)
    (n.1, q.2 ||| n.2))) s

def execPack (x : XOp) (s : State) : Out :=
  let t := convTo x s
  let rnd := convRnd x s
  let sat := convSat x s
  convIssue 0x63 x { a := 1, b := 1, c := if rnd = 2 then 1 else 0, d := 1 } (perLaneF 1 (fun cx l =>
    let a := narrow t (valueOf 10 (cx.conv 10 l x.a)) rnd sat (cx.rLow l)
    let b := narrow t (valueOf 10 (cx.conv 10 l x.b)) rnd sat (cx.rHigh l)
    (a.1 + b.1 * 2 ^ fmtBits t, a.2 ||| b.2))) s

def execUnpk (x : XOp) (s : State) : Out :=
  let f := convFrom x s
  let n := fmtBits f
  convIssue 0x64 x { a := 1, b := 1, d := 2 } (fun cx s =>
    let bad := cx.act.filter (fun l => 16 / n ≤ cx.b .i32 l)
    if !bad.isEmpty then cx.trapSome tILLEGAL_OPERAND bad
    else perLaneF 2 (fun cx l =>
      let e (i : Nat) : Nat × Flags := narrow 10 (valueOf f (field (cx.a .i32 l) ((2 * cx.b .i32 l + i) * n) n)) 0 false 0
      ((e 0).1 + (e 1).1 * 2 ^ 32, (e 0).2 ||| (e 1).2)) cx s) s

end Sys2Proof.Machine
end

