-- ==== Sys2Proof/Machine/Memory.lean ====
section
/-! DEFINITION. Xamal memory and atomic instructions (R357 to R366). -/
namespace Sys2Proof.Machine

/-! ## Addresses and checks (R357) -/

/-- Format M of the second word: OFF, SCOPE, ORDER, PLACE, CACHE, TAG, NLM1 (R299). -/
structure MFields where
  off : Int
  scope : Nat
  order : Nat
  place : Nat
  cache : Nat
  tag : Nat
  nlm1 : Nat

def mFields (x : XOp) : MFields :=
  match x.ext with
  | .m off scope order _ place cache _ tag nlm1 =>
    { off := off.toInt, scope := scope.toNat, order := order.toNat, place := place.toNat, cache := cache.toNat, tag := tag.toNat, nlm1 := nlm1.toNat }
  | _ => { off := 0, scope := 1, order := 0, place := 0, cache := 0, tag := 0, nlm1 := 0 }

def globalEa (cx : Ctx) (l : Nat) : Nat := wrap ((cx.a .i64 l : Int) + (mFields cx.x).off) 64
def localEa (cx : Ctx) (l : Nat) : Nat := wrap ((cx.a .i32 l : Int) + (mFields cx.x).off) 32

/-- Addresses of lanes as TRAPADDR shows them. -/
def trapAddrs (eas : List (Nat × Nat)) : List W64 :=
  (List.range 32).map (fun l => BitVec.ofNat 64 (((eas.find? (fun e => e.1 = l)).map (·.2)).getD 0))

def accessTrap (code : Nat) (write : Bool) (eas : List (Nat × Nat)) (bad : List Nat) : Res :=
  .trap { code, cause := laneMask bad, write, addrs := trapAddrs eas }

/-- The pages that the translations of some addresses pass through, with their sizes (R243). -/
def pagesUsed (s : State) (k asid : Nat) (vas : List Nat) : List (Nat × Nat) := (vas.flatMap (pagesOf s (lookCore s k asid) asid)).eraseDups

/-- Lanes with their translated accesses: physical address and leaf. -/
abbrev Accesses := List (Nat × Nat × Nat)

/-- The checks of R357 on a set of lanes in their order, then the accesses they make. -/
def checkGlobal (cx : Ctx) (s : State) (eas : List (Nat × Nat)) (size : Nat) (write : Bool) (backing : Backing) (k : Accesses → Res) : Res :=
  let lanes (p : Nat → Bool) : List Nat := (eas.filter (fun e => p e.2)).map (·.1)
  let high := lanes (fun a => a ≥ 2 ^ 57)
  let mis := lanes (fun a => a % size ≠ 0)
  if !high.isEmpty then accessTrap tACCESS_VIOLATION write eas high
  else if !mis.isEmpty then accessTrap tMISALIGNED write eas mis
  else
    let asid := s.asidOf cx.gid
    let trs := eas.map (fun e => (e.1, translate s (lookCore s cx.k asid) asid e.2 write false backing))
    match trs.findSome? (fun t => match t.2 with | .fail c v => some (c, v) | _ => none) with
    | some (c, v) =>
      let cause := (trs.filter (fun t => match t.2 with | .fail _ w => w == v | _ => false)).map (·.1)
      .failed v { code := c, cause := laneMask cause, write, addrs := trapAddrs eas }
    | none =>
      match trs.findSome? (fun t => match t.2 with | .miss v => some v | _ => none) with
      | some v => .miss v (if write then 1 else 0)
      | none =>
        let bad := (trs.filter (fun t => match t.2 with | .bad => true | _ => false)).map (·.1)
        if !bad.isEmpty then accessTrap tACCESS_VIOLATION write eas bad
        else match trs.findSome? (fun t => match t.2 with | .wfault v => some v | _ => none) with
          | some v => .miss v 1
          | none =>
          let acc := trs.filterMap (fun t => match t.2 with | .ok pa l => some (t.1, pa, l) | _ => none)
          let lost := (acc.filter (fun a => unreachable s a.2.1)).map (·.1)
          if lost.isEmpty then k acc else accessTrap tMACHINE_CHECK write eas lost

/-- The checks of a local access (R208, R357). -/
def checkLocal (cx : Ctx) (s : State) (eas : List (Nat × Nat)) (size : Nat) (write : Bool) (k : Unit → Res) : Res :=
  let out := (eas.filter (fun e => localSize s cx.gid ≤ e.2)).map (·.1)
  let mis := (eas.filter (fun e => e.2 % size ≠ 0)).map (·.1)
  if !out.isEmpty then accessTrap tACCESS_VIOLATION write eas out
  else if !mis.isEmpty then accessTrap tMISALIGNED write eas mis
  else k ()

/-- A read of local ranges, each of a lane: an uncorrectable error there is raised on the issue group (R276). -/
def readLocal (s : State) (gid : Nat) (rs : List (Nat × Nat × Nat)) (k : Unit → Res) : Res :=
  let bad := (rs.filter (fun r => localBad s gid r.2.1 r.2.2)).map (·.1)
  if bad.isEmpty then k () else accessTrap tMACHINE_CHECK false (rs.map (fun r => (r.1, r.2.1))) bad

/-- SIZE in bytes, and the operand type of its data (R358). -/
def mSize (x : XOp) : Nat := 2 ^ (x.fn.toNat % 8)
def sizeTy (size : Nat) : OTy := if size = 16 then .b128 else if size = 8 then .i64 else .i32
/-- A loaded value, sign-extended to 32 bits with SX (R359). -/
def extend (sx : Bool) (size v : Nat) : Nat := if sx then wrap (sext v (8 * size)) 32 else v

/-- The CACHE field of an instruction noted on the lines of its accesses that its L1 holds (R299). -/
def hintLines (cx : Ctx) (s : State) (acc : Accesses) : State := noteHints s cx.k (mFields cx.x).cache (acc.map (fun a => a.2.1 / 128))

/-! ## Ordering (R250, R255, R257) -/

/-- Whether an order releases, or acquires: REL 2, AR 3, SC 4; ACQ 1, AR 3, SC 4. -/
def orderRel (o : Nat) : Bool := o ≥ 2
def orderAcq (o : Nat) : Bool := o == 1 || o ≥ 3

/-- A release of the executing threads; an error pending in a register of a releasing thread is raised first (R257, R276). -/
def withRelease (cx : Ctx) (s : State) (rel : Bool) (scope : Nat) (lanes : List Nat) (k : State → Res) : Res :=
  if rel then
    let bad := pendingError cx.co lanes
    if !bad.isEmpty then cx.pendingTrap bad else k (releaseAt s cx.k scope)
  else k s

def acquireIf (cx : Ctx) (s : State) (acq : Bool) (scope : Nat) : State := if acq then acquireAt s cx.k cx.gid scope else s

/-- `SC` operations of an instruction queued for the core's wheel position (R255). -/
def queueSc (cx : Ctx) (s : State) (ops : List ScOp) : State :=
  let s := cx.modCo s (fun co => { co with scLeft := co.scLeft + ops.length })
  { s with xlat := { s.xlat with scWaiting := tmod s.xlat.scWaiting cx.k [] (· ++ ops) } }

/-- An `SC` operation on its access: kind 0 load, 1 store, 2 atomic, 3 fence, 5 a load-block; `lanes` are those whose access it is. -/
def scOp (cx : Ctx) (s : State) (kind size : Nat) (lanes : W32) (a : Nat × Nat × Nat) (data data2 aop at_ : Nat) (sx : Bool) (regs : List (Bool × Nat × Nat)) : ScOp :=
  let m := mFields cx.x
  { gid := cx.gid, coil := cx.c, lanes, pc := cx.pc, order := s.cor.order, kind, core := cx.k, asid := s.asidOf cx.gid
    va := if kind < 3 then globalEa cx a.1 else 0
    pa := a.2.1, leaf := a.2.2, size, scope := m.scope, data, data2, aop, at_, sx, regs, place := m.place, cache := m.cache
    pages := if kind < 3 then pagesUsed s cx.k (s.asidOf cx.gid) [globalEa cx a.1] else [] }

/-- Results of lanes that land later, those with an uncorrectable error apart (R204, R276). -/
def landLoads (cx : Ctx) (s : State) (w : Nat) (vals : List (Nat × Nat × Bool)) : State :=
  let good := vals.filter (fun v => !v.2.2)
  let bad := vals.filter (fun v => v.2.2)
  let s := if good.isEmpty then s else cx.later s w (good.map (fun v => (v.1, v.2.1)))
  bad.foldl (fun s v => cx.later s w [(v.1, v.2.1)] true 0 (BitVec.ofNat 64 (globalEa cx v.1))) s

/-! ## Loads and stores (R359) -/

/-- Global loads of lanes. -/
def loadBody (lanes : Ctx → List Nat) (cx : Ctx) (s : State) : Res :=
  let m := mFields cx.x
  let size := mSize cx.x
  let sx := cx.fn ≥ 8
  let w := (sizeTy size).words
  let eas := (lanes cx).map (fun l => (l, globalEa cx l))
  checkGlobal cx s eas size false .active (fun acc =>
    let found := s
    withRelease cx s (m.order == 4) m.scope (lanes cx) (fun s =>
      if m.order = 4 then
        let s := acquireAt s cx.k cx.gid m.scope
        let regs (l : Nat) := dstRegs cx.x.dst w l
        let s := cx.modCo s (fun co => co.markEmpty (acc.flatMap (fun a => regs a.1)))
        .done (queueSc cx s (acc.map (fun a => scOp cx found 0 size (if (lanes cx).length = 1 then cx.actMask else laneMask [a.1]) a 0 0 0 0 sx (regs a.1))))
      else
        let s := acc.foldl (fun s a => loadNote s cx.k a.2.2 m.scope a.2.1 size) s
        let vals := acc.map (fun a => (a.1, extend sx size (loadNat s cx.k a.2.2 m.scope a.2.1 size), loadBad s cx.k a.2.2 m.scope a.2.1 size))
        .done (acquireIf cx (landLoads cx (hintLines cx s acc) w vals) (orderAcq m.order) m.scope)))

def execLd (x : XOp) (s : State) : Out := .next (issue x { a := 2, d := (sizeTy (mSize x)).words } (loadBody (·.act)) s)
/-- `LDU` makes the one access of the lowest active lane. -/
def execLdu (x : XOp) (s : State) : Out := .next (issue x { a := 2, d := (sizeTy (mSize x)).words } (loadBody (fun cx => [cx.low])) s)

def execSt (x : XOp) (s : State) : Out :=
  let size := mSize x
  let ty := sizeTy size
  .next (issue x { a := 2, b := ty.words } (fun cx s =>
    let m := mFields x
    checkGlobal cx s (cx.act.map (fun l => (l, globalEa cx l))) size true .active (fun acc =>
      let found := s
      withRelease cx s (orderRel m.order) m.scope cx.act (fun s =>
        if m.order = 4 then
          .done (queueSc cx (acquireAt s cx.k cx.gid m.scope) (acc.map (fun a => scOp cx found 1 size (laneMask [a.1]) a (cx.b ty a.1) 0 0 0 false [])))
        else .done (hintLines cx (acc.foldl (fun s a => storeBytes s cx.k a.2.2 m.scope a.2.1 (leBytes size (cx.b ty a.1))) s) acc)))) s)

/-- Cycles from the issue of a local load to the cc in which its result lands: the instruction that needs it issues in the eighth cc after the load
(R458). -/
def localLatency : Nat := 7

def execLdl (x : XOp) (s : State) : Out :=
  let size := mSize x
  let w := (sizeTy size).words
  .next (issue x { a := 1, d := w } (fun cx s =>
    checkLocal cx s (cx.act.map (fun l => (l, localEa cx l))) size false (fun _ => readLocal s cx.gid (cx.act.map (fun l => (l, localEa cx l, size))) (fun _ =>
      .done (cx.later s w (cx.act.map (fun l => (l, extend (cx.fn ≥ 8) size (localNat s cx.gid (localEa cx l) size)))) false (coreCycles s cx.k + localLatency))))) s)

/-- REL on a local store is a release at its scope, where an error pending in a register is raised (R276, R359). -/
def execStl (x : XOp) (s : State) : Out :=
  let size := mSize x
  let ty := sizeTy size
  .next (issue x { a := 1, b := ty.words } (fun cx s =>
    checkLocal cx s (cx.act.map (fun l => (l, localEa cx l))) size true (fun _ =>
      withRelease cx s (orderRel (mFields x).order) (mFields x).scope cx.act (fun s =>
        .done (cx.act.foldl (fun s l => localWrite s cx.gid (localEa cx l) (leBytes size (cx.b ty l))) s)))) s)

/-! ## Load-blocks and lines (R259, R360, R361) -/

/-- The oldest blocks of a core end until `n` more lines fit in the 1,024 that blocks may pin: a block pins its lines once it is filled (R259). -/
def roomForBlock (s : State) (k n : Nat) : Nat → State
  | 0 => s
  | fuel + 1 =>
    let mine := s.cor.blocks.filter (fun e => e.2.core = k && !e.2.filling)
    if (mine.foldl (fun a e => a + e.2.lines.length) 0) + n ≤ 1024 then s
    else match mine.head? with
      | some e => roomForBlock (endBlock s e.1) k n fuel
      | none => s

def execLdblk (x : XOp) (s : State) : Out :=
  .next (issue x { a := 2 } (fun cx s =>
    let m := mFields x
    let ea := globalEa cx cx.low
    let n := m.nlm1 + 1
    if ea ≥ 2 ^ 57 then accessTrap tACCESS_VIOLATION false [(cx.low, ea)] [cx.low]
    else if ea % 128 ≠ 0 then accessTrap tMISALIGNED false [(cx.low, ea)] [cx.low]
    else checkGlobal cx s ((List.range n).map (fun i => (cx.low, ea + 128 * i))) 1 false .active (fun acc =>
      if acc.any (fun a => leafOrd a.2.2 == 1) then accessTrap tACCESS_VIOLATION false [(cx.low, ea)] [cx.low]
      else
        let pages := pagesUsed s cx.k (s.asidOf cx.gid) ((List.range n).map (fun i => ea + 128 * i))
        withRelease cx s (m.order == 4) m.scope cx.act (fun s =>
        let s := acquireIf cx (tagKick s cx.gid m.tag) (orderAcq m.order) m.scope
        let lines := acc.map (fun a => (a.2.1 / 128, a.2.2))
        let id := s.cor.nextBlk
        let b : LdBlk := { gid := cx.gid, core := cx.k, asid := s.asidOf cx.gid, va := ea, lines, tag := m.tag, scope := m.scope, filling := true,
                           pages, cache := m.cache, sc := m.order == 4, order := s.cor.order }
        let s := { s with cor := { s.cor with blocks := tput s.cor.blocks id b, nextBlk := id + 1 } }
        .done (if m.order = 4 then queueSc cx s [scOp cx s 5 0 cx.actMask (0, 0, 0) id 0 0 0 false []] else s)))) s)

/-- A line of a load-block as its fill translates it, with the leaf of its page; the page that its issue found serves where the page has gone (R243). -/
def blockLine (s : State) (b : LdBlk) (i : Nat) (old : Nat × Nat) : Nat × Nat :=
  match translate s (lookAny s b.core b.asid) b.asid (b.va + 128 * i) false false .active with
  | .ok pa leaf => if unreachable s pa then old else (pa / 128, leaf)
  | _ => old

/-- The fill of a load-block ends: there is room for it, its lines are clean copies, and its tag counts one less (R259, R360). -/
def finishBlock (s : State) (id : Nat) : State :=
  match tget s.cor.blocks id with
  | some b =>
    if b.filling then
      let lines := (List.range b.lines.length).map (fun i => blockLine s b i ((b.lines[i]?).getD (0, 0)))
      let s := roomForBlock s b.core lines.length 1024
      let s := { s with cor := { s.cor with blocks := tput s.cor.blocks id { b with filling := false, sc := false, lines } } }
      let s := noteHints (lines.foldl (fun s e => fillClean s b.core e.2 1 (128 * e.1)) s) b.core b.cache (lines.map (·.1))
      tagDone s b.gid b.tag b.scope
    else s
  | none => s

/-- `PREF` is a hint, dropped where its page would miss or fault: a line that a thread asks for at `THREAD` or `GROUP` scope comes into the L1 (R361). -/
def execPref (x : XOp) (s : State) : Out :=
  .next (issue x { a := 2 } (fun cx s =>
    let asid := s.asidOf cx.gid
    .done (cx.act.foldl (fun s l =>
      match translate s (lookCore s cx.k asid) asid (globalEa cx l) false false .active with
      | .ok pa leaf => if unreachable s pa then s else noteHints (fillClean s cx.k leaf (mFields x).scope pa) cx.k (mFields x).cache [pa / 128]
      | _ => s) s)) s)

/-- A line written back to the point of a scope (R361). -/
def writeBackLine (s : State) (k line scope : Nat) : State :=
  if scope < 2 then s
  else
    let s := l1WriteBack s k line scope
    if scope ≥ 3 then regionWriteBack s (regionOf k) line else s

def execWbl (x : XOp) (s : State) : Out :=
  .next (issue x { a := 2 } (fun cx s =>
    checkGlobal cx s (cx.act.map (fun l => (l, globalEa cx l))) 1 false .active (fun acc =>
      .done (acc.foldl (fun s a => writeBackLine s cx.k (a.2.1 / 128) (mFields x).scope) s))) s)

/-- Clean copies below the point of a scope dropped, and the blocks that hold the line ended (R361). -/
def dropLine (s : State) (k line scope : Nat) : State :=
  if scope < 2 then s
  else
    let s := ((s.cor.blocks.filter (fun e => e.2.core = k && !e.2.filling && e.2.lines.any (fun l => l.1 = line))).map (·.1)).foldl endBlock s
    s.modCore k (fun c => { c with l1 := Cache.settleBad { c.l1 with clean := tdel c.l1.clean line } })

def execInvl (x : XOp) (s : State) : Out :=
  .next (issue x { a := 2 } (fun cx s =>
    checkGlobal cx s (cx.act.map (fun l => (l, globalEa cx l))) 1 false .active (fun acc =>
      .done (acc.foldl (fun s a => dropLine (writeBackLine s cx.k (a.2.1 / 128) (mFields x).scope) cx.k (a.2.1 / 128) (mFields x).scope) s))) s)

/-! ## Fences (R362) -/

def execFence (x : XOp) (s : State) : Out :=
  .next (issue x {} (fun cx s =>
    let m := mFields x
    withRelease cx s (orderRel m.order) m.scope cx.act (fun s =>
      let s := acquireIf cx s (orderAcq m.order) m.scope
      .done (if m.order = 4 then queueSc cx s (cx.act.map (fun l => scOp cx s 3 0 (laneMask [l]) (0, 0, 0) 0 0 0 0 false [])) else s))) s)

/-! ## Atomics (R363 to R366) -/

def atBytes (at_ : Nat) : Nat := match at_ with | 1 => 8 | 2 => 16 | 6 => 8 | _ => 4
def atTy (at_ : Nat) : OTy := match at_ with | 0 => .i32 | 1 => .i64 | 2 => .b128 | 3 => .h 9 | 4 => .h 8 | 5 => .f32 | _ => .f64

/-- The value an atomic writes, if it writes (R364). -/
def atomicNew (aop at_ old b c : Nat) : Option Nat :=
  if 3 ≤ at_ then
    let ft := match at_ with | 3 => 2 | 4 => 3 | 5 => 0 | _ => 1
    some (fEach ft (fun e => fNode (fFmt ft) (if aop = 0 then 0 else if aop = 4 then 1 else 2) (fElem ft old e) (fElem ft b e))).1
  else
    let w := 8 * atBytes at_
    match aop with
    | 0 => some ((old + b) % 2 ^ w)
    | 1 => some (old &&& b)
    | 2 => some (old ||| b)
    | 3 => some (old ^^^ b)
    | 4 => some (if sext b w < sext old w then b else old)
    | 5 => some (if sext old w < sext b w then b else old)
    | 6 => some (min old b)
    | 7 => some (max old b)
    | 8 => some b
    | _ => if old = b then some c else none

/-- A global atomic of each active thread, with its old value in D unless it is `RED` (R364). -/
def atomicBody (ret : Bool) (cx : Ctx) (s : State) : Res :=
  let m := mFields cx.x
  let aop := cx.fn % 16
  let at_ := cx.fn / 16
  let ty := atTy at_
  let size := atBytes at_
  checkGlobal cx s (cx.act.map (fun l => (l, globalEa cx l))) size true .active (fun acc =>
    let found := s
    withRelease cx s (orderRel m.order) m.scope cx.act (fun s =>
      if m.order = 4 then
        let s := acquireAt s cx.k cx.gid m.scope
        let regs (l : Nat) := if ret then dstRegs cx.x.dst ty.words l else []
        let s := cx.modCo s (fun co => co.markEmpty (acc.flatMap (fun a => regs a.1)))
        .done (queueSc cx s (acc.map (fun a => scOp cx found 2 size (laneMask [a.1]) a (cx.b ty a.1) (cx.cc ty a.1) aop at_ false (regs a.1))))
      else
        let r := acc.foldl (fun (p : State × List (Nat × Nat × Bool)) a =>
          let bad := atomicBad p.1 cx.k a.2.1 size
          let q := atomicStep p.1 cx.k a.2.2 a.2.1 size m.place (fun old => atomicNew aop at_ old (cx.b ty a.1) (cx.cc ty a.1))
          (q.2, p.2 ++ [(a.1, q.1, bad)])) (s, [])
        let s := if ret then landLoads cx r.1 ty.words r.2 else r.1
        .done (acquireIf cx s (orderAcq m.order) m.scope)))

def atomicIssue (x : XOp) (ret cas : Bool) (s : State) : Out :=
  let w := (atTy (x.fn.toNat / 16)).words
  .next (issue x { a := 2, b := w, c := if cas then w else 0, d := if ret then w else 0 } (atomicBody ret) s)

def execAtom (x : XOp) (s : State) : Out := atomicIssue x true false s
def execAtomf (x : XOp) (s : State) : Out := atomicIssue x true false s
def execCas (x : XOp) (s : State) : Out := atomicIssue x true true s
def execRed (x : XOp) (s : State) : Out := atomicIssue x false false s

/-- One local atomic: a 32-bit add at a 16-byte-aligned offset counts a barrier object (R213, R366). -/
def localAtomic (s : State) (gid off aop at_ b c : Nat) : State :=
  let size := atBytes at_
  let old := localNat s gid off size
  if aop = 0 ∧ at_ = 0 ∧ off % 16 = 0 then countBo s gid off (sext b 32)
  else match atomicNew aop at_ old b c with
    | some v => localWrite s gid off (leBytes size v)
    | none => s

def execAtoml (x : XOp) (s : State) : Out :=
  let aop := x.fn.toNat % 16
  let at_ := x.fn.toNat / 16
  let ty := atTy at_
  let w := ty.words
  .next (issue x { a := 1, b := w, c := if aop = 9 then w else 0, d := w } (fun cx s =>
    checkLocal cx s (cx.act.map (fun l => (l, localEa cx l))) (atBytes at_) true (fun _ => readLocal s cx.gid (cx.act.map (fun l => (l, localEa cx l, atBytes at_))) (fun _ =>
      withRelease cx s (orderRel (mFields x).order) (mFields x).scope cx.act (fun s =>
        let r := cx.act.foldl (fun (p : State × List (Nat × Nat)) l =>
          let old := localNat p.1 cx.gid (localEa cx l) (atBytes at_)
          (localAtomic p.1 cx.gid (localEa cx l) aop at_ (cx.b ty l) (cx.cc ty l), p.2 ++ [(l, old)])) (s, [])
        .done (cx.later r.1 w r.2))))) s)

/-! ## The companion's writes (R16) -/

/-- A write of the host performed at a line's home: the regions' dirty bytes of the line go home first, and ownership of the line ends (R16, R256). -/
def hostWrite (s : State) (pa : Nat) : List Byte → State
  | [] => s
  | b :: t => hostWrite (putPhys (recallOwners (recallRegions s (pa / 128)) 192 (pa / 128)) pa [b]) (pa + 1) t

/-- An atomic addition of the host, which receives the old value. -/
def hostAdd (s : State) (pa v : Nat) : State :=
  let s := recallRegions s (pa / 128)
  let old := physNat s pa 8
  let s := hostWrite s pa (leBytes 8 ((old + v) % 2 ^ 64))
  { s with mod := { s.mod with hostData := leBytes 8 old } }

/-! ## The wheel (R255) -/

/-- The page of an `SC` access as it is performed: the new one, or the one that its check found where the page has gone (R243, R265, R267). -/
def scAccess (s : State) (o : ScOp) : Nat × Nat :=
  match translate s (lookAny s o.core o.asid) o.asid o.va (o.kind = 1 || o.kind = 2) false .active with
  | .ok pa leaf => if unreachable s pa then (o.pa, o.leaf) else (pa, leaf)
  | _ => (o.pa, o.leaf)

/-- One `SC` operation performed at its position. -/
def performSc (s : State) (o : ScOp) : State :=
  if o.kind = 4 then hostAdd s o.va o.data
  else
    let (pa, leaf) := scAccess s o
    let land (s : State) (v : Nat) (bad : Bool) : State :=
      s.modCoil o.gid o.coil (fun co => { co with landings := co.landings ++ [{ regs := landWords o.regs v, bad, addr := BitVec.ofNat 64 o.va }] })
    let s := match o.kind with
      | 0 =>
        let s := loadNote s o.core leaf o.scope pa o.size
        land s (extend o.sx o.size (loadNat s o.core leaf o.scope pa o.size)) (loadBad s o.core leaf o.scope pa o.size)
      | 1 => storeBytes s o.core leaf o.scope pa (leBytes o.size o.data)
      | 2 =>
        let bad := atomicBad s o.core pa o.size
        let r := atomicStep s o.core leaf pa o.size o.place (fun old => atomicNew o.aop o.at_ old o.data o.data2)
        if o.regs.isEmpty then r.2 else land r.2 r.1 bad
      | _ => s
    let s := acquireAt (noteHints s o.core o.cache [pa / 128]) o.core o.gid o.scope
    let s := if o.kind = 5 then { s with cor := { s.cor with blocks := tupd s.cor.blocks o.data (fun b => { b with sc := false }) } } else s
    s.modCoil o.gid o.coil (fun co => { co with scLeft := co.scLeft - 1 })

end Sys2Proof.Machine
end

