-- ==== Sys2Proof/Machine/Sync.lean ====
section
/-! DEFINITION. Xamal barriers, flags, ordered sections, publishing, tags, copies, launches and register redivision
(R367 to R378, R381). -/
namespace Sys2Proof.Machine

/-! ## Barriers and flags -/

/-- BAR arrives and waits; an episode is an AR at `GROUP` scope (R367). -/
def execBar (x : XOp) (s : State) : Out :=
  .next (issue x {} (fun cx s => withRelease cx s true 1 cx.act (fun s => .done (testBar (cx.wait s cx.actMask .bar) cx.gid))) s)

/-- CBAR: an AR at `CLUSTER` scope (R367). -/
def execCbar (x : XOp) (s : State) : Out :=
  .next (issue x {} (fun cx s => withRelease cx s true 2 cx.act (fun s =>
    let s := noteCbar (cx.wait s cx.actMask .cbar) cx.gid
    .done (testCbar s (s.group cx.gid).cluster))) s)

def execFlaginc (x : XOp) (s : State) : Out :=
  .next (issue x { a := 1, b := 1, c := 1 } (fun cx s =>
    let k := cx.a .i32 cx.low
    let f := cx.b .i32 cx.low
    if 191 < k ∨ 63 < f ∨ s.mod.coreGone.contains k then cx.trapAll tILLEGAL_OPERAND
    else withRelease cx s true 3 (laneList cx.lanes) (fun s => .done (flagAdd s k f (cx.cc .i32 cx.low % 2 ^ 16)))) s)

def execFlagwait (x : XOp) (s : State) : Out :=
  .next (issue x { a := 1, b := 1 } (fun cx s =>
    let f := cx.a .i32 cx.low
    let n := cx.b .i32 cx.low
    if 63 < f ∨ 0xFFFF < n then cx.trapAll tILLEGAL_OPERAND
    else if n ≤ s.flag cx.k f then .done (acquireAt (s.setFlag cx.k f (s.flag cx.k f - n)) cx.k cx.gid 3)
    else .done (cx.wait s cx.actMask (.flag f n))) s)

/-! ## Ordered sections (R369 to R373) -/

def Ctx.dom (cx : Ctx) (l : Nat) : BitVec 8 := BitVec.ofNat 8 (cx.a .i32 l)
def Ctx.key (cx : Ctx) (l : Nat) : W32 := BitVec.ofNat 32 (cx.b .i32 l)
def Ctx.seq (cx : Ctx) (l : Nat) : W32 := BitVec.ofNat 32 (cx.cc .i32 l)
def Ctx.asid (cx : Ctx) (s : State) : W16 := (cx.launch s).asid

/-- The domain checks of R369, then the rest. -/
def withDomain (cx : Ctx) (s : State) (k : Unit → Res) : Res :=
  let bad := cx.act.filter (fun l => 255 < cx.a .i32 l || (cx.a .i32 l == 0 && (progFrag s (cx.co.thread l)).isNone))
  if bad.isEmpty then k () else cx.trapSome tILLEGAL_OPERAND bad

/-- A section trap: TRAPADDR is the key (R271). -/
def keyTrap (cx : Ctx) (code : Nat) (lanes : List Nat) : Res :=
  .trap { code, cause := laneMask lanes, addrs := trapAddrs (cx.act.map (fun l => (l, (cx.key l).toNat))) }

/-- Whether a thread may not enter a key: it holds two, or one not below it (R370). -/
def orderBroken (t : Thread) (dom : BitVec 8) (key : W32) : Bool :=
  2 ≤ t.keys.length || t.keys.any (fun h => key < h.key || (key = h.key && dom ≤ h.dom))

/-- One lane enters or waits (R370). -/
def enterLane (cx : Ctx) (s : State) (l : Nat) : State :=
  let dom := cx.dom l
  let key := cx.key l
  let seq := cx.seq l
  let asid := cx.asid s
  let sl := keySlice dom key
  let s := if (findKey s sl asid dom key).isNone ∧ !keyFull s sl then (allocKey s sl asid dom key).2 else s
  match findKey s sl asid dom key with
  | some (id, e) =>
    if e.holder.isNone ∧ e.nextseq = seq ∧ !(e.waiters.any (fun w => w.seq = seq)) then takeKey s sl id cx.gid cx.c l cx.x.dst
    else requestKey (cx.wait s (laneMask [l]) (.os cx.x.dst dom key seq)) asid dom key { gid := cx.gid, coil := cx.c, lane := l, seq }
  | none => requestKey (cx.wait s (laneMask [l]) (.os cx.x.dst dom key seq)) asid dom key { gid := cx.gid, coil := cx.c, lane := l, seq }

/-- The issue group is descheduled until its instruction is retried (R373). -/
def deschedule (cx : Ctx) (s : State) (sl : Nat) : State :=
  enterWait (cx.modCo s (fun co => co.mapLanes cx.lanes (fun t => { t with pc := cx.pc }))) cx.gid cx.c cx.lanes
    (.table sl (coreCycles s cx.k + 1024)) cx.pc

/-- The first lane whose request finds no room when those before it have been made, with its slice (R373). -/
def fullAt (cx : Ctx) (req : State → Nat → State) (s : State) : Option Nat :=
  (cx.act.foldl (fun (p : State × Option Nat) l =>
    match p.2 with
    | some _ => p
    | none => if noRoom p.1 (cx.asid p.1) (cx.dom l) (cx.key l) then (p.1, some (keySlice (cx.dom l) (cx.key l))) else (req p.1 l, none)) (s, none)).2

def execOsenter (x : XOp) (s : State) : Out :=
  .next (issue x { a := 1, b := 1, c := 1, d := 1 } (fun cx s => withDomain cx s (fun _ =>
    let ord := cx.act.filter (fun l => orderBroken (cx.co.thread l) (cx.dom l) (cx.key l))
    let gap := cx.act.filter (fun l =>
      match findKey s (keySlice (cx.dom l) (cx.key l)) (cx.asid s) (cx.dom l) (cx.key l) with
      | some (_, e) => seqConsumed e (cx.seq l)
      | none => 2 ^ 31 ≤ (cx.seq l).toNat)
    if !ord.isEmpty then keyTrap cx tOS_ORDER ord
    else if !gap.isEmpty then keyTrap cx tOS_GAP gap
    else match fullAt cx (enterLane cx) s with
      | some sl => .done (deschedule cx s sl)
      | none => .done (cx.act.foldl (enterLane cx) s))) s)

def leaveBody (last : Bool) (cx : Ctx) (s : State) : Res :=
  withDomain cx s (fun _ =>
    let bad := cx.act.filter (fun l => !((cx.co.thread l).keys.any (fun h => h.dom = cx.dom l && h.key = cx.key l)))
    if !bad.isEmpty then keyTrap cx tOS_ORDER bad
    else withRelease cx s true 3 cx.act (fun s => .done (cx.act.foldl (fun s l =>
      leaveKey (dropKey s cx.gid cx.c l (cx.dom l) (cx.key l)) (cx.asid s) (cx.dom l) (cx.key l) last false) s)))

def execOsleave (x : XOp) (s : State) : Out := .next (issue x { a := 1, b := 1 } (leaveBody false) s)
def execOsleaveLast (x : XOp) (s : State) : Out := .next (issue x { a := 1, b := 1 } (leaveBody true) s)

/-- One lane's skip posted: its thread continues, and the skip waits in the overflow queue where there is no entry for it (R372, R373). -/
def postSkip (cx : Ctx) (s : State) (l : Nat) : State :=
  let dom := cx.dom l
  let key := cx.key l
  let s := requestKey s (cx.asid s) dom key { gid := 0, coil := 0, lane := 0, seq := cx.seq l, skip := true }
  cx.modCo s (fun co => co.mapLanes (laneMask [l]) (fun t =>
    { t with frag := t.frag.map (fun f => if dom = 0 ∧ f.key = key ∧ f.seq = cx.seq l then { f with sectioned := true } else f) }))

/-- The skips of an instruction in lane order: the state after them, the lanes whose seq is claimed, and whether one is held back (R372). (DEDUCED, log 16.) -/
def postSkips (cx : Ctx) (s : State) : State × List Nat × Bool :=
  cx.act.foldl (fun (p : State × List Nat × Bool) l =>
    let asid := cx.asid p.1
    if skipGap p.1 asid (cx.dom l) (cx.key l) (cx.seq l) then (p.1, p.2.1 ++ [l], p.2.2)
    else if skipHeld p.1 asid (cx.dom l) (cx.key l) (cx.seq l) then (p.1, p.2.1, true)
    else (postSkip cx p.1 l, p.2.1, p.2.2)) (s, [], false)

def execOsskip (x : XOp) (s : State) : Out :=
  .next (issue x { a := 1, b := 1, c := 1 } (fun cx s => withDomain cx s (fun _ =>
    let r := postSkips cx s
    if !r.2.1.isEmpty then keyTrap cx tOS_GAP r.2.1
    else if r.2.2 then .stall
    else match fullAt cx (postSkip cx) s with
      | some sl => .done (deschedule cx s sl)
      | none => withRelease cx s true 3 cx.act (fun s => .done (postSkips cx s).1))) s)

/-- What `OSQRY` reads (R373). -/
def keyState (s : State) (asid : W16) (dom : BitVec 8) (key : W32) : Nat :=
  match findKey s (keySlice dom key) asid dom key with
  | some (_, e) =>
    1 + (if e.holder.isSome then 2 else 0) + (if e.abandoned then 4 else 0)
      + (match e.holder with | some h => (if (s.group h.gid).saved then 8 else 0) + (s.group h.gid).core * 256 | none => 0)
      + e.nextseq.toNat * 2 ^ 32
  | none => 0

def execOsqry (x : XOp) (s : State) : Out :=
  .next (issue x { a := 1, b := 1, d := 2 } (fun cx s => withDomain cx s (fun _ =>
    .done (cx.write s 2 (cx.act.map (fun l => (l, keyState s (cx.asid s) (cx.dom l) (cx.key l))))))) s)

/-! ## Publishing (R374) -/

/-- The scope code that B of `PUBLISH` holds. -/
def publishScope (x : XOp) : Nat := match x.b with | .imm i => i.toNat | _ => 0

def execPublish (x : XOp) (s : State) : Out :=
  .next (issue x { a := 1 } (fun cx s =>
    let n := cx.a .i32 cx.low
    let scope := publishScope x
    if scope = 0 ∨ 4 < scope ∨ n = 0 ∨ 4095 < n then cx.trapAll tILLEGAL_OPERAND
    else if (pubEntry s (s.asidOf cx.gid) n).isNone then cx.trapAll tACCESS_VIOLATION
    else withRelease cx s true scope cx.act (fun s => .done (publishEntry s (s.asidOf cx.gid) n))) s)

/-! ## Copies, barrier objects and tags (R375 to R377) -/

/-- A copy put in the copy-request queue of a core (R209, R212). -/
def kick (cx : Ctx) (s : State) (l : Nat) : State :=
  let off := cx.a .i32 l
  let id := s.cor.nextCopy
  let s := tagKick s cx.gid (field (localNat s cx.gid off 8) 4 6)
  let cp : Copy := { owner := some (cx.gid, cx.c, l), asid := cx.asid s, core := cx.k, off }
  let s := { s with cor := { s.cor with copies := tput s.cor.copies id cp, nextCopy := id + 1 } }
  s.modCore cx.k (fun c => { c with copyq := c.copyq ++ [id] })

def execCkick (x : XOp) (s : State) : Out :=
  .next (issue x { a := 1 } (fun cx s =>
    let eas := cx.act.map (fun l => (l, cx.a .i32 l))
    let mis := (eas.filter (fun e => e.2 % 64 ≠ 0)).map (·.1)
    let out := (eas.filter (fun e => localSize s cx.gid < e.2 + 64)).map (·.1)
    if !mis.isEmpty then accessTrap tMISALIGNED false eas mis
    else if !out.isEmpty then accessTrap tACCESS_VIOLATION false eas out
    else if 64 < (s.core cx.k).copyq.length + cx.act.length then .stall
    else readLocal s cx.gid (eas.map (fun e => (e.1, e.2, 8))) (fun _ => withRelease cx s true 1 cx.act (fun s => .done (cx.act.foldl (kick cx) s)))) s)

def execBowait (x : XOp) (s : State) : Out :=
  .next (issue x { a := 1, b := 1 } (fun cx s =>
    let eas := cx.act.map (fun l => (l, cx.a .i32 l))
    let mis := (eas.filter (fun e => e.2 % 16 ≠ 0)).map (·.1)
    let out := (eas.filter (fun e => localSize s cx.gid < e.2 + 16)).map (·.1)
    if !mis.isEmpty then accessTrap tMISALIGNED false eas mis
    else if !out.isEmpty then accessTrap tACCESS_VIOLATION false eas out
    else readLocal s cx.gid (eas.map (fun e => (e.1, e.2, 8))) (fun _ => .done (cx.act.foldl (fun s l =>
      let off := cx.a .i32 l
      let p := bit (cx.b .i32 l) 0
      if bit (cellGet (s.group cx.gid).lmem (off + 4)).toNat 0 != p then s else cx.wait s (laneMask [l]) (.bo off p)) s))) s)

def tagMask (cx : Ctx) : W64 := BitVec.ofNat 64 (cx.a .i64 cx.low)

def execWaitall (x : XOp) (s : State) : Out :=
  .next (issue x { a := 2 } (fun cx s =>
    let g := s.group cx.gid
    let m := tagMask cx
    if g.tagbits &&& m = m then .done (if m = 0 then s else acquireAt s cx.k cx.gid (tagScopes g m))
    else .done (cx.wait s cx.actMask (.all m))) s)

def execWaitany (x : XOp) (s : State) : Out :=
  .next (issue x { a := 2, d := 2 } (fun cx s =>
    let g := s.group cx.gid
    let m := tagMask cx
    if m = 0 then cx.trapAll tILLEGAL_OPERAND
    else if g.tagbits &&& m ≠ 0 then .done (acquireAt (cx.write s 2 [(cx.low, (g.tagbits &&& m).toNat)]) cx.k cx.gid (tagScopes g (g.tagbits &&& m)))
    else .done (cx.wait s cx.actMask (.any x.dst m))) s)

def execFfready (x : XOp) (s : State) : Out :=
  .next (issue x { a := 2, d := 2 } (fun cx s =>
    let g := s.group cx.gid
    let m := g.tagbits &&& tagMask cx
    let s := cx.write s 2 [(cx.low, m.toNat)]
    .done (if m = 0 then s else acquireAt s cx.k cx.gid (tagScopes g m))) s)

def execTagclr (x : XOp) (s : State) : Out :=
  .next (issue x { a := 2 } (fun cx s =>
    let m := tagMask cx
    .done (s.modGroup cx.gid (fun g => { g with tagbits := g.tagbits &&& ~~~m, tagScope := g.tagScope.filter (fun e => !m.getLsbD e.1) }))) s)

/-! ## Launches and register redivision (R378, R381) -/

def execLaunch (x : XOp) (s : State) : Out :=
  .next (issue x { a := 2 } (fun cx s =>
    let eas := cx.act.map (fun l => (l, cx.a .i64 l))
    let mis := (eas.filter (fun e => e.2 % 256 ≠ 0)).map (·.1)
    let high := (eas.filter (fun e => 2 ^ 57 ≤ e.2)).map (·.1)
    let r := regionOf cx.k
    if !mis.isEmpty then accessTrap tMISALIGNED false eas mis
    else if !high.isEmpty then accessTrap tACCESS_VIOLATION false eas high
    else if 64 < (s.region r).launchq.length + cx.act.length then .stall
    else withRelease cx s true 3 cx.act (fun s =>
      .done (s.modRegion r (fun g => { g with launchq := g.launchq ++ eas.map (fun e => ((s.group cx.gid).launch, BitVec.ofNat 57 e.2)) })))) s)

/-- Every thread of the coil that has not exited is in the issue group (R124). -/
def wholeCoil (cx : Ctx) : Bool := (List.range cx.co.threads.length).all (fun t => (cx.co.thread t).st = .exited || laneIn cx.lanes t)

def execReggive (x : XOp) (s : State) : Out :=
  .next (issue x { a := 1 } (fun cx s =>
    let n := cx.a .i32 cx.low
    let g := cx.co.granules
    if !wholeCoil cx then cx.trapAll tILLEGAL_CONVERGENCE
    else if n = 0 then .done s
    else if g ≤ n then cx.trapAll tILLEGAL_OPERAND
    else if cx.co.vEmpty.any (fun k => 256 * (g - n) ≤ k) then .stall
    else
      let s := cx.modCo s (fun co => { (co.clearGranules (g - n) g) with granules := g - n })
      .done (serveClaims cx.gid 32 (s.modGroup cx.gid (fun g => { g with pool := g.pool + n })))) s)

def execRegclaim (x : XOp) (s : State) : Out :=
  .next (issue x { a := 1 } (fun cx s =>
    let n := cx.a .i32 cx.low
    let r := (cx.launch s).rec_
    if !wholeCoil cx then cx.trapAll tILLEGAL_CONVERGENCE
    else if n = 0 then .done s
    else if min 32 (r.cpg * r.vgran) < cx.co.granules + n then cx.trapAll tILLEGAL_OPERAND
    else if (firstClaim (s.group cx.gid)).isNone ∧ n ≤ (s.group cx.gid).pool then
      let s := cx.modCo s (fun co => { co.clearGranules co.granules (co.granules + n) with granules := co.granules + n })
      .done (s.modGroup cx.gid (fun g => { g with pool := g.pool - n }))
    else .done (cx.wait s cx.actMask (.claim n))) s)

end Sys2Proof.Machine
end

