-- ==== Sys2Proof/Machine/Rings.lean ====
section
/-! DEFINITION. Multicast rings (R121 to R123, R380). -/
namespace Sys2Proof.Machine

/-- A ring: the group that holds its header, and the header's fields (R121). -/
structure Ring where
  gid : Nat
  h : Nat
  base : Nat
  slots : Nat
  slotsz : Nat
  members : Nat
  cmask : Nat
  deriving DecidableEq, Repr

/-- The group of a cluster with a `CLGROUP`, while it lasts. -/
def memberGid (s : State) (cl n : Nat) : Option Nat := (s.cluster cl).groups.find? (fun g => (s.group? g).isSome && (s.group g).clgroup = n)

def ringRead (s : State) (gid h : Nat) : Ring :=
  { gid, h, base := localNat s gid h 4, slots := localNat s gid (h + 4) 1, slotsz := localNat s gid (h + 5) 1 * 128,
    members := localNat s gid (h + 6) 1, cmask := localNat s gid (h + 8) 8 }

def slotMask (s : State) (r : Ring) (i : Nat) : Nat := localNat s r.gid (r.h + 0x40 + 16 * i) 8
def slotSeq (s : State) (r : Ring) (i : Nat) : Nat := localNat s r.gid (r.h + 0x48 + 16 * i) 4
def putIdx (s : State) (r : Ring) : Nat := localNat s r.gid (r.h + 0x10) 4
def getIdx (s : State) (r : Ring) (c : Nat) : Nat := localNat s r.gid (r.h + 0x440 + 4 * c) 4
def setLocal (s : State) (gid off n v : Nat) : State := localWrite s gid off (leBytes n v)

/-- The local offset of a slot, in every member (R121). -/
def slotAt (r : Ring) (i : Nat) : Nat := r.base + i * r.slotsz

/-- Whether a slot lies within the local memory of every group of a set. -/
def slotFits (s : State) (r : Ring) (gids : List Nat) (i : Nat) : Bool := gids.all (fun g => slotAt r i + r.slotsz ≤ localSize s g)

def ringMembers (s : State) (r : Ring) : List Nat :=
  (s.cluster (s.group r.gid).cluster).groups.filter (fun g => (s.group? g).isSome && bit r.members (s.group g).clgroup)

/-- The data of a put: read at its source and written to the slot of every member, then the slot's sequence and mask (R122). -/
def ringDeposit (s : State) (r : Ring) (i : Nat) (data : List Byte) : State :=
  let slot := i % r.slots
  let s := (ringMembers s r).foldl (fun s g => localWrite s g (slotAt r slot) data) s
  setLocal (setLocal s r.gid (r.h + 0x48 + 16 * slot) 4 i) r.gid (r.h + 0x40 + 16 * slot) 8 r.cmask

/-- A consumer takes its next slot (R122). -/
def ringTake (s : State) (r : Ring) (c : Nat) : Nat × State :=
  (slotAt r (getIdx s r c % r.slots), setLocal s r.gid (r.h + 0x440 + 4 * c) 4 ((getIdx s r c + 1) % 2 ^ 32))

/-- Whether a consumer's next slot is ready (R122). -/
def ringReady (s : State) (r : Ring) (c : Nat) : Bool :=
  let i := getIdx s r c
  slotSeq s r (i % r.slots) == i && bit (slotMask s r (i % r.slots)) c

/-- The waits of a cluster's coils that satisfy a choice, with their coil, in issue order. -/
def clusterWaits (s : State) (cl : Nat) (p : Wait → Bool) : List (Nat × Nat × WaitRec) :=
  let all := (s.cluster cl).groups.flatMap (fun g => (List.range (s.group g).coils.length).flatMap (fun c =>
    ((s.coil g c).waits.filter (fun r => p r.wait)).map (fun r => (g, c, r))))
  all.foldl (fun l x => l.takeWhile (fun y => y.2.2.order < x.2.2.order) ++ [x] ++ l.dropWhile (fun y => y.2.2.order < x.2.2.order)) []

/-- Indices of a ring that puts have claimed and not yet deposited: waiting `RINGPUT`s, those withdrawn from their waits, and `RINGCAST`s (R122, R128, R211). -/
def claimed (s : State) (r : Ring) : List Nat :=
  let g := s.group r.gid
  (g.coils.flatMap (fun co => co.waits.filterMap (fun w => match w.wait with
      | .ringPut h o _ _ i => if h = r.gid ∧ o = r.h then some i.toNat else none
      | _ => none)))
    ++ g.coils.flatMap (fun co => co.threads.filterMap (fun t => match t.ringIdx with
      | some (h, o, i) => if h = r.gid ∧ o = r.h ∧ t.st ≠ .exited then some i.toNat else none
      | none => none))
    ++ s.cor.copies.filterMap (fun e => match e.2.ringIdx with
      | some i => if (e.2.owner.map (·.1)) = some r.gid ∧ e.2.desc.aux = r.h ∧ (e.2.st ≠ .landed) ∧ e.2.st ≠ .failed then some i.toNat else none
      | none => none)

/-- Whether an earlier put of the slot of put `i` has not been deposited (R123): puts take slots in claim order. -/
def putBehind (s : State) (r : Ring) (i : Nat) : Bool :=
  (claimed s r).any (fun j => j ≠ i && j % r.slots == i % r.slots && decide ((i + 2 ^ 32 - j) % 2 ^ 32 < 2 ^ 31))

/-- Whether put `i` may be deposited: its slot is free, and its turn has come (R122, R123). -/
def mayPut (s : State) (r : Ring) (i : Nat) : Bool := slotMask s r (i % r.slots) == 0 && !putBehind s r i

/-- The first of some ranges of a ring's header and slots, by offset from the header, that holds an uncorrectable error: its local offset. -/
def ringBad (s : State) (home off : Nat) (rs : List (Nat × Nat)) : Option Nat :=
  (rs.find? (fun r => localBad s home (off + r.1) r.2)).map (fun r => off + r.1)

/-- Waiting puts whose slot is free and whose turn has come are made, and waiting gets whose slot is ready are answered (R122, R123); one that meets an
uncorrectable error in what it reads takes `MACHINE_CHECK` (R276). -/
def testRings (s : State) (cl : Nat) : State :=
  let s := (clusterWaits s cl (fun w => match w with | .ringPut _ _ _ _ _ => true | _ => false)).foldl (fun s x =>
    match x.2.2.wait with
    | .ringPut home off _ src idx =>
      let r := ringRead s home off
      match ringBad s home off [(0, 0x14), (0x40 + 16 * (idx.toNat % r.slots), 16)] with
      | some a => waitError s x.1 x.2.1 x.2.2 a
      | none =>
      if !mayPut s r idx.toNat then s
      else if localBad s home src r.slotsz then waitError s x.1 x.2.1 x.2.2 src
      else (ringDeposit s r idx.toNat (cellsBytes (s.group home).lmem src r.slotsz)).modCoil x.1 x.2.1 (fun co => co.wake x.2.2 x.2.2.lanes)
    | _ => s) s
  (clusterWaits s cl (fun w => match w with | .ringGet _ _ _ _ => true | _ => false)).foldl (fun s x =>
    match x.2.2.wait with
    | .ringGet d home off c =>
      let r := ringRead s home off
      match ringBad s home off [(0, 0x14), (0x440 + 4 * c, 4), (0x40 + 16 * (getIdx s r c % r.slots), 16)] with
      | some a => waitError s x.1 x.2.1 x.2.2 a
      | none =>
      if ringReady s r c then
        let t := ringTake s r c
        acquireAt (t.2.modCoil x.1 x.2.1 (fun co => ((laneList x.2.2.lanes).foldl (fun co l => co.dst l 1 d t.1) co).wake x.2.2 x.2.2.lanes))
          (s.group x.1).core x.1 2
      else s
    | _ => s) s

/-- A `RINGPUT` executes afresh after its wait was withdrawn with the index it had claimed (R128, R285). -/
def ringKeep (co : Coil) (r : WaitRec) (lanes : W32) : Coil :=
  match r.wait with
  | .ringPut home off _ _ idx => co.mapLanes lanes (fun t => { t with ringIdx := some (home, off, idx) })
  | _ => co

/-- The checks common to the ring instructions, then the rest with the home group's ring (R122, R380). A header offset that is not 64-byte aligned raises
`MISALIGNED`, and a SLOTS or SLOTSZ outside the limits of R121 `ACCESS_VIOLATION`. (DESIGN CHOICE, log 69.) -/
def withRing (cx : Ctx) (s : State) (k : Ring → Res) : Res :=
  let ref := cx.a .i32 cx.low
  let h := field ref 0 19
  if field ref 19 5 ≠ 0 ∨ 2 ^ 27 ≤ ref then cx.trapAll tILLEGAL_OPERAND
  else match memberGid s (s.group cx.gid).cluster (field ref 24 3) with
    | none => cx.trapAll tACCESS_VIOLATION
    | some home =>
      if h % 64 ≠ 0 then cx.trapAll tMISALIGNED
      else if localSize s home < h + 0x540 then cx.trapAll tACCESS_VIOLATION
      else
        readLocal s home ((cx.act.map (fun l => (l, h, 0x14)))) (fun _ =>
        let r := ringRead s home h
        if r.slots = 0 ∨ 64 < r.slots ∨ r.slotsz = 0 ∨ 4096 < r.slotsz then cx.trapAll tACCESS_VIOLATION else k r)

/-- What a ring instruction reads of a slot, or of a consumer's index, without an error (R276). -/
def readSlot (cx : Ctx) (s : State) (r : Ring) (offs : List (Nat × Nat)) (k : Unit → Res) : Res :=
  readLocal s r.gid (offs.flatMap (fun o => cx.act.map (fun l => (l, r.h + o.1, o.2)))) k

def execRingput (x : XOp) (s : State) : Out :=
  .next (issue x { a := 1, b := 1 } (fun cx s =>
    let src := cx.b .i32 cx.low
    if field (cx.a .i32 cx.low) 24 3 ≠ (s.group cx.gid).clgroup then cx.trapAll tILLEGAL_OPERAND
    else withRing cx s (fun r =>
      let kept := match (cx.co.thread cx.low).ringIdx with
        | some (g, h, i) => if g = r.gid ∧ h = r.h then some i.toNat else none
        | none => none
      let i := kept.getD (putIdx s r)
      if src % 128 ≠ 0 then cx.trapAll tMISALIGNED
      else if localSize s cx.gid < src + r.slotsz ∨ !slotFits s r (ringMembers s r) (i % r.slots) then cx.trapAll tACCESS_VIOLATION
      else readSlot cx s r [(0x40 + 16 * (i % r.slots), 16)] (fun _ => withRelease cx s true 2 cx.act (fun s =>
        let s := if kept.isSome then cx.modCo s (fun co => co.mapLanes cx.actMask (fun t => { t with ringIdx := none }))
          else setLocal s r.gid (r.h + 0x10) 4 ((i + 1) % 2 ^ 32)
        if !mayPut s r i then .done (cx.wait s cx.actMask (.ringPut r.gid r.h (i % r.slots) src (BitVec.ofNat 32 i)))
        else if localBad s cx.gid src r.slotsz then .trapIn s { code := tMACHINE_CHECK, cause := cx.actMask, addrs := List.replicate 32 (BitVec.ofNat 64 src) }
        else .done (testRings (ringDeposit s r i (cellsBytes (s.group cx.gid).lmem src r.slotsz)) (s.group cx.gid).cluster))))) s)

def execRingget (x : XOp) (s : State) : Out :=
  .next (issue x { a := 1, b := 1, d := 1 } (fun cx s =>
    let c := cx.b .i32 cx.low
    if 63 < c then cx.trapAll tILLEGAL_OPERAND
    else withRing cx s (fun r =>
      if !bit r.members (s.group cx.gid).clgroup then cx.trapAll tILLEGAL_OPERAND
      else if !slotFits s r [cx.gid] (getIdx s r c % r.slots) then cx.trapAll tACCESS_VIOLATION
      else readSlot cx s r [(0x440 + 4 * c, 4), (0x40 + 16 * (getIdx s r c % r.slots), 16)] (fun _ =>
        if ringReady s r c then
          let t := ringTake s r c
          .done (acquireAt (cx.write t.2 1 (cx.act.map (fun l => (l, t.1)))) cx.k cx.gid 2)
        else .done (cx.wait s cx.actMask (.ringGet x.dst r.gid r.h c))))) s)

def execRingrel (x : XOp) (s : State) : Out :=
  .next (issue x { a := 1, b := 1, c := 1 } (fun cx s =>
    let c := cx.b .i32 cx.low
    let d := cx.cc .i32 cx.low
    if 63 < c then cx.trapAll tILLEGAL_OPERAND
    else withRing cx s (fun r =>
      let i := (d - r.base) / r.slotsz
      if d < r.base ∨ (d - r.base) % r.slotsz ≠ 0 ∨ r.slots ≤ i then cx.trapAll tILLEGAL_OPERAND
      else readSlot cx s r [(0x40 + 16 * i, 8)] (fun _ =>
        if !bit (slotMask s r i) c then cx.trapAll tILLEGAL_OPERAND
        else withRelease cx s true 2 cx.act (fun s =>
          .done (testRings (setLocal s r.gid (r.h + 0x40 + 16 * i) 8 (slotMask s r i - 2 ^ c)) (s.group cx.gid).cluster))))) s)

end Sys2Proof.Machine
end

