-- ==== Sys2Proof/Machine/Matrix.lean ====
section
/-! DEFINITION. Xamal matrix and scale instructions (R383 to R395). Issue order is engine order (R384), so each instruction's effect on streams, scale
registers and rows is applied whole as it issues; until it retires it stands in its group's queue, holds the physical scale registers that it reads, and
keeps the reads of `ZLD`, the writes of `ACDRAIN` and its long-latency results back. (DESIGN CHOICE, log 59.) -/
namespace Sys2Proof.Machine

/-! ## Fields, slots and checks -/

/-- Format X of the second word (R299). -/
structure XFields where
  st1 : Nat
  st2 : Nat
  za : Nat
  zb : Nat
  fsa : Nat
  fsb : Nat
  row : Nat
  imm8 : Nat

def xFields (x : XOp) : XFields :=
  match x.ext with
  | .x st1 st2 za zb fsa fsb row imm8 =>
    { st1 := st1.toNat, st2 := st2.toNat, za := za.toNat, zb := zb.toNat, fsa := fsa.toNat, fsb := fsb.toNat, row := row.toNat, imm8 := imm8.toNat }
  | _ => { st1 := 0, st2 := 0, za := 0, zb := 0, fsa := 0, fsb := 0, row := 0, imm8 := 0 }

/-- Fields of a format slot (R225). -/
def slotElem (w : Nat) : Nat := field w 0 5
def slotBlk (w : Nat) : Nat := field w 5 3
def slotBsf (w : Nat) : Nat := field w 8 2
def slotBand (w : Nat) : Bool := bit w 10
def slotSpar (w : Nat) : Nat := field w 11 2

/-- Element places of a group of a sparse slot (R387). -/
def sparPlaces (spar : Nat) : Nat := if spar = 1 then 4 else 2
/-- K of an element format (R386). -/
def elemK (e : Nat) : Nat := if e = 8 ∨ e = 9 then 32 else 64
/-- Bytes of a row or column of a tile (R386, R387). -/
def tileRow (slot : Nat) : Nat :=
  let e := slotElem slot
  if slotSpar slot = 0 then elemK e * fmtBits e / 8 else elemK e / 8 * sparPlaces (slotSpar slot) * fmtBits e / 8 + elemK e / 8
/-- Bytes of a tile of a stream: 128 rows of A, 256 columns of B. -/
def tileBytes (slot stream : Nat) : Nat := tileRow slot * (if stream < 2 then 128 else 256)

/-- Whether a stream, a row or a `z` register is the group's (R215, R383). -/
def streamOk (r : LaunchRec) (st : Nat) : Bool := st % 2 < r.spair
def rowOk (r : LaunchRec) (row : Nat) : Bool := row < 128 * r.accg
def zOk (r : LaunchRec) (z : Nat) : Bool := z < 4 * r.zgran

/-! ## The queue and the physical scale registers (R384, R389) -/

def State.modMx (s : State) (gid : Nat) (f : Matrix → Matrix) : State := s.modGroup gid (fun g => { g with mx := f g.mx })
/-- The physical register that a name maps to. -/
def Matrix.phys (m : Matrix) (n : Nat) : Nat := tgetD m.zmap n n
def Matrix.z_ (m : Matrix) (n : Nat) : ZReg := tgetD m.z (m.phys n) {}
/-- Whether a `ZLD` that has not been performed writes a physical register (R393). -/
def Matrix.loading (m : Matrix) (p : Nat) : Bool := m.queue.any (fun e => e.load.any (fun l => l.phys == p))
/-- Whether an issued instruction that has not retired reads a physical register, or is still to load it. -/
def Matrix.held (m : Matrix) (p : Nat) : Bool := m.queue.any (fun e => e.reads.contains p) || m.loading p
/-- The physical register that a write of a name goes to: its own, or a free spare while its own is held; a group of `zgran` granules has 8 to each. -/
def Matrix.zTarget (m : Matrix) (zgran n : Nat) : Option Nat :=
  if !m.held (m.phys n) then some (m.phys n)
  else (List.range (8 * zgran)).find? (fun p => !m.held p && (List.range (4 * zgran)).all (fun i => m.phys i ≠ p))
/-- A write of a name that goes to a physical register: the name maps to it. -/
def Matrix.setZ (m : Matrix) (n p : Nat) (z : ZReg) : Matrix := { m with z := tput m.z p z, zmap := tput m.zmap n p }

/-- Instructions that a group's matrix queue holds (R384). -/
def matrixQueue : Nat := 8

/-- What an instruction leaves in the queue besides its place: the names that it reads until it retires, the rows that it updates, its cc, its writes, its
load. -/
structure MxWork where
  reads : List Nat := []
  row : Nat := 0
  rows : Nat := 0
  cycles : Nat := 1
  drain : Option Drain := none
  load : Option ZLoad := none

/-- An instruction that has issued takes its place in the queue, and none is in its issue checks. (DESIGN CHOICE, log 59.) -/
def mxPush (s : State) (gid : Nat) (w : MxWork) : State :=
  s.modMx gid (fun m => { m with
    queue := m.queue ++ [{ order := s.cor.order, left := w.cycles, reads := w.reads.map m.phys, row := w.row, rows := w.rows, drain := w.drain, load := w.load }]
    checking := none })

/-- Whether a coil's instruction must wait for one of another coil of the group that has met a miss in its issue checks and is still there (R384).
(DEDUCED, log 19.) -/
def mxWaits (s : State) (gid c : Nat) : Bool :=
  match (s.group gid).mx.checking with
  | some (c', lanes, pc) =>
    let co := s.coil gid c'
    c' ≠ c && !co.stopped && !co.complete && (laneList lanes).all (fun l => (co.thread l).pc = pc && (co.thread l).st ≠ .exited)
  | none => false

/-- An instruction performed, with the place that it takes in the queue; it stalls while the queue has no room (R384). -/
def mxQueued (w : Ctx → State → MxWork) (body : Ctx → State → Res) (cx : Ctx) (s : State) : Res :=
  match body cx s with
  | .done t fl => .done (mxPush t cx.gid (w cx s)) fl
  | r => r

/-- The issue of a matrix instruction: room in the queue and every earlier one past its issue checks, then convergence before anything else (R215, R383,
R384), then the `z` names. The register kind that TRAPINFO shows for a `z` register is a free value (log 3). (DEDUCED, log 19.) -/
def mxIssue (x : XOp) (n : Needs) (zs : List Nat) (body : Ctx → State → Res) (s : State) (w : Ctx → State → MxWork := fun _ _ => {}) : State :=
  match s.cur with
  | .coil gid c lanes pc =>
    let next := pc + 16
    if matrixQueue ≤ (s.group gid).mx.queue.length ∨ mxWaits s gid c = true then s
    else if lanes ≠ 0xFFFFFFFF then
      raiseTrap (markIssued s gid c lanes) gid c lanes pc next { code := tILLEGAL_CONVERGENCE, cause := lanes }
    else
      let act := activeOf (s.coil gid c) x lanes
      match zs.find? (fun z => !zOk (s.launchOf gid).rec_ z) with
      | some z =>
        if act = 0 then issue x n body s
        else
          let t : TrapReq := { code := tILLEGAL_REG, cause := act, reg := z, kind := (Config.freeKind s.free).toNat % 4 }
          raiseTrap { markIssued s gid c lanes with free := s.free + 1 } gid c lanes pc next t
      | none => issueOn x (namedOf x n) (mxQueued w body) s (fun t => t.modMx gid (fun m => { m with checking := some (c, lanes, pc) }))
  | _ => s

def Ctx.rec_ (cx : Ctx) (s : State) : LaunchRec := (cx.launch s).rec_
def Ctx.mx (cx : Ctx) (s : State) : Matrix := (s.group cx.gid).mx
def Matrix.row (m : Matrix) (r : Nat) : AccRow := tgetD m.rows r {}
def Matrix.setRow (m : Matrix) (r : Nat) (a : AccRow) : Matrix := { m with rows := tput m.rows r a }
def Matrix.head (m : Matrix) (st : Nat) : Option Tile := (tgetD m.streams st []).head?
def Matrix.pop (m : Matrix) (st : Nat) : Matrix := { m with streams := tput m.streams st ((tgetD m.streams st []).drop 1) }
def AccRow.get (r : AccRow) (j : Nat) : Int := (tgetD r.m j 0).toInt
def AccRow.set (r : AccRow) (j : Nat) (v : Int) : AccRow := { r with m := tput r.m j (BitVec.ofInt 64 v) }

/-! ## Tiles and products (R386, R387, R227, R223, R231) -/

/-- The elements of a dense row or column: element k is bits [k·b + b − 1 : k·b] of the packed row (R221). -/
def denseRow (elem : Nat) (bytes : List Byte) : List XR :=
  let w := leNat bytes
  (List.range (elemK elem)).map (fun k => valueOf elem (field w (k * fmtBits elem) (fmtBits elem)))

/-- The kept places of a mask below position `i`. -/
def keptBelow (mask : Nat) : Nat → Nat
  | 0 => 0
  | i + 1 => mask / 2 ^ i % 2 + keptBelow mask i

/-- The elements of a sparse row: pruned positions are +0 (R227). -/
def sparseRow (slot : Nat) (bytes : List Byte) : List XR :=
  let e := slotElem slot
  let p := sparPlaces (slotSpar slot)
  let groups := elemK e / 8
  let w := leNat bytes
  (List.range (elemK e)).map (fun k =>
    let mask := field w (groups * p * fmtBits e + 8 * (k / 8)) 8
    if bit mask (k % 8) then valueOf e (field w ((k / 8 * p + keptBelow mask (k % 8)) * fmtBits e) (fmtBits e)) else .zero false)

/-- Bytes of row or column `i` of a tile. -/
def tileSlice (slot : Nat) (t : Tile) (i : Nat) : List Byte := (t.bytes.drop (i * tileRow slot)).take (tileRow slot)

/-- Whether a metadata byte of a sparse tile keeps more than P positions (R227, R390). -/
def badMeta (slot : Nat) (t : Tile) : Bool :=
  let e := slotElem slot
  (List.range 128).any (fun i => ((tileSlice slot t i).drop (tileRow slot - elemK e / 8)).any (fun b =>
    sparPlaces (slotSpar slot) < keptBelow b.toNat 8))

/-- `ScaleOf` of row or column `i`, block `b` (R223): 1 where the slot has no scales. -/
def scaleOf (slot : Nat) (z : ZReg) (i b : Nat) : XR :=
  if slotBsf slot = 0 then .fin (qInt 1)
  else
    let band := if slotBand slot then valueOf 8 ((z.bands[i / 64]?).getD 0).toNat else .fin (qInt 1)
    mulX (scaleValue (slotBsf slot) (cellGet z.blocks (8 * i + b)).toNat) band

/-- The scaled factors of a row or column along K. -/
def factors (slot : Nat) (z : ZReg) (i : Nat) (elems : List XR) : List XR :=
  (List.range elems.length).map (fun k => mulX ((elems[k]?).getD (.zero false)) (scaleOf slot z i (k / 8)))

/-- `AccStep` of one row over the 256 columns (R232). -/
def accRow (r : AccRow) (a : List XR) (cols : List (List XR)) : AccRow :=
  (List.range cols.length).foldl (fun r j =>
    let ps := (a.zip ((cols[j]?).getD [])).map (fun p => mulX p.1 p.2)
    let v := accStep r.ae r.ag.toNat (r.get j) ps
    { r.set j v.1 with ag := BitVec.ofNat 16 v.2 }) r

/-- The engine's work for `MMA` and `MMAS` (R390). -/
def mmaRows (m : Matrix) (row : Nat) (sa : Nat) (za : ZReg) (ta : Tile) (sb : Nat) (zb : ZReg) (tb : Tile) : Matrix :=
  let cols := (List.range 256).map (fun j => factors sb zb j (denseRow (slotElem sb) (tileSlice sb tb j)))
  (List.range 128).foldl (fun m i =>
    let bytes := tileSlice sa ta i
    let a := factors sa za i (if slotSpar sa = 0 then denseRow (slotElem sa) bytes else sparseRow sa bytes)
    m.setRow (row + i) (accRow (m.row (row + i)) a cols)) m

/-- A head tile whose binding differs from its scale register's (R390). -/
def staleTile (t : Tile) (m : Matrix) (z fs : Nat) : Bool :=
  t.slot.toNat ≠ fs || (z ≠ 63 && ((m.z_ z).tag ≠ t.tag || (m.z_ z).slot.toNat ≠ fs))

/-- The rows from `row` on, `n` of them, that hold an uncorrectable error (R276). -/
def badRows (m : Matrix) (row n : Nat) : Bool := (List.range n).any (fun i => (m.row (row + i)).bad)
/-- Whether a name that is not `zn` holds one. -/
def badZ (m : Matrix) (z : Nat) : Bool := z ≠ 63 && (m.z_ z).bad
/-- Whether a name that is not `zn` has still to be loaded: an instruction that reads it waits for that. (DESIGN CHOICE, log 59.) -/
def zUnread (m : Matrix) (z : Nat) : Bool := z ≠ 63 && m.loading (m.phys z)

/-- The operand checks of `MMA` and `MMAS` (R226, R383, R390). -/
def mmaOperands (r : LaunchRec) (sparse : Bool) (f : XFields) (sa sb : Nat) : Bool :=
  let scale (slot z : Nat) : Bool := (slotBsf slot == 0) == (z == 63)
  streamOk r f.st1 && streamOk r f.st2 && rowOk r (f.row + 127) && slotElem sa ≠ 10 && slotElem sb ≠ 10
    && elemK (slotElem sa) == elemK (slotElem sb) && slotSpar sb == 0 && (slotSpar sa ≠ 0) == sparse && scale sa f.za && scale sb f.zb

def mmaBody (sparse : Bool) (cx : Ctx) (s : State) : Res :=
  let f := xFields cx.x
  let sa := cx.slot s f.fsa
  let sb := cx.slot s f.fsb
  let m := cx.mx s
  if !mmaOperands (cx.rec_ s) sparse f sa sb then cx.trapAll tILLEGAL_OPERAND
  else match m.head f.st1, m.head f.st2 with
    | some ta, some tb =>
      if staleTile ta m f.za f.fsa || staleTile tb m f.zb f.fsb then cx.trapAll tSTALE_BINDING
      else if zUnread m f.za || zUnread m f.zb then .stall
      else if ta.bad || tb.bad || badZ m f.za || badZ m f.zb || badRows m f.row 128 then cx.trapAll tMACHINE_CHECK
      else if sparse && badMeta sa ta then cx.trapAll tSPARSE_META
      else .done (s.modMx cx.gid (fun m => mmaRows ((m.pop f.st1).pop f.st2) f.row sa (m.z_ f.za) ta sb (m.z_ f.zb) tb))
    | _, _ => .stall

/-- The `z` registers that a multiplication names; 0x3F is `zn`. -/
def mmaZ (x : XOp) : List Nat := [(xFields x).za, (xFields x).zb].filter (· ≠ 63)

/-- Cycles of a format in the column of `MMA` or of `MMAS` (R386). -/
def mmaCycles (sparse : Bool) (elem : Nat) : Nat := (if elem = 0 ∨ elem = 5 then 64 else 128) / (if sparse then 2 else 1)

/-- A multiplication in the engine: it reads its scale registers until it retires (R386, R389). -/
def mmaWork (sparse : Bool) (cx : Ctx) (s : State) : MxWork :=
  let f := xFields cx.x
  { reads := mmaZ cx.x, row := f.row, rows := 128
    cycles := max (mmaCycles sparse (slotElem (cx.slot s f.fsa))) (mmaCycles sparse (slotElem (cx.slot s f.fsb))) }

def execMma (x : XOp) (s : State) : Out := .next (mxIssue x {} (mmaZ x) (mmaBody false) s (mmaWork false))
def execMmas (x : XOp) (s : State) : Out := .next (mxIssue x {} (mmaZ x) (mmaBody true) s (mmaWork true))

/-! ## Accumulator (R391, R392) -/

/-- A lane form on row ROW + t: the rows are the group's, and the operands of every active lane lie within limits. -/
def laneRows (cx : Ctx) (s : State) (ok : Nat → Bool) (k : Unit → Res) : Res :=
  let bad := cx.act.filter (fun t => !(rowOk (cx.rec_ s) ((xFields cx.x).row + t) && ok t))
  if bad.isEmpty then k () else cx.trapSome tILLEGAL_OPERAND bad

/-- A lane form that reads its rows: an uncorrectable error in one is raised on the issue group (R276). -/
def readRows (cx : Ctx) (s : State) (ok : Nat → Bool) (k : Unit → Res) : Res :=
  laneRows cx s ok (fun _ => if cx.act.any (fun t => ((cx.mx s).row ((xFields cx.x).row + t)).bad) then cx.trapAll tMACHINE_CHECK else k ())

/-- The rows that a lane form updates. -/
def laneWork (cx : Ctx) (_ : State) : MxWork := { row := (xFields cx.x).row, rows := 32 }

/-- A long-latency result of lanes that lands once the engine has performed the instruction (R204, R391). -/
def Ctx.laterMx (cx : Ctx) (s : State) (w : Nat) (vals : List (Nat × Nat)) : State :=
  cx.modCo s (fun co =>
    let regs := vals.flatMap (fun v => landWords (dstRegs cx.x.dst w v.1) v.2)
    { co.markEmpty (regs.map (·.1)) with landings := co.landings ++ [{ regs, mx := some s.cor.order }] })

/-- Rows of the active lanes changed. -/
def modRows (cx : Ctx) (s : State) (f : Nat → AccRow → AccRow) : State :=
  s.modMx cx.gid (fun m => cx.act.foldl (fun m t => m.setRow ((xFields cx.x).row + t) (f t (m.row ((xFields cx.x).row + t)))) m)

def execAcinit (x : XOp) (s : State) : Out :=
  .next (mxIssue x { a := 1 } [] (fun cx s =>
    let ae (t : Nat) : Int := sext (cx.a .i32 t) 32
    laneRows cx s (fun t => -32768 ≤ ae t && ae t ≤ 32767) (fun _ => .done (modRows cx s (fun t _ => { ae := ae t })))) s laneWork)

/-- `Renorm` (R234). -/
def renorm (r : AccRow) (target : Nat) : AccRow :=
  let ms := (List.range 256).map r.get
  let sh := renormShift ms target 64 0
  if 32767 < r.ae + sh then { r with ag := r.ag ||| 1 }
  else { (List.range 256).foldl (fun q j => q.set j (qRne ⟨r.get j, 2 ^ sh⟩)) r with ae := r.ae + sh }

def execAcnorm (x : XOp) (s : State) : Out :=
  .next (mxIssue x {} [] (fun cx s =>
    let target := (xFields x).imm8
    readRows cx s (fun _ => 32 ≤ target && target ≤ 62) (fun _ => .done (modRows cx s (fun _ r => renorm r target)))) s laneWork)

/-- The column operand of a lane, in 0 to 255. -/
def column (cx : Ctx) (t : Nat) : Nat := cx.b .i32 t

def execAcload (x : XOp) (s : State) : Out :=
  .next (mxIssue x { a := 2, b := 1 } [] (fun cx s =>
    laneRows cx s (fun t => column cx t < 256) (fun _ =>
      .done (modRows cx s (fun t r => r.set (column cx t) (sext (cx.a .i64 t) 64))))) s laneWork)

def execAcrd (x : XOp) (s : State) : Out :=
  .next (mxIssue x { b := 1, d := 2 } [] (fun cx s =>
    readRows cx s (fun t => column cx t < 256) (fun _ =>
      .done (cx.laterMx s 2 (cx.act.map (fun t => (t, wrap (((cx.mx s).row ((xFields x).row + t)).get (column cx t)) 64)))))) s)

def execAcguard (x : XOp) (s : State) : Out :=
  .next (mxIssue x { d := 1 } [] (fun cx s =>
    readRows cx s (fun _ => true) (fun _ =>
      .done (cx.laterMx s 1 (cx.act.map (fun t =>
        let r := (cx.mx s).row ((xFields x).row + t)
        (t, wrap r.ae 16 + r.ag.toNat * 2 ^ 16)))))) s)

/-- The destination format of `ACDRAIN` (R304) and its bytes. -/
def drainFmt (x : XOp) : Nat := match x.fn.toNat % 8 with | 0 => 10 | 1 => 8 | 2 => 9 | 3 => 3 | _ => 4

/-- A translation that a drain found at its issue, in its table of pages. -/
def drainLook (pages : Tab Nat) (vpn : Nat) : Look := match tget pages vpn with | some l => .hit l | none => .miss

/-- The pages of a drain's rows, and the second page of each publishable one, with the translations that its issue check found (R264, R392). -/
def drainPages (cx : Ctx) (s : State) (ends : List Nat) : Tab Nat :=
  let asid := s.asidOf cx.gid
  ends.foldl (fun t a =>
    match lookCore s cx.k asid (a / 4096) with
    | .hit l =>
      let t := tput t (a / 4096) l
      match if leafPub l = 0 then none else pubEntry s asid (leafPub l) with
      | some e => (match lookCore s cx.k asid ((a + e.shift) % 2 ^ 57 / 4096) with | .hit l2 => tput t ((a + e.shift) % 2 ^ 57 / 4096) l2 | _ => t)
      | none => t
    | _ => t) []

/-- The writes of a drain in their order, each at `GROUP` scope to the backing that is inactive as it is performed (R263, R265, R392). -/
def drainWrites (s : State) (gid : Nat) (d : Drain) : State :=
  let asid := s.asidOf gid
  d.vals.foldl (fun t v =>
    match translate t (drainLook d.pages) asid v.1 true false .inactive with
    | .ok pa l => storeBytes t (s.group gid).core l 1 pa (leBytes d.size v.2)
    | _ => t) s

/-- Whether an instruction in the queue updates one of the rows from `row` on, `n` of them. -/
def rowsPending (m : Matrix) (row n : Nat) : Bool := m.queue.any (fun e => decide (e.row < row + n ∧ row < e.row + e.rows))

/-- The values of a drain with their addresses and flags, in the order of the writes (R235, R392). -/
def drainVals (cx : Ctx) (s : State) (a : Nat) (b : Int) (n : Nat) : List (Nat × Nat × Flags) :=
  let f := xFields cx.x
  let c := drainFmt cx.x
  (List.range n).flatMap (fun (i : Nat) => (List.range 256).map (fun (j : Nat) =>
    let row := (cx.mx s).row (f.row + i)
    (wrap ((a : Int) + (i : Int) * b + (j * (fmtBits c / 8) : Nat)) 64, drainValue row.ae row.ag.toNat (row.get j) c (bit cx.x.fn.toNat 3))))

/-- The ends of a drain's rows in memory: no row is longer than a page. -/
def drainEnds (a : Nat) (b : Int) (n e : Nat) : List Nat :=
  a :: (List.range n).flatMap (fun (i : Nat) => [wrap ((a : Int) + (i : Int) * b) 64, wrap ((a : Int) + (i : Int) * b + (255 * e : Nat)) 64])

/-- The flags of a drain (R235). -/
def drainFlags (vals : List (Nat × Nat × Flags)) : Flags := vals.foldl (fun m v => m ||| v.2.2) 0

/-- What a drain leaves to the engine: its values come from the rows as the instructions before it leave them; while one of these has still to update its
rows, the coil's flags wait too (R384, R392). -/
def drainWork (cx : Ctx) (s : State) : MxWork :=
  let e := fmtBits (drainFmt cx.x) / 8
  let n := cx.cc .i32 cx.low
  let a := cx.a .i64 cx.low
  let b := sext (cx.b .i32 cx.low) 32
  let vals := drainVals cx s a b n
  let row := (xFields cx.x).row
  { drain := some {
      coil := cx.c, tag := (xFields cx.x).imm8, size := e, pages := drainPages cx s (drainEnds a b n e), vals := vals.map (fun v => (v.1, v.2.1))
      rows := (row, n), forming := if rowsPending (cx.mx s) row n then some (cx.lanes, cx.next, drainFlags vals) else none } }

def execAcdrain (x : XOp) (s : State) : Out :=
  .next (mxIssue x { a := 2, b := 1, c := 1 } [] (fun cx s =>
    let f := xFields x
    let e := fmtBits (drainFmt x) / 8
    let n := cx.cc .i32 cx.low
    let a := cx.a .i64 cx.low
    let b := sext (cx.b .i32 cx.low) 32
    if n = 0 ∨ 512 < n ∨ !rowOk (cx.rec_ s) (f.row + n - 1) then cx.trapAll tILLEGAL_OPERAND
    else if b % (e : Int) ≠ 0 then accessTrap tMISALIGNED true [(cx.low, a)] [cx.low]
    else
      let ends := (drainEnds a b n e).map (fun v => (cx.low, v))
      checkGlobal cx s ends e true .active (fun _ => checkGlobal cx s ends e true .inactive (fun _ =>
        if badRows (cx.mx s) f.row n then cx.trapAll tMACHINE_CHECK
        else
          let s' := tagKick s cx.gid f.imm8
          if rowsPending (cx.mx s) f.row n then .done (cx.modCo s' (fun co => { co with drainHeld := true }))
          else
            let fl := drainFlags (drainVals cx s a b n)
            .done s' ((List.range 32).map (fun t => (t, fl)))))) s drainWork)

/-! ## The bytes of a scale register (R388, R393) -/

/-- Rows or columns of a side, and its bands: A 128 and 2, B 256 and 4. -/
def sideRows (side : Nat) : Nat := if side = 0 then 128 else 256
def sideBands (side : Nat) : Nat := if side = 0 then 2 else 4

def cellsOf (bs : List Byte) : Cells := cellsWrite [] 0 bs
def bf16One : W16 := 0x3F80
def bandBytes (b : List W16) : List Byte := b.flatMap (fun w => leBytes 2 w.toNat)
def bandsOf (bs : List Byte) : List W16 := (List.range 4).map (fun i => BitVec.ofNat 16 (leNat ((bs.drop (2 * i)).take 2)))

/-- The register that `ZLD` (or the scale half of a `SCALESPLIT`) writes from source bytes (R393). -/
def zLoaded (slot side : Nat) (tag : BitVec 12) (fs : BitVec 3) (bytes : List Byte) : ZReg :=
  let full := 8 * sideRows side
  let nb := if slotBlk slot = 3 then full / 4 else full
  let blocks := if slotBlk slot = 3 then (bytes.take nb).flatMap (fun b => [b, b, b, b]) else bytes.take nb
  let bands := bandsOf (bytes.drop nb)
  let read := if slotBand slot then sideBands side else 0
  { blocks := cellsOf blocks, bands := bands.take read ++ List.replicate (4 - read) bf16One, tag, slot := fs }

/-! ## The engine (R384, R386) -/

/-- The oldest issued instruction of a core's groups that has not retired. -/
def mxNext (s : State) (k : Nat) : Option (Nat × MxEntry) :=
  (s.cor.groups.filterMap (fun (e : Nat × Group) => if e.2.core = k then e.2.mx.queue.head?.map (fun q => (e.1, q)) else none)).foldl
    (fun b q => match b with | some p => if q.2.order < p.2.order then some q else b | none => some q) none

/-- A drain's values have been formed: its coil goes on with the flags recorded, and `FP_EXCEPTION` comes after it (R230, R392). -/
def drainFormed (s : State) (gid c : Nat) (f : W32 × W64 × BitVec 5) : State :=
  let s := s.modCoil gid c (fun co => { co.mapLanes f.1 (fun t => { t with fpstat := t.fpstat ||| f.2.2 }) with drainHeld := false })
  let t := trapLanes (s.coil gid c) ((laneList f.1).map (fun l => (l, f.2.2)))
  if t = 0 then s else raiseTrap s gid c f.1 (f.2.1 - 16) f.2.1 { code := tFP_EXCEPTION, cause := t }

/-- The first drain in a group's queue whose flags wait although nothing before it has still to update its rows. -/
def drainReady (m : Matrix) : Option (MxEntry × Drain × (W32 × W64 × BitVec 5)) :=
  (List.range m.queue.length).findSome? (fun i => m.queue[i]?.bind (fun e => e.drain.bind (fun d => d.forming.bind (fun f =>
    if rowsPending { m with queue := m.queue.take i } d.rows.1 d.rows.2 then none else some (e, d, f)))))

/-- The drains of a group whose values have been formed by now, each coil's at most one. -/
def drainsFormed : Nat → State → Nat → State
  | 0, s, _ => s
  | n + 1, s, gid =>
    match drainReady (s.group gid).mx with
    | some (e, d, f) =>
      let s := s.modMx gid (fun m => { m with queue := m.queue.map (fun q => if q = e then { e with drain := some { d with forming := none } } else q) })
      drainsFormed n (drainFormed s gid d.coil f) gid
    | none => s

/-- A `ZLD` performed: it reads memory now, and an uncorrectable error there stands in the register (R27, R393). (DEDUCED, log 19.) -/
def zPerform (s : State) (gid : Nat) (l : ZLoad) : State :=
  let k := (s.group gid).core
  let bytes := l.pieces.flatMap (fun p => loadBytes s k p.2 1 p.1 16)
  let bad := l.pieces.any (fun p => loadBad s k p.2 1 p.1 16)
  let s := l.pieces.foldl (fun s p => loadNote s k p.2 1 p.1 16) s
  s.modMx gid (fun m => { m with z := tput m.z l.phys { zLoaded l.slot l.side l.tag l.fs bytes with bad } })

/-- A cc of a core's matrix engine: the oldest instruction comes a cycle nearer to its retirement; as it retires its load and its writes are performed, its
tag completes at `GROUP` scope, and the drains that waited for its rows have their values (R212, R384, R392, R393). -/
def matrixTurn (s : State) (k : Nat) : State :=
  match mxNext s k with
  | some (gid, e) =>
    if 1 < e.left then s.modMx gid (fun m => { m with queue := { e with left := e.left - 1 } :: m.queue.drop 1 })
    else
      let s := s.modMx gid (fun m => { m with queue := m.queue.drop 1 })
      let s := match e.load with | some l => zPerform s gid l | none => s
      let s := match e.drain with | some d => tagDone (drainWrites s gid d) gid d.tag 1 | none => s
      drainsFormed matrixQueue s gid
  | none => s

/-! ## Scale registers (R388, R389, R393, R394) -/

/-- The addresses of the 16-byte pieces of an access of a scale register to memory. -/
def zPieces (cx : Ctx) (n : Nat) : List Nat := (List.range ((n + 15) / 16)).map (fun i => cx.a .i64 cx.low + 16 * i)

/-- An access of a scale register to memory: its pieces are checked. -/
def zAccess (cx : Ctx) (s : State) (n : Nat) (write : Bool) (k : Accesses → Res) : Res :=
  checkGlobal cx s ((zPieces cx n).map (fun a => (cx.low, a))) 16 write .active k

/-- A name read: it is loaded first (log 59), and an uncorrectable error in its register is raised on the issue group (R276). -/
def zRead (cx : Ctx) (s : State) (z : Nat) (k : ZReg → Res) : Res :=
  if zUnread (cx.mx s) z then .stall
  else if badZ (cx.mx s) z then cx.trapAll tMACHINE_CHECK
  else k ((cx.mx s).z_ z)

/-- A name written, in its own physical register or a spare; with none free the instruction stalls (R389). -/
def zWrite (cx : Ctx) (s : State) (z : Nat) (v : ZReg) : Res :=
  match (cx.mx s).zTarget (cx.rec_ s).zgran z with
  | some p => .done (s.modMx cx.gid (fun m => m.setZ z p v))
  | none => .stall

/-- What an instruction that reads the register of ZA until it is performed leaves in the queue (R389). -/
def zWork (cx : Ctx) (_ : State) : MxWork := { reads := [(xFields cx.x).za] }

/-- The bytes of pieces of 16 as core `k` reads them at `GROUP` scope. -/
def readPieces (s : State) (k : Nat) (acc : Accesses) : List Byte := acc.flatMap (fun p => loadBytes s k p.2.2 1 p.2.1 16)
/-- Bytes written to pieces of 16 at `GROUP` scope. -/
def writePieces (s : State) (k : Nat) : Accesses → List Byte → State
  | [], _ => s
  | p :: t, bs => writePieces (storeBytes s k p.2.2 1 p.2.1 (bs.take 16)) k t (bs.drop 16)

/-- Bytes that a `ZLD` reads through a slot (R393). -/
def zldBytes (slot side : Nat) : Nat := 8 * sideRows side / (if slotBlk slot = 3 then 4 else 1) + (if slotBand slot then 2 * sideBands side else 0)

/-- What a `ZLD` leaves to the engine: the physical register, and the pieces with their translations (R393). -/
def zldWork (cx : Ctx) (s : State) : MxWork :=
  let f := xFields cx.x
  let slot := cx.slot s f.fsa
  let asid := s.asidOf cx.gid
  let as_ := zPieces cx (zldBytes slot f.imm8)
  { load := some {
      phys := ((cx.mx s).zTarget (cx.rec_ s).zgran f.za).getD 0, slot, side := f.imm8, tag := BitVec.ofNat 12 (cx.b .i32 cx.low), fs := BitVec.ofNat 3 f.fsa
      pieces := as_.filterMap (fun a => match translate s (lookCore s cx.k asid) asid a false false .active with | .ok pa l => some (pa, l) | _ => none)
      pages := (as_.flatMap (pagesOf s (lookCore s cx.k asid) asid)).eraseDups } }

/-- `ZLD` binds the register to the tag and the slot as it issues; its bytes come as it is performed (R393). (DESIGN CHOICE, log 59.) -/
def execZld (x : XOp) (s : State) : Out :=
  let f := xFields x
  .next (mxIssue x { a := 2, b := 1 } [f.za] (fun cx s =>
    let slot := cx.slot s f.fsa
    let tag := cx.b .i32 cx.low
    if slotBsf slot = 0 ∨ 4095 < tag then cx.trapAll tILLEGAL_OPERAND
    else zAccess cx s (zldBytes slot f.imm8) false (fun _ =>
      zWrite cx s f.za { tag := BitVec.ofNat 12 tag, slot := BitVec.ofNat 3 f.fsa })) s zldWork)

/-- Whether an instruction in a queue has still to read or write memory. -/
def Matrix.memoryPending (m : Matrix) : Bool := m.queue.any (fun e => e.load.isSome || e.drain.isSome)

/-- A register stored: every earlier access of the group's queue to memory comes first (R384). (DESIGN CHOICE, log 59.) -/
def zStore (cx : Ctx) (s : State) (bytes : List Byte) : Res :=
  zAccess cx s bytes.length true (fun acc => if (cx.mx s).memoryPending then .stall else .done (writePieces s cx.k acc bytes))

def execZst (x : XOp) (s : State) : Out :=
  let f := xFields x
  .next (mxIssue x { a := 2 } [f.za] (fun cx s => zRead cx s f.za (fun z =>
    zStore cx s (cellsBytes z.blocks 0 (8 * sideRows f.imm8) ++ bandBytes (z.bands.take (sideBands f.imm8))))) s zWork)

def execZsave (x : XOp) (s : State) : Out :=
  let f := xFields x
  .next (mxIssue x { a := 2 } [f.za] (fun cx s => zRead cx s f.za (fun z =>
    zStore cx s (cellsBytes z.blocks 0 2048 ++ bandBytes z.bands ++ leBytes 8 (z.tag.toNat + z.slot.toNat * 2 ^ 12)))) s zWork)

/-- `ZREST` issues once the group's queue is empty, so that it reads memory as it is performed and can still trap (R393). (DESIGN CHOICE, log 59.) -/
def execZrest (x : XOp) (s : State) : Out :=
  let f := xFields x
  .next (mxIssue x { a := 2 } [f.za] (fun cx s =>
    zAccess cx s 2064 false (fun acc =>
      let bytes := readPieces s cx.k acc
      let w := leNat (bytes.drop 2056)
      if !(cx.mx s).queue.isEmpty then .stall
      else match ((zPieces cx 2064).zip acc).find? (fun p => loadBad s cx.k p.2.2.2 1 p.2.2.1 16) with
      | some p => accessTrap tMACHINE_CHECK false [(cx.low, p.1)] [cx.low]
      | none =>
      if 2 ^ 15 ≤ w then cx.trapAll tILLEGAL_OPERAND
      else zWrite cx (acc.foldl (fun s p => loadNote s cx.k p.2.2 1 p.2.1 16) s) f.za
        { blocks := cellsOf (bytes.take 2048), bands := bandsOf ((bytes.drop 2048).take 8), tag := BitVec.ofNat 12 w, slot := BitVec.ofNat 3 (w / 2 ^ 12) })) s)

/-- Bands named by a mask changed. -/
def modBands (z : ZReg) (mask : Nat) (f : W16 → W16) : ZReg :=
  { z with bands := (List.range 4).map (fun i => let b := (z.bands[i]?).getD 0; if bit mask i then f b else b) }

/-- Band × 2^a (R394); exponents beyond ±600 reach the same bounds. -/
def bandMulP2 (a : Int) (b : W16) : W16 :=
  BitVec.ofNat 16 (narrow 8 (mulX (valueOf 8 b.toNat) (.fin (pow2 (max (-600) (min 600 a))))) 0 false 0).1
/-- Band × a BF16 factor (R394). -/
def bandMul (a : Nat) (b : W16) : W16 := BitVec.ofNat 16 (narrow 8 (mulX (valueOf 8 b.toNat) (valueOf 8 a)) 0 false 0).1

def execZmulp2 (x : XOp) (s : State) : Out :=
  let f := xFields x
  .next (mxIssue x { a := 1, b := 1 } [f.za] (fun cx s =>
    let mask := cx.b .i32 cx.low
    if 15 < mask then cx.trapAll tILLEGAL_OPERAND
    else zRead cx s f.za (fun z => zWrite cx s f.za (modBands z mask (bandMulP2 (sext (cx.a .i32 cx.low) 32))))) s)

def execZmulb (x : XOp) (s : State) : Out :=
  let f := xFields x
  .next (mxIssue x { a := 1, b := 1 } [f.za] (fun cx s =>
    let mask := cx.b .i32 cx.low
    let a := cx.a .i32 cx.low
    if 15 < mask ∨ 0xFFFF < a then cx.trapAll tILLEGAL_OPERAND
    else zRead cx s f.za (fun z => zWrite cx s f.za (modBands z mask (bandMul a)))) s)

/-- The block codes of a band: 512 bytes (R388). -/
def bandCodes (z : ZReg) (i : Nat) : List Nat := (cellsBytes z.blocks (512 * i) 512).map (·.toNat)

/-- `E8M0ToE3M5Band` on one band of a register (R224, R394). -/
def convertBand (z : ZReg) (i : Nat) : ZReg :=
  let r := e8m0Band (bandCodes z i) ((z.bands[i]?).getD 0).toNat
  { z with blocks := cellsWrite z.blocks (512 * i) (r.1.map (BitVec.ofNat 8)), bands := z.bands.set i (BitVec.ofNat 16 r.2) }

def execZcvt (x : XOp) (s : State) : Out :=
  let f := xFields x
  .next (mxIssue x {} [f.za] (fun cx s =>
    let z := (cx.mx s).z_ f.za
    let old := cx.slot s z.slot.toNat
    let new := cx.slot s f.fsa
    if slotBsf old ≠ 2 ∨ slotBsf new ≠ 1 ∨ !slotBand new ∨ slotElem old ≠ slotElem new ∨ slotBlk old ≠ slotBlk new ∨ slotSpar old ≠ slotSpar new then
      cx.trapAll tILLEGAL_OPERAND
    else zRead cx s f.za (fun z => zWrite cx s f.za { (List.range (sideBands f.imm8)).foldl convertBand z with slot := BitVec.ofNat 3 f.fsa })) s)

/-- The larger of two values; of equal zeros, +0 (R236); a NaN stays. (DEDUCED, log 19.) -/
def xMax (a b : XR) : XR :=
  if xIsNan a then a else if xIsNan b then b else if xCmp a b < 0 then b else if xCmp a b = 0 ∧ xNeg a then b else a

def execZmax (x : XOp) (s : State) : Out :=
  let f := xFields x
  .next (mxIssue x { d := 1 } [f.za] (fun cx s =>
    let z := (cx.mx s).z_ f.za
    let slot := cx.slot s z.slot.toNat
    if slotBsf slot = 0 then cx.trapAll tILLEGAL_OPERAND
    else zRead cx s f.za (fun z =>
      let all := (List.range (sideRows f.imm8)).flatMap (fun i => (List.range 8).map (scaleOf slot z i))
      let v := (narrow 10 (all.foldl xMax (.inf true)) 0 false 0).1
      .done (cx.laterMx s 1 (cx.act.map (fun t => (t, v)))))) s zWork)

/-- A slot with BSF = 0 may follow one with BSF = 0: R394 limits only the change. (DESIGN CHOICE, log 67.) -/
def execZtag (x : XOp) (s : State) : Out :=
  let f := xFields x
  .next (mxIssue x { a := 1 } [f.za] (fun cx s =>
    let z := (cx.mx s).z_ f.za
    let old := cx.slot s z.slot.toNat
    let new := cx.slot s f.fsa
    let tag := cx.a .i32 cx.low
    if 4095 < tag ∨ slotBsf old ≠ slotBsf new ∨ slotBlk old ≠ slotBlk new then cx.trapAll tILLEGAL_OPERAND
    else zRead cx s f.za (fun z => zWrite cx s f.za { z with tag := BitVec.ofNat 12 tag, slot := BitVec.ofNat 3 f.fsa })) s)

/-- A scale register as 514 words (R394). -/
def zWord (z : ZReg) (w : Nat) : Nat :=
  if w < 512 then leNat (cellsBytes z.blocks (4 * w) 4)
  else ((z.bands[2 * (w - 512)]?).getD 0).toNat + ((z.bands[2 * (w - 512) + 1]?).getD 0).toNat * 2 ^ 16
def zPutWord (z : ZReg) (w v : Nat) : ZReg :=
  if w < 512 then { z with blocks := cellsWrite z.blocks (4 * w) (leBytes 4 v) }
  else { z with bands := (z.bands.set (2 * (w - 512)) (BitVec.ofNat 16 v)).set (2 * (w - 512) + 1) (BitVec.ofNat 16 (v / 2 ^ 16)) }

def execZmovR (x : XOp) (s : State) : Out :=
  let f := xFields x
  .next (mxIssue x { b := 1, d := 1 } [f.za] (fun cx s =>
    let b := cx.b .i32 cx.low
    if 482 < b then cx.trapAll tILLEGAL_OPERAND
    else zRead cx s f.za (fun z => .done (cx.write s 1 (cx.act.map (fun t => (t, zWord z (b + t))))))) s zWork)

def execZmovW (x : XOp) (s : State) : Out :=
  let f := xFields x
  .next (mxIssue x { a := 1, b := 1 } [f.za] (fun cx s =>
    let b := cx.b .i32 cx.low
    if 482 < b then cx.trapAll tILLEGAL_OPERAND
    else zRead cx s f.za (fun z => zWrite cx s f.za (cx.act.foldl (fun z t => zPutWord z (b + t) (cx.a .i32 t)) z))) s)

/-! ## Streams (R395) -/

def execSpop (x : XOp) (s : State) : Out :=
  let f := xFields x
  .next (mxIssue x {} [] (fun cx s =>
    if !streamOk (cx.rec_ s) f.st1 ∨ ((cx.mx s).head f.st1).isNone then cx.trapAll tILLEGAL_OPERAND
    else .done (s.modMx cx.gid (fun m => m.pop f.st1))) s)

def execSqry (x : XOp) (s : State) : Out :=
  let f := xFields x
  .next (mxIssue x { d := 1 } [] (fun cx s =>
    if !streamOk (cx.rec_ s) f.st1 then cx.trapAll tILLEGAL_OPERAND
    else
      let v := match (cx.mx s).head f.st1 with
        | some t => (tgetD (cx.mx s).streams f.st1 []).length + t.tag.toNat * 2 ^ 4 + t.slot.toNat * 2 ^ 16
        | none => 0
      .done (cx.write s 1 (cx.act.map (fun t => (t, v))))) s)

end Sys2Proof.Machine
end

