-- ==== Sys2Proof/Machine/CoreEvents.lean ====
section
/-! DEFINITION. Events of a core: results that land, timers and watchdogs, ordered-section grants, the SC wheel, the sweep of dirty lines and
load-block fills (R198, R200, R204, R255, R258, R282, R321, R360, R370, R373). -/
namespace Sys2Proof.Machine

/-! ## Results that land (R204, R276) -/

/-- A register of a coil marked full with a value. -/
def Coil.landReg (co : Coil) (r : (Bool × Nat × Nat) × W32) : Coil :=
  if r.1.1 then { co with s := tput co.s r.1.2.1 r.2, sEmpty := co.sEmpty.erase r.1.2.1 }
  else { co with v := tput co.v (r.1.2.1 * 32 + r.1.2.2) r.2, vEmpty := co.vEmpty.erase (r.1.2.1 * 32 + r.1.2.2) }

/-- A register left empty with an error pending, and the address that it came from. -/
def Coil.badReg (co : Coil) (addr : W64) (r : (Bool × Nat × Nat) × W32) : Coil :=
  let k := if r.1.1 then 8192 + r.1.2.1 else r.1.2.1 * 32 + r.1.2.2
  { co with bad := co.bad ++ [k], badAt := tput co.badAt k addr }

/-- The oldest long-latency result of a coil lands. -/
def landFirst (co : Coil) : Coil :=
  match co.landings with
  | [] => co
  | l :: t => { l.regs.foldl (fun co r => if l.bad then co.badReg l.addr r else co.landReg r) co with landings := t }

def execLongLatencyLand (gid coil : Nat) (s : State) : Out := .next (settleCoil (s.modCoil gid coil landFirst) gid coil)

/-! ## Fairness, watchdog and sleep (R198, R200, R321) -/

/-- FAIRTIME in issue slots: 0 stands for 65,536 (R207). -/
def fairSlots (co : Coil) : Nat := if co.fairtime = 0 then 65536 else co.fairtime

def execFairnessTimerExpiry (gid coil : Nat) (s : State) : Out :=
  let co := s.coil gid coil
  .next (if (s.launchOf gid).rec_.fair ∧ fairSlots co ≤ co.stickyCount then s.modCoil gid coil (fun co => { co with turnOver := true }) else s)

/-- Accesses of lanes of a coil no longer wait on a page, the read of a task's loop record apart; an entry whose record is posted stays until its replay (R277). -/
def leaveFaults (s : State) (gid c : Nat) (lanes : W32) : State :=
  let drop (a : Attached) : Option Attached := match a with
    | .coil g d l pc => if g = gid ∧ d = c ∧ l ≠ 0 then (let r := l &&& ~~~lanes; if r = 0 then none else some (.coil g d r pc)) else some a
    | _ => some a
  let merge := s.xlat.merge.map (fun (e : Nat × Merge) => (e.1, { e.2 with att := e.2.att.filterMap drop }))
  { s with xlat := { s.xlat with merge := merge.filter (fun e => e.2.posted || !e.2.att.isEmpty) } }

/-- Every explicit wait of lanes of a coil withdrawn: no arrival, no claim, no place in a queue is left, but a `RINGPUT` keeps its index (R285). -/
def withdrawWaits (s : State) (gid c : Nat) (lanes : W32) : State :=
  let co := s.coil gid c
  let mine := co.waits.filter (fun r => r.lanes &&& lanes ≠ 0)
  let s := if mine.any (fun r => match r.wait with | .os _ _ _ _ => true | _ => false) then
    (laneList lanes).foldl (fun s l => forgetRequests s gid c l) s else s
  let s := if mine.any (fun r => r.wait = .cbar) then s.modGroup gid (fun g => { g with cbarAt := none }) else s
  let s := leaveFaults s gid c lanes
  s.modCoil gid c (fun co =>
    let co := mine.foldl (fun co r =>
      let co := ringKeep co r (r.lanes &&& lanes)
      match r.wait with
      | .mwait m => co.setMask m { co.mask m with arrival := (co.mask m).arrival &&& ~~~lanes }
      | _ => co) co
    { co.mapLanes lanes (fun t => if t.st = .waiting then { t with st := .runnable } else t) with
      waits := co.waits.filterMap (fun r => let l := r.lanes &&& ~~~lanes; if l = 0 then none else some { r with lanes := l }) })

/-- Lanes whose WDOG count has reached N (R200). -/
def watchdogLanes (s : State) (gid c : Nat) : List Nat :=
  let co := s.coil gid c
  let g := s.group gid
  let n := (s.launchOf gid).rec_.wdog
  let reading : Bool := match co.task with | some t => t.reading | none => false
  if n = 0 ∨ co.parked ∨ reading = true ∨ co.stopped ∨ co.complete ∨ co.drainHeld ∨ g.saved ∨ !g.started then []
  else (List.range co.threads.length).filter (fun l =>
    let t := co.thread l
    t.st ≠ .exited && t.wdogFrom + n ≤ coreCycles s g.core)

/-- The path of a lane: the runnable threads at its PC (R195). -/
def pathOf (co : Coil) (lane : Nat) : W32 := co.lanesWhere (fun t => t.st = .runnable && t.pc = (co.thread lane).pc)

/-- WATCHDOG on the path of the lowest lane whose count has run out: the threads at its pc whose counts have run out too leave their waits with it
(R200), and a claim behind one of theirs may be served (R125). -/
def execWatchdogExpiry (gid coil : Nat) (s : State) : Out :=
  .next (match watchdogLanes s gid coil with
    | [] => s
    | l :: rest =>
      let here (k : Nat) : Bool := ((s.coil gid coil).thread k).pc = ((s.coil gid coil).thread l).pc
      let s := serveClaims gid 32 (withdrawWaits s gid coil (laneMask ((l :: rest).filter here)))
      let co := s.coil gid coil
      let path := pathOf co l
      let pc := (co.thread l).pc
      let s := s.modCoil gid coil (fun co => co.mapLanes path (fun t => { t with wdogFrom := coreCycles s (s.group gid).core }))
      raiseTrap s gid coil path pc pc { code := tWATCHDOG, cause := laneMask ((l :: rest).filter (laneIn path)) })

/-- The cc of a `SLEEP` have passed for the threads whose hold has run out (R321). -/
def execSleepHoldEnd (gid coil : Nat) (s : State) : Out :=
  .next (s.modCoil gid coil (fun co =>
    { co with threads := co.threads.map (fun t => if t.heldUntil ≤ coreCycles s (s.group gid).core then { t with heldUntil := 0 } else t) }))

/-! ## Ordered sections (R282, R370, R373) -/

def execOsGrant (slice entry : Nat) (s : State) : Out := .next (grantKey s slice entry)

/-- Whether a key's watchdog has run out: OSWDOG cc with a waiter and no holder, while no context of its address space is saved. -/
def keyExpired (s : State) (e : KeyEntry) : Bool :=
  keyCounts s e && 40 * s.fw.oswdog ≤ (tickKey s e).wdog

def execOsWatchdogExpiry (slice entry : Nat) (s : State) : Out :=
  .next (match tget (s.slice slice).keys entry with
    | some e =>
      if keyExpired s e then
        let here (q : W16 × BitVec 8 × W32 × Waiter) : Bool := q.1 = e.asid && q.2.1 = e.dom && q.2.2.1 = e.key && !q.2.2.2.skip
        let all := e.waiters.filter (fun w => !w.skip) ++ ((s.slice slice).overflow.filter here).map (·.2.2.2)
        let s := modKey s slice entry (fun e => { e with waiters := e.waiters.filter (·.skip), wdog := 0 })
        let s := s.modSlice slice (fun t => { t with overflow := t.overflow.filter (fun q => !here q) })
        all.foldl (fun s w => raiseGap s e.key w) s
      else s
    | none => s)

/-- A wait on a full slice whose 1,024 cc have passed: the instruction is selected again if there is room now, and waits on otherwise. -/
def retryWait (room : Bool) (now slice : Nat) (co : Coil) (r : WaitRec) : Coil :=
  match r.wait with
  | .table sl t =>
    if sl = slice ∧ t ≤ now then
      if room then co.wake r r.lanes
      else { co with waits := co.waits.map (fun q => if q = r then { r with wait := .table sl (now + 1024) } else q) }
    else co
  | _ => co

/-- The requests that a full slice has held off are made again every 1,024 cc of their core (R373). -/
def execOsOverflowRetry (slice : Nat) (s : State) : Out :=
  let room := !(keyFull s slice && 64 ≤ (s.slice slice).overflow.length)
  .next { s with cor := { s.cor with groups := s.cor.groups.map (fun (e : Nat × Group) =>
    (e.1, { e.2 with coils := e.2.coils.map (fun co => co.waits.foldl (retryWait room (coreCycles s e.2.core) slice) co) })) } }

/-! ## Wheel, sweep and fills (R255, R258, R360) -/

/-- A position of the wheel takes up to 8 `SC` operations of its owner, in issue order and ascending lanes: position g those of core g, 212 and 213 those
of the host over an ICL port. -/
def execScWheelPosition (s : State) : Out :=
  let pos := s.xlat.wheel % 256
  let ops := tgetD s.xlat.scWaiting pos []
  let s := { s with xlat := { s.xlat with wheel := s.xlat.wheel + 1, scWaiting := if ops.isEmpty then s.xlat.scWaiting
    else if (ops.drop 8).isEmpty then tdel s.xlat.scWaiting pos else tput s.xlat.scWaiting pos (ops.drop 8) } }
  .next ((ops.take 8).foldl performSc s)

/-- Lines of a cache that have been dirty for 65,536 cc of a core. -/
def oldLines (s : State) (core : Nat) (c : Cache) : List Nat := (c.dirty.filter (fun e => e.2.since + ccTicks s core 65536 ≤ s.time)).map (·.1)

def execDirtyLineSweep (core : Nat) (s : State) : Out :=
  let s := (oldLines s core (s.core core).l1).foldl (fun s l => l1WriteBack s core l 3) s
  let r := regionOf core
  .next ((oldLines s core (s.region r).cache).foldl (fun s l => regionWriteBack s r l) s)

/-- The lines of a load-block are filled; an `SC` one waits for its position first (R255, R360). -/
def execLdblkFillComplete (fill : Nat) (s : State) : Out :=
  .next (match tget s.cor.blocks fill with | some b => if b.sc then s else finishBlock s fill | none => s)

end Sys2Proof.Machine
end

