-- ==== Sys2Proof/Machine/Hub.lean ====
section
/-! DEFINITION. Accesses of the hub's agents and the task units to an address space, at `DEVICE` or `SYSTEM` scope, and the service records that
report what could not be done (R27, R33, R72, R247). -/
namespace Sys2Proof.Machine

/-- Bytes of an address space as a hub agent reads them, of at most so many pages: none where a page does not translate or holds an uncorrectable error. -/
def hubPages (s : State) (asid va n : Nat) : Nat → Option (List Byte)
  | 0 => some []
  | pages + 1 =>
    if n = 0 then some []
    else
      let m := min n (4096 - va % 4096)
      match translateHub s asid va false with
      | .ok pa _ => if poisoned s pa m then none else (hubPages s asid (va + m) (n - m) pages).map (physBytes s pa m ++ ·)
      | _ => none

/-- Bytes of an address space as a hub agent reads them, page by page. -/
def hubBytes (s : State) (asid va n : Nat) : Option (List Byte) := hubPages s asid va n (n / 4096 + 2)

/-- A number of up to 16 aligned bytes of an address space. -/
def hubRead (s : State) (asid va n : Nat) : Option Nat :=
  match translateHub s asid va false with
  | .ok pa _ => if poisoned s pa n then none else some (physNat s pa n)
  | _ => none

/-- A read of aligned bytes of device memory by a hub agent recalls the owner of their line (R262). -/
def hubNote (s : State) (asid va n : Nat) : State :=
  match translateHub s asid va false with
  | .ok pa _ => if inDevice pa 1 then recallLines s 192 pa n else s
  | _ => s

/-- A write of aligned bytes within a page. -/
def hubWrite (s : State) (asid va : Nat) (bs : List Byte) : Option State :=
  match translateHub s asid va true with
  | .ok pa _ => if unreachable s pa then none else some (deviceWrite s 192 pa bs)
  | _ => none

/-- A 64-bit word changed in one step (R58, R86, R118): none where it does not translate, is not writable or cannot be read. -/
def hubUpdate (s : State) (asid va : Nat) (f : Nat → Nat) : Option State :=
  match translateHub s asid va true with
  | .ok pa _ =>
    if poisoned s pa 8 then none
    else
      let s := recallRegions s (pa / 128)
      some (deviceWrite s 192 pa (leBytes 8 (f (physNat s pa 8))))
  | _ => none

/-- 1 added to a counter in memory, skipped where it cannot be made, with a record of KC2's SERVICE queue (R86, R118). -/
def addCounter (s : State) (asid va : Nat) : State :=
  match hubUpdate s asid va (fun v => (v + 1) % 2 ^ 64) with
  | some t => t
  | none => postFree s 5 0

/-! ## Service records (R33, R69) -/

/-- FRAME_POS: fc since boot completion, 1,024 to a minor frame and 64 minor frames to a major frame (R69, R76). -/
def framePos (s : State) : W64 := if s.fw.booted then BitVec.ofNat 64 ((s.time - s.fw.bootTime) / 110) else 0

/-- Whether the service ring takes a record now (R17, R33). -/
def ringRoom (s : State) : Bool :=
  s.mod.svcBase ≠ 0 && (s.mod.svcW - s.mod.svcR).toNat < 2 ^ s.mod.svcSlots.toNat && !linkDown s

/-- A record written in the ring, and the write index advanced. -/
def ringRecord (s : State) (p : PostedRec) : State :=
  let a := s.mod.svcBase.toNat * 4096 + 32 * (s.mod.svcW.toNat % 2 ^ s.mod.svcSlots.toNat)
  let w0 := p.r.kind.toNat + p.r.unit.toNat * 2 ^ 16 + p.seq.toNat * 2 ^ 32
  let s := deviceWrite s 192 a (leBytes 8 w0 ++ leBytes 8 p.r.addr.toNat ++ leBytes 8 p.r.count.toNat ++ leBytes 8 (framePos s).toNat)
  { s with mod := { s.mod with svcW := s.mod.svcW + 1 } }

/-- Records of the carry area posted in order while the ring has room (R33). -/
def drainCarry : Nat → State → State
  | 0, s => s
  | n + 1, s =>
    match s.mod.carry with
    | p :: rest => if ringRoom s then drainCarry n (ringRecord { s with mod := { s.mod with carry := rest } } p) else s
    | [] => s

def serveCarry (s : State) : State := drainCarry s.mod.carry.length s

/-- A service record posted by KC2: into the ring, or kept in the carry area of 1,024, or dropped and counted (R33). -/
def postRecord (s : State) (r : SvcRec) : State :=
  let p : PostedRec := { r, seq := s.mod.svcSeq }
  if s.mod.carry.length < 1024 then
    serveCarry { s with mod := { s.mod with carry := s.mod.carry ++ [p], svcSeq := s.mod.svcSeq + 1 } }
  else { s with mod := { s.mod with svcLost := satInc s.mod.svcLost } }

/-- A record that names a unit alone. -/
def unitRecord (s : State) (kind unit : Nat) : State :=
  postRecord s { kind := BitVec.ofNat 8 kind, unit := BitVec.ofNat 16 unit, addr := 0, count := 0 }

/-- What a unit reports to KC2 through SERVICE (R72), and the service record that KC2 makes of it (R33). -/
def reportUnit (s : State) (kind unit : Nat) : State := unitRecord (postFree s 5 unit) kind unit

/-- An increment of a flag by a copy or a task: one that names a core number without a core is dropped, with a record of KIND 11 (R38, R108). -/
def engineFlag (s : State) (core f n : Nat) : State :=
  if 191 < core ∨ s.mod.coreGone.contains core then unitRecord s 11 core else flagAdd s core f n

end Sys2Proof.Machine
end

