-- ==== Sys2Proof/Machine/Copies.lean ====
section
/-! DEFINITION. The copy engines: descriptors and their limits (R210, R211), bytes that land (R213, R216, R263, R265), completion in its order (R212),
copies of the hub engine (R56), and the messages of `REMOTE` copies on the sending side (R19, R37). -/
namespace Sys2Proof.Machine

def State.copy? (s : State) (id : Nat) : Option Copy := tget s.cor.copies id
def State.modCopy (s : State) (id : Nat) (f : Copy → Copy) : State := { s with cor := { s.cor with copies := tupd s.cor.copies id f } }
def State.dropCopy (s : State) (id : Nat) : State := { s with cor := { s.cor with copies := tdel s.cor.copies id } }

/-! ## Descriptors -/

/-- A descriptor from its 64 bytes; `reserved` says that a reserved bit is set (R210). -/
def parseDesc (bs : List Byte) : CopyDesc :=
  let w (i : Nat) : Nat := leNat ((bs.drop (8 * i)).take 8)
  { kind := field (w 0) 0 4, tag := field (w 0) 4 6, boEn := bit (w 0) 10, flEn := bit (w 0) 11, pubEn := bit (w 0) 12, pscope := field (w 0) 13 2,
    srcLoc := bit (w 0) 15, dstLoc := bit (w 0) 16, fslot := BitVec.ofNat 3 (field (w 0) 17 3), btag := BitVec.ofNat 12 (field (w 0) 20 12),
    stream := field (w 0) 32 2, zreg := field (w 0) 34 5, src := BitVec.ofNat 57 (w 1), dst := BitVec.ofNat 57 (w 2),
    len := field (w 3) 0 32, rows := field (w 3) 32 32, sstride := field (w 4) 0 32, dstride := field (w 4) 32 32,
    bo := field (w 5) 0 19, fcore := field (w 5) 19 8, fflag := field (w 5) 27 6, pub := BitVec.ofNat 12 (field (w 5) 33 12),
    aux := field (w 6) 0 19, home := field (w 6) 19 3, devid := BitVec.ofNat 16 (field (w 6) 32 16),
    reserved := field (w 0) 39 25 ≠ 0 || field (w 1) 57 7 ≠ 0 || field (w 2) 57 7 ≠ 0 || field (w 5) 45 19 ≠ 0 || field (w 6) 22 10 ≠ 0
      || field (w 6) 48 16 ≠ 0 || field (w 7) 8 56 ≠ 0 }

/-- The limits of R210 that hold for every kind. -/
def descOk (d : CopyDesc) : Bool :=
  !d.reserved && d.kind < 7 && d.src.toNat % 4 == 0 && d.dst.toNat % 4 == 0 && d.sstride % 4 == 0 && d.dstride % 4 == 0
    && (d.kind == 6 || (d.len ≠ 0 && (d.kind == 4 || d.len % 4 == 0)))
    && (!(1 ≤ d.kind && d.kind ≤ 3) || d.rows ≠ 0) && (d.kind ≠ 4 || (4 ≤ d.sstride && d.sstride ≤ 256))
    && d.bo % 16 == 0 && (!d.flEn || d.fcore ≤ 191) && (!d.pubEn || d.pub ≠ 0)

/-- Scale bytes in each source row of a `SCALESPLIT`: one to a block of 8, or of 32 (R211, R223). -/
def scaleBytes (slot stream rows : Nat) : Nat :=
  let blocks := elemK (slotElem slot) / (if slotBlk slot = 3 then 32 else 8) * (if stream < 2 then 128 else 256)
  blocks / rows

/-- The format slot word that a copy names. -/
def copySlot (s : State) (gid : Nat) (d : CopyDesc) : Nat := (((s.launchOf gid).rec_.fslots[d.fslot.toNat]?).getD 0).toNat

/-- The limits of a fill (R211, R215, R386, R387). -/
def fillOk (s : State) (gid : Nat) (d : CopyDesc) : Bool :=
  let r := (s.launchOf gid).rec_
  let slot := copySlot s gid d
  !d.dstLoc && streamOk r d.stream && slotElem slot < 10 && (slotSpar slot == 0 || d.stream < 2)
    && d.len * d.rows == tileBytes slot d.stream
    && (d.kind ≠ 3 || (d.zreg < 4 * r.zgran && slotBsf slot ≠ 0 && scaleBytes slot d.stream d.rows * d.rows == scaleBytes slot d.stream 1))

/-- Whether a local range lies within a group's local memory (R211). -/
def localOk (s : State) (gid off n : Nat) : Bool := off + n ≤ localSize s gid

/-- The index of element `k` of a `GATHER` of a group (R211). -/
def gatherIndex (s : State) (gid aux k : Nat) : Nat := localNat s gid (aux + 4 * k) 4

/-- Local ranges of a copy of a group (R211). -/
def rangesOk (s : State) (gid : Nat) (d : CopyDesc) : Bool :=
  let size := localSize s gid
  let scales := if d.kind = 3 then scaleBytes (copySlot s gid d) d.stream d.rows else 0
  let last (base stride n : Nat) : Bool := base + (d.rows - 1) * stride + n ≤ size
  match d.kind with
  | 0 => (!d.srcLoc || localOk s gid d.src.toNat d.len) && (!d.dstLoc || localOk s gid d.dst.toNat d.len)
  | 1 => (!d.srcLoc || last d.src.toNat d.sstride d.len) && (!d.dstLoc || last d.dst.toNat d.dstride d.len)
  | 2 => !d.srcLoc || last d.src.toNat d.sstride d.len
  | 3 => !d.srcLoc || last d.src.toNat d.sstride (d.len + scales)
  | 4 =>
    d.aux % 4 == 0 && localOk s gid d.aux (4 * d.len) && (!d.dstLoc || localOk s gid d.dst.toNat (d.len * d.sstride))
      && (!d.srcLoc || (List.range d.len).all (fun k => localOk s gid (d.src.toNat + gatherIndex s gid d.aux k * d.sstride) d.sstride))
  | 5 => !d.srcLoc || localOk s gid d.src.toNat d.len
  | _ => true

/-- The ring of a `RINGCAST`, where it is one: its header and slots within local memory, kicked by a coil of the home group (R121, R122, R211). -/
def castRing (s : State) (gid : Nat) (d : CopyDesc) : Option Ring :=
  if (s.group gid).clgroup ≠ d.home ∨ d.aux % 64 ≠ 0 ∨ localSize s gid < d.aux + 0x540 then none
  else
    let r := ringRead s gid d.aux
    if r.slots = 0 ∨ 64 < r.slots ∨ r.slotsz = 0 ∨ 4096 < r.slotsz ∨ !slotFits s r (ringMembers s r) (putIdx s r % r.slots)
        ∨ (d.srcLoc ∧ !localOk s gid d.src.toNat r.slotsz) then none
    else some r

/-- A 64-bit word of a device's entry in the peer table (R37). -/
def peerWord (s : State) (devid : W16) (i : Nat) : Nat := physNat s (s.mod.iftPeer.toNat * 2 ^ 21 + 32 * devid.toNat + 8 * i) 8

/-- Whether the peer of a `REMOTE` copy has a valid entry (R37). -/
def peerValid (s : State) (devid : W16) : Bool := bit (peerWord s devid 0) 0

/-- A `REMOTE` copy may leave: its space takes part in IFT and its peer is valid (R37). -/
def remoteOk (s : State) (asid : W16) (d : CopyDesc) : Bool := asFabric (asEntry s asid.toNat) ≠ 0 && peerValid s d.devid

/-- Bytes that a copy reads. -/
def copyTotal (s : State) (c : Copy) : Nat :=
  let d := c.desc
  let gid := (c.owner.map (·.1)).getD 0
  match d.kind with
  | 0 | 5 => d.len
  | 1 | 2 => d.len * d.rows
  | 3 => (d.len + scaleBytes (copySlot s gid d) d.stream d.rows) * d.rows
  | 4 => d.len * d.sstride
  | _ => (ringRead s gid d.aux).slotsz

/-! ## Completion (R212) -/

/-- The scope at which a copy is visible: PSCOPE, or `GROUP` with PUBEN = 0; the hub engine's is at least `DEVICE` (R56, R212). -/
def copyScope (c : Copy) : Nat :=
  let p := if c.desc.pubEn then c.desc.pscope + 1 else 1
  if c.owner.isSome then p else max 3 p

/-- STATUS written in the descriptor. -/
def writeStatus (s : State) (c : Copy) (st : Nat) : State :=
  match c.owner, c.hub with
  | some (gid, _, _), _ => localWrite s gid (c.off + 0x38) [BitVec.ofNat 8 st]
  | none, some (_, _, a) => (hubWrite s c.asid.toNat (a.toNat + 0x38) [BitVec.ofNat 8 st]).getD s
  | none, none => s

/-- The tile of a fill enters its stream, and the scales of a `SCALESPLIT` its register (R211, R216). -/
def fillDone (s : State) (c : Copy) (gid : Nat) : State :=
  let d := c.desc
  if d.kind ≠ 2 ∧ d.kind ≠ 3 then s
  else
    let slot := copySlot s gid d
    let row := d.len + (if d.kind = 3 then scaleBytes slot d.stream d.rows else 0)
    let rows := (List.range d.rows).map (fun i => (c.buf.drop (i * row)).take row)
    let tile : Tile := { tag := d.btag, slot := d.fslot, bytes := rows.flatMap (·.take d.len) }
    let one := bandBytes (List.replicate 4 bf16One)
    s.modMx gid (fun m =>
      let m := { m with streams := tput m.streams d.stream (tgetD m.streams d.stream [] ++ [tile]) }
      if d.kind = 3 then m.setZ d.zreg ((m.zTarget (s.launchOf gid).rec_.zgran d.zreg).getD (m.phys d.zreg)) (zLoaded slot (d.stream / 2) d.btag d.fslot (rows.flatMap (·.drop d.len) ++ one)) else m)

/-- Steps 1 to 5 of R212 for a copy that ends with a status; the packet of a hub copy completes when the copy is gone (R56). -/
def finishCopy (s : State) (id : Nat) (c : Copy) (st : Nat) : State :=
  let d := c.desc
  let st := if st = 0 ∧ d.pubEn ∧ d.kind ≠ 5 ∧ ((pubEntry s c.asid.toNat d.pub.toNat).isNone ∨ !pubReadable s c.asid.toNat d.pub.toNat) then 3 else st
  let s := s.dropCopy id
  let s := if st = 2 then s else match c.owner with
    | some (gid, _, _) => releaseAt (if st = 0 then fillDone s c gid else s) c.core (copyScope c)
    | none => s
  let s := writeStatus s c st
  let s := if st = 0 ∧ d.kind ≠ 5 then
      let s := if d.flEn then engineFlag (if c.owner.isSome then releaseAt s c.core 3 else s) d.fcore d.fflag 1 else s
      if d.pubEn then publishEntry s c.asid.toNat d.pub.toNat else s
    else s
  match c.owner with
  | some (gid, _, _) => tagDone s gid d.tag (copyScope c)
  | none => s

/-! ## Descriptor fetch (R209, R211, R56) -/

/-- Whether every limit on a group's copy holds. A barrier object that lies beyond the group's local memory breaks one. (DESIGN CHOICE, log 68.) -/
def groupCopyOk (s : State) (gid : Nat) (asid : W16) (d : CopyDesc) : Bool :=
  descOk d && (!d.boEn || localOk s gid d.bo 16) && (!(d.kind == 2 || d.kind == 3) || fillOk s gid d) && rangesOk s gid d
    && (d.kind ≠ 5 || remoteOk s asid d) && (d.kind ≠ 6 || (castRing s gid d).isSome)

/-- `MACHINE_CHECK` on the coil that kicked a copy (R211); an error that no context consumes is reported (R27). (DEDUCED, log 22.) -/
def copyPoison (s : State) (id : Nat) (c : Copy) (a : Nat) : State :=
  let s := s.dropCopy id
  match c.owner with
  | some (gid, ci, lane) =>
    let pc := ((s.coil gid ci).thread lane).pc
    raiseTrap s gid ci (laneMask [lane]) pc pc { code := tMACHINE_CHECK, cause := laneMask [lane], addrs := List.replicate 32 (BitVec.ofNat 64 a) }
  | none =>
    finishCopy (postFree s 5 0) id c 3

/-- The oldest descriptor of a core's queue read: a bad one completes at once, a put claims its index unless it has one already, any other copy proceeds. -/
def execCopyDescriptorFetch (core : Nat) (s : State) : Out :=
  .next (match (s.core core).copyq with
    | [] => s
    | id :: rest =>
      let s := s.modCore core (fun c => { c with copyq := rest })
      match s.copy? id with
      | some c =>
        match c.owner with
        | some (gid, _, _) =>
          if localBad s gid c.off 64 then copyPoison s id c c.off else
          let d := parseDesc (cellsBytes (s.group gid).lmem c.off 64)
          let c := { c with desc := d }
          if !groupCopyOk s gid c.asid d then finishCopy s id c 2
          else if d.kind = 6 ∧ c.ringIdx.isNone then
            let r := ringRead s gid d.aux
            let i := putIdx s r
            (setLocal s gid (d.aux + 0x10) 4 ((i + 1) % 2 ^ 32)).modCopy id (fun _ => { c with st := .running, ringIdx := some (BitVec.ofNat 32 i) })
          else s.modCopy id (fun _ => { c with st := .running })
        | none => s
      | none => s)

/-- A copy of the hub engine begun for a packet: its descriptor, and IDX in the place of AUX (R56). -/
def hubCopy (s : State) (qid : Nat) (pidx : W32) (asid : W16) (addr : BitVec 57) (d : CopyDesc) (idx : Nat) : Nat × State :=
  let id := s.cor.nextCopy
  let ok := descOk d && !d.srcLoc && !d.dstLoc && !d.boEn && (d.kind ≠ 4 || (d.aux == 0 && idx ≠ 0)) && (d.kind ≠ 5 || remoteOk s asid d)
  let c : Copy := { hub := some (qid, pidx, addr), asid, core := 0xFFFF, desc := { d with aux := idx }, st := .running }
  let s := { s with cor := { s.cor with copies := tput s.cor.copies id c, nextCopy := id + 1 } }
  (id, if ok then s else finishCopy s id c 2)

/-! ## Bytes that land -/

/-- Fills of a thread to a stream kicked before this one still under way (R216). -/
def fillBehind (s : State) (id : Nat) (c : Copy) : Bool :=
  s.cor.copies.any (fun e => e.1 < id && e.2.owner == c.owner && e.2.st ≠ .queued && (e.2.desc.kind = 2 || e.2.desc.kind = 3) && e.2.desc.stream = c.desc.stream)

/-- Tile slots of a stream that hold a tile or belong to a fill that has begun (R126, R215). -/
def slotsTaken (s : State) (gid st : Nat) : Nat :=
  (tgetD (s.group gid).mx.streams st []).length
    + (s.cor.copies.filter (fun e => (e.2.owner.map (·.1)) == some gid && (e.2.desc.kind = 2 || e.2.desc.kind = 3) && e.2.desc.stream = st && e.2.done ≠ 0)).length

/-- Whether a running copy may move its next byte: a fill needs a tile slot and its turn, a put a free ring slot (R122, R126, R216). -/
def mayMove (s : State) (id : Nat) (c : Copy) : Bool :=
  match c.owner with
  | some (gid, _, _) =>
    match c.desc.kind with
    | 2 | 3 => c.done ≠ 0 || (!fillBehind s id c && slotsTaken s gid c.desc.stream < 4)
    | 6 =>
      mayPut s (ringRead s gid c.desc.aux) ((c.ringIdx.map (·.toNat)).getD 0)
    | _ => true
  | none => true

/-- How an access of an engine ends. -/
inductive EngRes (α : Type) where
  | ok (a : α)
  | miss (vpn kind : Nat)
  | bad
  | poison
  deriving Repr

/-- What a translation gives an engine (R242, R278). -/
def engOf {α : Type} (t : TR) (k : Nat → Nat → EngRes α) : EngRes α :=
  match t with
  | .ok pa l => k pa l
  | .miss v => .miss v 3
  | .wfault v => .miss v 1
  | _ => .bad

/-- The lookup of a copy: its core's, or for the hub engine the pages that its walks have found (R244). -/
def copyLook (s : State) (c : Copy) (vpn : Nat) : Look :=
  if c.owner.isSome then lookTlb s c.core c.asid.toNat vpn else match tget c.pages vpn with | some l => .hit l | none => .miss

/-- An address of a copy translated: its writes go to the inactive backing (R265). -/
def copyTr (s : State) (c : Copy) (a : Nat) (write : Bool) : TR :=
  translate s (copyLook s c) c.asid.toNat a write false (if write then .inactive else .active)

/-- The source of byte `i` of a copy, how many bytes of its row or element follow it, and its destination. -/
def pieceAt (s : State) (c : Copy) (i : Nat) : Nat × Nat × Nat :=
  let d := c.desc
  let gid := (c.owner.map (·.1)).getD 0
  match d.kind with
  | 1 => (d.src.toNat + i / d.len * d.sstride + i % d.len, d.len - i % d.len, d.dst.toNat + i / d.len * d.dstride + i % d.len)
  | 2 => (d.src.toNat + i / d.len * d.sstride + i % d.len, d.len - i % d.len, 0)
  | 3 =>
    let n := d.len + scaleBytes (copySlot s gid d) d.stream d.rows
    (d.src.toNat + i / n * d.sstride + i % n, n - i % n, 0)
  | 4 =>
    let k := i / d.sstride
    let idx := if c.owner.isSome then gatherIndex s gid d.aux k else (match copyTr s c (d.aux + 4 * k) false with | .ok pa _ => physNat s pa 4 | _ => 0)
    (d.src.toNat + idx * d.sstride + i % d.sstride, d.sstride - i % d.sstride, d.dst.toNat + i)
  | _ => (d.src.toNat + i, copyTotal s c - i, d.dst.toNat + i)

/-- The index of a `GATHER`'s element: in local memory, or for the hub engine in the queue's address space (R56, R211). -/
def indexRead (s : State) (c : Copy) (i : Nat) : EngRes Unit :=
  if c.desc.kind ≠ 4 then .ok ()
  else match c.owner with
  | some (gid, _, _) => if localBad s gid (c.desc.aux + 4 * (i / c.desc.sstride)) 4 then .poison else .ok ()
  | none => engOf (copyTr s c (c.desc.aux + 4 * (i / c.desc.sstride)) false) (fun pa _ => if poisoned s pa 4 then .poison else .ok ())

/-- Bytes of a row or an element of a copy. -/
def rowBytes (s : State) (c : Copy) : Nat :=
  match c.desc.kind with
  | 1 | 2 => c.desc.len
  | 3 => c.desc.len + scaleBytes (copySlot s ((c.owner.map (·.1)).getD 0) c.desc) c.desc.stream c.desc.rows
  | 4 => c.desc.sstride
  | _ => copyTotal s c

/-- Whether a row that begins `off` bytes before an address and goes on for `row` crosses from the page of that address to an `SO` page, or from one: both
parts are then performed at `DEVICE` scope (R246); where the other page has not been walked, its walk comes first. (DEDUCED, log 22.) -/
def besideSo (s : State) (c : Copy) (a off row : Nat) (write : Bool) : EngRes Bool :=
  let so (p : Nat) : EngRes Bool :=
    match copyTr s c (4096 * p) write with
    | .ok _ l => .ok (leafOrd l == 1)
    | .miss v => .miss v 3
    | .wfault v => .ok (match copyLook s c v with | .hit l => leafOrd l == 1 | _ => false)
    | _ => .ok false
  let p := a / 4096
  let before : EngRes Bool := if (a - off) / 4096 < p then so (p - 1) else .ok false
  let after : EngRes Bool := if p < (a + row - 1) / 4096 then so (p + 1) else .ok false
  match before, after with
  | .ok x, .ok y => .ok (x || y)
  | .ok _, r => r
  | r, _ => r

/-- Bytes of a source within a page, as the engine reads them, at `DEVICE` scope where `so` says so (R246, R263, R265). -/
def engineRead (s : State) (c : Copy) (a n : Nat) (so : Bool) : EngRes (List Byte) :=
  match c.owner with
  | some (gid, _, _) =>
    if c.desc.srcLoc then (if localBad s gid a n then .poison else .ok (cellsBytes (s.group gid).lmem a n))
    else engOf (copyTr s c a false)
      (fun pa l =>
        let scope := if so then max 3 (copyScope c) else copyScope c
        if loadBad s c.core l scope pa n then .poison else .ok (loadBytes s c.core l scope pa n))
  | none =>
    engOf (copyTr s c a false) (fun pa _ => if poisoned s pa n then .poison else .ok (physBytes s pa n))

/-- Bytes of a destination within a line, as the engine writes them: at `GROUP` scope, or at `DEVICE` scope where `so` says so, on the inactive backing
(R246, R263, R265). -/
def engineWrite (s : State) (c : Copy) (a : Nat) (bs : List Byte) (so : Bool) : EngRes State :=
  match c.owner with
  | some (gid, _, _) =>
    if c.desc.dstLoc then .ok (localWrite s gid a bs)
    else engOf (copyTr s c a true)
      (fun pa l => if unreachable s pa then .poison else .ok (storeBytes s c.core l (if so then 3 else 1) pa bs))
  | none =>
    engOf (copyTr s c a true)
      (fun pa _ => if unreachable s pa then .poison else .ok (deviceWrite s 192 pa bs))

/-- The copy waits on the merge entry of a page (R211, R277): a miss that finds the table full is counted once and is tried again. -/
def copyMiss (s : State) (id vpn kind : Nat) : State :=
  match s.copy? id with
  | some c =>
    let full := (mergeOf s c.asid.toNat vpn).isNone && (freeIndex s.xlat.merge 4096).isNone
    if full && c.missFull then s
    else
      let s := attachMiss s c.asid.toNat vpn kind (if c.owner.isSome then c.core else 0xFFFF) (.copy id)
      match mergeOf s c.asid.toNat vpn with
      | some (i, _) => s.modCopy id (fun c => { c with st := .paged i, missFull := false })
      | none => s.modCopy id (fun c => { c with missFull := full })
  | none => s

/-- What a read of a copy leaves: the home takes a line from a core that owns it, unless the copy's own L1 serves it (R262). -/
def engineNote (s : State) (c : Copy) (a n : Nat) : State :=
  match copyTr s c a false with
  | .ok pa _ =>
    if c.owner.isSome ∧ copyScope c ≤ 1 ∧ (tget (s.core c.core).l1.clean (pa / 128)).isSome then s
    else recallLines s (if c.owner.isSome then c.core else 192) pa n
  | _ => s

/-- An access of a copy that does not go on: it waits for a page, fails, or meets an uncorrectable error at an address. -/
def copyStops {α : Type} (s : State) (id : Nat) (c : Copy) (a : Nat) (r : EngRes α) (k : α → State × Nat) : State × Nat :=
  match r with
  | .ok x => k x
  | .miss v kind => (copyMiss s id v kind, 0)
  | .bad => (s.modCopy id (fun c => { c with st := .failed, status := 3 }), 0)
  | .poison => (copyPoison s id c a, 0)

/-- One piece of a copy, within one row and one line of its source and of its destination: the state after it and the bytes it moved; 0 bytes where the copy waits or has ended. -/
def movePiece (s : State) (id : Nat) (c : Copy) (left : Nat) : State × Nat :=
  copyStops s id c (c.desc.aux + 4 * (c.done / c.desc.sstride)) (indexRead s c c.done) (fun _ =>
    let (src, row, dst) := pieceAt s c c.done
    let toMem := c.desc.kind = 0 || c.desc.kind = 1 || c.desc.kind = 4
    let n := min (min left row) (min (128 - src % 128) (if toMem then 128 - dst % 128 else 128))
    let off := rowBytes s c - row
    copyStops s id c src (if c.desc.srcLoc then .ok false else besideSo s c src off row false) (fun soR =>
    copyStops s id c src (engineRead s c src n soR) (fun bs =>
      let s := if c.desc.srcLoc then s else engineNote s c src n
      if toMem then
        copyStops s id c dst (if c.desc.dstLoc then .ok false else besideSo s c dst off row true) (fun soW =>
        copyStops s id c dst (engineWrite s c dst bs soW) (fun t => (t.modCopy id (fun c => { c with done := c.done + n }), n)))
      else (s.modCopy id (fun c => { c with done := c.done + n, buf := c.buf ++ bs }), n))))

/-- Pieces until `left` bytes have moved or the copy waits or ends, with the bytes moved. -/
def movePieces (id : Nat) : Nat → Nat → State → State × Nat
  | 0, _, s => (s, 0)
  | fuel + 1, left, s =>
    match s.copy? id with
    | some c =>
      if left = 0 ∨ c.st ≠ .running then (s, 0)
      else
        let r := movePiece s id c left
        if r.2 = 0 then (r.1, 0)
        else
          let t := movePieces id fuel (left - r.2) r.1
          (t.1, r.2 + t.2)
    | none => (s, 0)

/-- A message as it leaves now, by its peer's entry as it stands: the ports that may carry it, the next hop and the IP address (R37). -/
def addressed (s : State) (m : OutMsg) : OutMsg :=
  let w0 := peerWord s m.devid 0
  let ip := peerWord s m.devid 2 + peerWord s m.devid 3 * 2 ^ 64
  { m with
    sent := s.time, ports := BitVec.ofNat 8 (field w0 2 8), mac := BitVec.ofNat 48 (peerWord s m.devid 1), v6 := bit w0 1
    ip := BitVec.ofNat 128 (if bit w0 1 then ip else ip % 2 ^ 32) }

/-- Messages of a `REMOTE` copy: at most 8,192 bytes each (R19), every one with the source's DEVID, the space's FABRIC, DST, and PUB with PUBEN (R37), and with
what the destination needs for the copy's end: its length, and its flag with FLEN (R211). -/
def cutMessages (s : State) (id : Nat) (c : Copy) : List OutMsg :=
  let d := c.desc
  (List.range ((d.len + 8191) / 8192)).map (fun i => addressed s {
    copy := id, msg := i, offset := 8192 * i, len := min 8192 (d.len - 8192 * i), src := s.mod.iftSelf, devid := d.devid
    fabric := BitVec.ofNat 12 (asFabric (asEntry s c.asid.toNat)), dst := d.dst, pub := if d.pubEn then some d.pub else none
    total := d.len, flag := if d.flEn then some (BitVec.ofNat 8 d.fcore, BitVec.ofNat 6 d.fflag) else none })

/-- All bytes of a copy have been read: a `REMOTE` copy's messages leave, a put's data is deposited, and any other copy has landed. -/
def copyRead (s : State) (id : Nat) (c : Copy) : State :=
  match c.desc.kind with
  | 5 =>
    let s := { s with mod := { s.mod with outMsgs := s.mod.outMsgs ++ cutMessages s id c } }
    s.modCopy id (fun c => { c with st := .remote })
  | 6 =>
    match c.owner with
    | some (gid, _, _) =>
      let s := testRings (ringDeposit s (ringRead s gid c.desc.aux) ((c.ringIdx.map (·.toNat)).getD 0) c.buf) (s.group gid).cluster
      s.modCopy id (fun c => { c with st := .landed })
    | none => s
  | _ => s.modCopy id (fun c => { c with st := .landed })

/-- Up to `bytes` bytes of a copy land, and its barrier object counts them (R213); a `REMOTE` copy's bytes land elsewhere. -/
def execCopyBytesLand (copy bytes : Nat) (s : State) : Out :=
  .next (match s.copy? copy with
    | some c =>
      if c.st = .running ∧ mayMove s copy c then
        let r := movePieces copy bytes (min bytes (copyTotal s c - c.done)) s
        let s := match c.owner with
          | some (gid, _, _) => if c.desc.boEn ∧ c.desc.kind ≠ 5 ∧ r.2 ≠ 0 then countBo r.1 gid c.desc.bo (-(r.2 : Int)) else r.1
          | none => r.1
        match s.copy? copy with
        | some c => if c.st = .running ∧ copyTotal s c ≤ c.done then copyRead s copy c else s
        | none => s
      else s
    | none => s)

/-- Whether a `SCALESPLIT` that has landed waits for a spare scale register, its tile half with it (R389). -/
def spareWaits (s : State) (c : Copy) : Bool :=
  match c.owner with
  | some (gid, _, _) => c.desc.kind == 3 && ((s.group gid).mx.zTarget (s.launchOf gid).rec_.zgran c.desc.zreg).isNone
  | none => false

/-- A copy whose last byte has landed, or that has failed, completes (R212); the source-side completion of a `REMOTE` copy of a saved group waits for
its restore (R286). -/
def execCopyComplete (copy : Nat) (s : State) : Out :=
  .next (match s.copy? copy with
    | some c =>
      let saved := match c.owner with | some (gid, _, _) => (s.group gid).saved | none => false
      if saved || (c.st == .landed && spareWaits s c) then s
      else match c.st with
        | .landed => finishCopy s copy c 0
        | .failed => finishCopy s copy c c.status
        | _ => s
    | none => s)

/-! ## Messages out (R19, R37) -/

/-- A message acknowledged: its bytes have landed; the last one lets the copy complete. -/
def execIftAck (copy msg : Nat) (s : State) : Out :=
  .next (match s.mod.outMsgs.find? (fun m => m.copy = copy && m.msg = msg) with
    | some m =>
      let s := { s with mod := { s.mod with outMsgs := s.mod.outMsgs.filter (· ≠ m) } }
      match s.copy? copy with
      | some c =>
        let s := match c.owner with
          | some (gid, _, _) => if c.desc.boEn then countBo s gid c.desc.bo (-(m.len : Int)) else s
          | none => s
        if s.mod.outMsgs.any (fun m => m.copy = copy) ∨ c.st ≠ .remote then s else s.modCopy copy (fun c => { c with st := .landed })
      | none => s
    | none => s)

/-- A `REMOTE` copy fails: no more messages leave, and it completes with `REMOTE_FAIL`. -/
def failRemote (s : State) (copy : Nat) : State :=
  let s := { s with mod := { s.mod with outMsgs := s.mod.outMsgs.filter (fun m => m.copy ≠ copy) } }
  s.modCopy copy (fun c => { c with st := .failed, status := 1 })

/-- A message not acknowledged within IFT_RTO is resent; after 16 resends the copy fails (R19). -/
def execIftResendTimeout (copy msg : Nat) (s : State) : Out :=
  .next (match s.mod.outMsgs.find? (fun m => m.copy = copy && m.msg = msg) with
    | some m =>
      if s.time < m.sent + s.mod.iftRto.toNat * 132000 then s
      else if 16 ≤ m.resends then failRemote s copy
      else { s with mod := { s.mod with outMsgs := s.mod.outMsgs.map (fun o => if o = m then addressed s { m with resends := m.resends + 1 } else o) } }
    | none => s)

/-- The destination refused a message: the copy fails at once (R37). -/
def execIftRefusal (copy : Nat) (s : State) : Out :=
  .next (if s.mod.outMsgs.any (fun m => m.copy = copy) then failRemote s copy else s)

end Sys2Proof.Machine
end

