-- ==== Sys2Proof/Machine/Colour.lean ====
section
/-! DEFINITION. Pixels of the colour formats of R130: decoding, encoding and the fixed blends (R154, R352, R354). Channels lie in the order R, G, B, A
at rising addresses (log 40). -/
namespace Sys2Proof.Machine

/-- A decoded channel: an exact value, or the sRGB value of a code above the linear part, which is irrational. -/
inductive Ch where
  | x (v : XR)
  | srgb (n : Nat)
  deriving DecidableEq, Repr

/-- The size PB of a pixel (R130). -/
def pixelBytes (cfmt : Nat) : Nat := match cfmt with | 0 => 8 | 1 => 16 | 5 => 8 | _ => 4

/-- Fifth root rounded down, digit by digit from bit `k - 1`. -/
def iroot5 (n : Nat) : Nat → Nat → Nat
  | 0, r => r
  | k + 1, r =>
    let t := r + 2 ^ k
    if t ^ 5 ≤ n then iroot5 n k t else iroot5 n k r

/-- Bounds of a positive rational's fifth root, with `p` bits after the point. -/
def root5Bounds (a : Q) (p : Nat) : Q × Q :=
  let n := a.num.natAbs * a.den ^ 4 * 2 ^ (5 * p)
  let r := iroot5 n (Nat.log2 n / 5 + 1) 0
  (⟨r, a.den * 2 ^ p⟩, if r ^ 5 = n then ⟨r, a.den * 2 ^ p⟩ else ⟨r + 1, a.den * 2 ^ p⟩)

/-- ((n/255 + 0.055)/1.055)^2.4, the sRGB decoding above its linear part (R154). -/
def srgbBounds (n p : Nat) : Q × Q :=
  let q : Q := ⟨1000 * n + 14025, 269025⟩
  let q2 := qMul q q
  let b := root5Bounds q2 p
  (qMul q2 b.1, qMul q2 b.2)

/-- An end of the enclosure of a channel. -/
def Ch.end_ (c : Ch) (p : Nat) (hi : Bool) : XR :=
  match c with
  | .x v => v
  | .srgb n => let b := srgbBounds n p; .fin (if hi then b.2 else b.1)

/-- The code on which both ends of an enclosure agree. -/
def settle (f : Nat → Bool → Nat) : List Nat → Nat
  | [] => f 64 false
  | p :: ps => if f p false = f p true then f p false else settle f ps

/-- The sRGB decoding of an 8-bit code. -/
def decodeS (n : Nat) : Ch :=
  if n = 0 then .x (.zero false) else if n = 255 then .x (.fin (qInt 1)) else if n ≤ 10 then .x (.fin ⟨100 * n, 255 * 1292⟩) else .srgb n

def decodeN (n : Nat) : Ch := .x (xOfQ ⟨n, 255⟩)

/-- A pixel decoded exactly: R, G, B, A (R154, R352). -/
def decodePixel (cfmt v : Nat) : List Ch :=
  let f (c i : Nat) : Ch := .x (valueOf c (v / 2 ^ (fmtBits c * i) % 2 ^ fmtBits c))
  let b (i : Nat) : Nat := v / 2 ^ (8 * i) % 256
  let one : Ch := .x (.fin (qInt 1))
  let zero : Ch := .x (.zero false)
  match cfmt with
  | 0 => [f 9 0, f 9 1, f 9 2, f 9 3]
  | 1 => [f 10 0, f 10 1, f 10 2, f 10 3]
  | 2 => [decodeN (b 0), decodeN (b 1), decodeN (b 2), decodeN (b 3)]
  | 3 => [decodeS (b 0), decodeS (b 1), decodeS (b 2), decodeN (b 3)]
  | 4 => [f 10 0, zero, zero, one]
  | _ => [f 10 0, f 10 1, zero, one]

/-- A channel rounded once to FP32 (R352, R354). -/
def Ch.fp32 (c : Ch) : Nat :=
  match c with
  | .x v => (narrow 10 v 0 false 0).1
  | .srgb _ => settle (fun p hi => (narrow 10 (c.end_ p hi) 0 false 0).1) precisions

/-- A value clamped to [0, 1]; a NaN is 0. -/
def clampUnit (v : XR) : Q :=
  match v with
  | .nan _ => qInt 0
  | .inf neg => if neg then qInt 0 else qInt 1
  | .zero _ => qInt 0
  | .fin q => if q.num ≤ 0 then qInt 0 else if qLe (qInt 1) q then qInt 1 else q

def qPow (a : Q) (n : Nat) : Q := ⟨a.num ^ n, a.den ^ n⟩

/-- 255 times the sRGB encoding of a value in [0, 1], rounded to nearest even (R154): above the linear part code k is reached where
x^5 meets ((k - 0.5 + 14.025)/269.025)^12, a tie going to an even code. -/
def encodeS (x : Q) : Nat :=
  if qLe x ⟨31308, 10000000⟩ then (qRne (qMul x ⟨255 * 1292, 100⟩)).toNat
  else
    let x5 := qPow x 5
    ((List.range 256).filter (fun (k : Nat) =>
      let t := qPow ⟨1000 * ((k : Nat) : Int) + 13525, 269025⟩ 12
      k ≠ 0 && (qLt t x5 || (qEq t x5 && k % 2 == 0)))).length

/-- How channel `i` of a format is stored: an FP format, or an 8-bit normalised code, linear 0 or sRGB 1. -/
inductive ChFmt where
  | fp (c : Nat)
  | n8 (srgb : Bool)
  deriving DecidableEq, Repr

/-- The channels a format stores. -/
def chFmts (cfmt : Nat) : List ChFmt :=
  match cfmt with
  | 0 => [.fp 9, .fp 9, .fp 9, .fp 9]
  | 1 => [.fp 10, .fp 10, .fp 10, .fp 10]
  | 2 => [.n8 false, .n8 false, .n8 false, .n8 false]
  | 3 => [.n8 true, .n8 true, .n8 true, .n8 false]
  | 4 => [.fp 10]
  | _ => [.fp 10, .fp 10]

/-- A channel encoded by the rules that follow the table of R154. -/
def encodeCh (f : ChFmt) (v : XR) : Nat :=
  match f with
  | .fp c => (narrow c v 0 false 0).1
  | .n8 false => (qRne (qMul (clampUnit v) (qInt 255))).toNat
  | .n8 true => encodeS (clampUnit v)

/-- Codes of channels packed from bit 0 upward. -/
def packCh : List (ChFmt × Nat) → Nat
  | [] => 0
  | (f, v) :: t => v + 2 ^ (match f with | .fp c => fmtBits c | .n8 _ => 8) * packCh t

/-- A pixel from four FP32 codes (R153, R154, R352). -/
def encodePixel (cfmt : Nat) (vals : List Nat) : Nat :=
  packCh ((chFmts cfmt).zip vals |>.map (fun e => (e.1, encodeCh e.1 (valueOf 10 e.2))))

/-- R236 on exact values. -/
def xMinMax (max : Bool) (a b : XR) : XR :=
  if xIsSig a || xIsSig b || (xIsNan a && xIsNan b) then .nan false
  else if xIsNan a then b
  else if xIsNan b then a
  else
    let k := xCmp a b
    if k = 0 then (if xNeg a != max then a else b) else if (k < 0) != max then a else b

/-- A channel of a fixed blend: source, source alpha, current value (R154). -/
def blendVal (op : Nat) (s sA d : XR) : XR :=
  let rest := (xAdd (.fin (qInt 1)) (xNegate sA)).1
  match op with
  | 0 => s
  | 1 => (xAdd s d).1
  | 2 => (xAdd (xMul s sA).1 (xMul d rest).1).1
  | 3 => (xAdd s (xMul d rest).1).1
  | 4 => xMinMax false s d
  | _ => xMinMax true s d

/-- A pixel after a fixed blend of four FP32 codes over it (R154). -/
def blendPixel (cfmt op old : Nat) (src : List Nat) : Nat :=
  let sA := valueOf 10 ((src[3]?).getD 0)
  let ds := decodePixel cfmt old
  packCh ((List.range (chFmts cfmt).length).map (fun i =>
    let f := ((chFmts cfmt)[i]?).getD (.fp 10)
    let s := valueOf 10 ((src[i]?).getD 0)
    let d := (ds[i]?).getD (.x (.zero false))
    (f, settle (fun p hi => encodeCh f (blendVal op s sA (d.end_ p hi))) precisions)))

/-- A weighted sum of channels over 65,536, rounded once to FP32; zero weights are omitted, and a sum of negative zeros alone is one (R228, R354). -/
def filterCh (terms : List (Nat × Ch)) : Nat :=
  let sum (p : Nat) (hi : Bool) : XR :=
    match (terms.filter (fun t => t.1 ≠ 0)).map (fun t => (xMul (.fin ⟨t.1, 65536⟩) (t.2.end_ p hi)).1) with
    | [] => .zero false
    | x :: xs => xs.foldl (fun a y => (xAdd a y).1) x
  settle (fun p hi => (narrow 10 (sum p hi) 0 false 0).1) precisions

end Sys2Proof.Machine
end

