-- ==== Sys2Proof/Machine/Tasks.lean ====
section
/-! DEFINITION. Tasks: control blocks, dependences, ready queues, the parts of a task on its worker, faults and decisions (R104 to R120, R379). -/
namespace Sys2Proof.Machine

/-! ## Task control blocks (R109) -/

/-- A number of a control block, read at the home of its line after the regions' dirty bytes of it. -/
def tcbGet (s : State) (pa off n : Nat) : Nat × State :=
  let s := recallOwners (recallRegions s (pa / 128)) 192 (pa / 128)
  (physNat s (pa + off) n, s)

/-- A `DEVICE`-scope write of a control block. -/
def tcbPut (s : State) (pa off n v : Nat) : State := deviceWrite s 192 (pa + off) (leBytes n v)

/-- The word with DEP, STATE, ARMED, PRIO, RQ, RETRIES and OVERDEC changed in one step. -/
def tcbWord (s : State) (pa : Nat) (f : Nat → Nat) : State :=
  let r := tcbGet s pa 8 8
  tcbPut r.2 pa 8 8 (f r.1)

def wDep (w : Nat) : Nat := field w 0 32
def wState (w : Nat) : Nat := field w 32 3
def wArmed (w : Nat) : Bool := bit w 35
def wPrio (w : Nat) : Nat := field w 36 2
def wRq (w : Nat) : Nat := field w 38 5
def setTaskState (s : State) (pa st : Nat) : State := tcbWord s pa (fun w => setField w 32 3 st)

/-- Whether a reserved bit of a control block is set (R109, R110). -/
def tcbReserved (s : State) (pa : Nat) : Bool :=
  let w (i : Nat) : Nat := physNat s (pa + 8 * i) 8
  field (w 0) 57 7 ≠ 0 || field (w 1) 47 17 ≠ 0 || field (w 2) 57 7 ≠ 0 || field (w 3) 26 6 ≠ 0 || field (w 6) 57 7 ≠ 0 || field (w 7) 15 49 ≠ 0

/-- The physical address of a control block as the task unit reaches it for a read and a write; none where it cannot. -/
def tcbPa (s : State) (asid va : Nat) : Option Nat :=
  if va % 64 ≠ 0 then none
  else match translateHub s asid va true with
    | .ok pa _ => if poisoned s pa 64 then none else some pa
    | _ => none

/-! ## Ready queues (R114) -/

/-- The LINK word of a task in a ready queue names the one behind it. -/
def linkReady (s : State) (t : ReadyTask) (next : BitVec 57) : State :=
  (hubWrite s (s.launch t.launch).asid.toNat (t.tcb.toNat + 0x30) (leBytes 8 next.toNat)).getD s

/-- What stands behind a task in a queue that holds it. -/
def nextIn (q : List ReadyTask) (t : ReadyTask) : Option (Option ReadyTask) :=
  match q.dropWhile (fun e => e ≠ t) with | _ :: rest => some rest.head? | [] => none

/-- A ready queue changed: the LINK word of each task in it names the one behind it, 0 at the end. -/
def setReady (s : State) (region prio : Nat) (q : List ReadyTask) : State :=
  let old := tgetD (s.region region).ready prio []
  let s := q.foldl (fun s t => if nextIn old t = nextIn q t then s else linkReady s t (((nextIn q t).getD none).elim 0 (·.tcb))) s
  s.modRegion region (fun r => { r with ready := tput r.ready prio q })

/-- A task enters the ready queue of its PRIO behind those of an earlier READY time, and of the same one and a lower index. (DEDUCED, log 26.) -/
def appendReady (s : State) (region prio : Nat) (tcb : BitVec 57) (launch : Nat) : State :=
  let q := tgetD (s.region region).ready prio []
  let t : ReadyTask := { tcb, launch, at_ := s.time / 40 }
  let ahead := q.takeWhile (fun e => e.at_ < t.at_ || e.tcb.toNat ≤ tcb.toNat)
  setReady s region prio (ahead ++ [t] ++ q.drop ahead.length)

/-- Tasks made READY together by a launch, in ascending index (R113, R114). -/
def makeReady (s : State) (launch core : Nat) (ts : List (BitVec 57 × Nat)) : State :=
  let sorted := ts.foldl (fun l x => l.takeWhile (fun y => y.1.toNat ≤ x.1.toNat) ++ [x] ++ l.dropWhile (fun y => y.1.toNat ≤ x.1.toNat)) []
  sorted.foldl (fun s t =>
    let r := tcbGet s t.2 8 8
    let region := if wRq r.1 = 31 then regionOf core else wRq r.1
    let s := setTaskState r.2 t.2 1
    let s := { s with cor := { s.cor with tcbLaunch := s.cor.tcbLaunch.filter (fun e => !(e.1 = t.1 && e.2.1 = (s.launch launch).asid)) } }
    appendReady s region (wPrio r.1) t.1 launch) s

/-! ## Dependences (R112) -/

/-- `TaskArm`: none where it must trap; the task, if it became READY. -/
def armTask (s : State) (launch : Nat) (tcb : BitVec 57) (pa : Nat) : Option (State × Bool) :=
  let r := tcbGet s pa 8 8
  let w := r.1
  if wState w ≠ 0 ∨ wArmed w ∨ (24 ≤ wRq w ∧ wRq w ≤ 30) ∨ tcbReserved r.2 pa then none
  else
    let s := tcbPut r.2 pa 8 8 (w + 2 ^ 35)
    if wDep w = 0 then some (s, true)
    else some ({ s with cor := { s.cor with tcbLaunch := s.cor.tcbLaunch ++ [(tcb, (s.launch launch).asid, launch)] } }, false)

/-- `DecDep`: the state after it, and whether the task became READY. -/
def decDep (s : State) (pa : Nat) : State × Bool :=
  let r := tcbGet s pa 8 8
  let w := r.1
  let s := if wDep w = 0 then
      let s := tcbPut r.2 pa 8 8 (setField w 46 1 1)
      { s with cor := { s.cor with overdec := true } }
    else tcbPut r.2 pa 8 8 (w - 1)
  (s, wDep w ≤ 1 && wArmed w && wState w == 0)

/-- The addresses of the active lanes checked as for a load (R112): their control blocks, in lane order. -/
def taskAccesses (cx : Ctx) (s : State) (k : List (Nat × BitVec 57 × Nat) → State → Res) : Res :=
  let eas := cx.act.map (fun l => (l, cx.a .i64 l))
  let high := (eas.filter (fun e => 2 ^ 57 ≤ e.2)).map (·.1)
  let mis := (eas.filter (fun e => e.2 % 64 ≠ 0)).map (·.1)
  if !high.isEmpty then accessTrap tACCESS_VIOLATION false eas high
  else if !mis.isEmpty then cx.trapSome tILLEGAL_OPERAND mis
  else checkGlobal cx s eas 64 false .active (fun acc =>
    let bad := (acc.filter (fun a => poisoned s a.2.1 64)).map (·.1)
    if !bad.isEmpty then accessTrap tMACHINE_CHECK false eas bad
    else withRelease cx s true 3 cx.act (fun s =>
      k (acc.map (fun a => (a.1, BitVec.ofNat 57 (((eas.find? (fun e => e.1 = a.1)).map (·.2)).getD 0), a.2.1))) s))

def execTaskarm (x : XOp) (s : State) : Out :=
  .next (issue x { a := 2 } (fun cx s =>
    let launch := (s.group cx.gid).launch
    taskAccesses cx s (fun ts s =>
      let r := ts.foldl (fun (p : State × List Nat) t =>
        match armTask p.1 launch t.2.1 t.2.2 with
        | some (s, ready) => (if ready then makeReady s launch cx.k [t.2] else s, p.2)
        | none => (p.1, p.2 ++ [t.1])) (s, [])
      if r.2.isEmpty then .done r.1 else cx.trapSome tILLEGAL_OPERAND r.2)) s)

def execTaskarmDec (x : XOp) (s : State) : Out :=
  .next (issue x { a := 2 } (fun cx s =>
    let launch := (s.group cx.gid).launch
    taskAccesses cx s (fun ts s =>
      .done (ts.foldl (fun s t =>
        let r := decDep s t.2.2
        if r.2 then makeReady r.1 launch cx.k [t.2] else r.1) s))) s)

/-! ## Faulted tasks (R117, R118) -/

def State.modTask (s : State) (gid c : Nat) (f : TaskCtx → TaskCtx) : State := s.modCoil gid c (fun co => { co with task := co.task.map f })

/-- Whether WDOG does not count a coil: it is parked, or reads its loop record (R104, R200). -/
def Coil.paused (co : Coil) : Bool := co.parked || (match co.task with | some t => t.reading | none => false)

/-- A coil parked at a time and a cycle of its core: WDOG has not counted it since then, or since it was parked before (R104, R200). -/
def Coil.park (co : Coil) (now cycle : Nat) : Coil :=
  { co with parked := true, parkedAt := now, parkedFrom := if co.paused then co.parkedFrom else cycle }

/-- A coil parked: it issues nothing and waits for a task (R104). -/
def parkCoil (s : State) (gid c : Nat) : State :=
  s.modCoil gid c (fun co =>
    { (co.park s.time (coreCycles s (s.group gid).core)).mapLanes 0xFFFFFFFF (fun t => { t with intrap := false }) with task := none, turnOver := true, emitting := none })

/-- A worker no longer parked: its threads' WDOG counts go on from where they stood (R104, R200). -/
def Coil.unpark (co : Coil) (cycle : Nat) : Coil :=
  { co.mapLanes 0xFFFFFFFF (fun t => { t with wdogFrom := t.wdogFrom + (cycle - co.parkedFrom) }) with parked := false, parkedFrom := cycle }

/-- The record of a fault in the control block, at once, and the job fault counter at J - 8. -/
def writeFault (s : State) (t : TaskCtx) (code part iter : Nat) : State :=
  let l := s.launch t.launch
  let s := match tcbPa s l.asid.toNat t.tcb.toNat with
    | some pa =>
      let r := tcbGet s pa 0x18 8
      tcbPut r.2 pa 0x18 8 (setField (setField (setField r.1 16 8 code) 24 2 part) 32 32 iter)
    | none => postFree s 5 0
  if l.jcnt = 0 then s else addCounter s l.asid.toNat ((l.jcnt.toNat + 2 ^ 57 - 8) % 2 ^ 57)

/-- STATE := FAULTED, where the control block can be written. -/
def markFaulted (s : State) (t : TaskCtx) : State :=
  match tcbPa s (s.launch t.launch).asid.toNat t.tcb.toNat with
  | some pa => setTaskState s pa 4
  | none => postFree s 5 0

/-- The fault entered in the region's list of 64, and the coil parked; while the list is full the coil stays parked with its task RUNNING (R118). -/
def enterFault (s : State) (gid c : Nat) : State :=
  let r := regionOf (s.group gid).core
  match (s.coil gid c).task with
  | some t =>
    if (s.region r).faults.length < 64 then
      parkCoil ((markFaulted s t).modRegion r (fun g => { g with faults := g.faults ++ [(t.tcb, t.launch)] })) gid c
    else if t.faulted then s
    else (s.modCoil gid c (fun co => co.park s.time (coreCycles s (s.group gid).core))).modTask gid c (fun t => { t with faulted := true, reading := false })
  | none => s

/-- A task becomes FAULTED other than by `MACHINE_CHECK`. -/
def faultTask (s : State) (gid c code part iter : Nat) : State :=
  match (s.coil gid c).task with
  | some t => enterFault (writeFault s t code part iter) gid c
  | none => s

/-- A task of a coil that takes `MACHINE_CHECK`: its record, and FAULTED without an entry (R117, R118). -/
def machineCheckTask (s : State) (gid c : Nat) : State :=
  match (s.coil gid c).task with
  | some t =>
    if t.faulted ∨ !(s.coil gid c).mcheck then s
    else (markFaulted (writeFault s t 0x10 t.part t.iter) t).modTask gid c (fun t => { t with faulted := true, ending := false, reading := false })
  | none => s

/-- A coil that `MACHINE_CHECK` has stopped has its task FAULTED, or the entry that waited for room in the fault list is made (R117, R118). -/
def execTaskFaultListEntry (gid coil : Nat) (s : State) : Out :=
  .next (match (s.coil gid coil).task with
    | some t => if (s.coil gid coil).stopped then machineCheckTask s gid coil else if t.faulted then enterFault s gid coil else s
    | none => s)

/-! ## Parts (R107) -/

/-- `s` registers of a coil written and marked full. -/
def Coil.putS (co : Coil) (n : Nat) (v : W32) : Coil := { co with s := tput co.s n v, sEmpty := co.sEmpty.erase n, bad := co.bad.erase (8192 + n) }

/-- All 32 threads at an offset from the CODE of the task's launch. -/
def runPart (s : State) (gid c launch : Nat) (off : W32) : State :=
  let pc : W64 := (s.launch launch).rec_.code.setWidth 64 + off.setWidth 64
  let stop := (s.cluster (s.group gid).cluster).stopping || s.mod.retiring.contains (s.group gid).core
  s.modCoil gid c (fun co => { co.mapLanes 0xFFFFFFFF (fun t => { t with pc, st := .runnable }) with turnOver := true, stickyCount := 0, atBoundary := stop })

/-- The next part of a task at its iteration: a kernel iteration, then the epilogue, then the end. -/
def nextPart (s : State) (gid c : Nat) : State :=
  match (s.coil gid c).task with
  | some t =>
    let s := s.modCoil gid c (fun co => co.putS t.itreg (BitVec.ofNat 32 t.iter))
    if t.iter < t.trip then runPart (s.modTask gid c (fun t => { t with part := 1 })) gid c t.launch t.ker
    else if t.hasEpi then runPart (s.modTask gid c (fun t => { t with part := 2 })) gid c t.launch t.epi
    else s.modTask gid c (fun t => { t with ending := true })
  | none => s

/-- The end of a part. -/
def endPart (s : State) (gid c : Nat) : State :=
  match (s.coil gid c).task with
  | some t =>
    if t.part = 0 then nextPart s gid c
    else if t.part = 1 then nextPart (s.modTask gid c (fun t => { t with iter := t.iter + 1 })) gid c
    else s.modTask gid c (fun t => { t with ending := true })
  | none => s

/-- The merge entry whose failed replay or walk a reading worker has not taken yet. -/
def taskFailed (s : State) (asid vpn gid c : Nat) : Option (Nat × Merge) :=
  s.xlat.merge.find? (fun e => e.2.asid = asid && e.2.vpn = vpn && e.2.fail ≠ 0 && e.2.att.contains (.coil gid c 0 0))

/-- A worker's task waits on the page of its loop record (R106): where the merge table is full, the miss is counted once and made again. -/
def taskMiss (s : State) (asid vpn gid c : Nat) : State :=
  let full := (mergeOf s asid vpn).isNone && (freeIndex s.xlat.merge 4096).isNone
  if full && (s.coil gid c).missFull then s
  else (attachMiss s asid vpn 3 (s.group gid).core (.coil gid c 0 0)).modCoil gid c (fun co => { co with missFull := full })

/-- The loop record of a worker's task read and checked, and its first part begun (R106, R107). -/
def beginTask (s : State) (gid c : Nat) : State :=
  match (s.coil gid c).task with
  | some t =>
    if !t.reading then s
    else
      let asid := (s.launch t.launch).asid.toNat
      match tcbPa s asid t.tcb.toNat with
      | none => faultTask s gid c tACCESS_VIOLATION 0 0
      | some pa =>
        let (loop, s) := tcbGet s pa 0 8
        if loop % 32 ≠ 0 then faultTask s gid c tILLEGAL_OPERAND 0 0
        else match taskFailed s asid (loop / 4096) gid c with
          | some (i, m) =>
            let att := m.att.filter (fun a => a ≠ .coil gid c 0 0)
            let s := { s with xlat := { s.xlat with merge := if att.isEmpty then tdel s.xlat.merge i else tput s.xlat.merge i { m with att } } }
            faultTask s gid c m.fail 0 0
          | none =>
            match (if (mergeOf s asid (loop / 4096)).isSome then .miss (loop / 4096) else translateHub s asid loop false) with
            | .miss v => taskMiss s asid v gid c
            | .ok la _ =>
              if poisoned s la 32 then
                let pc := ((s.coil gid c).thread 0).pc
                machineCheckTask (raiseTrap s gid c 0xFFFFFFFF pc pc { code := tMACHINE_CHECK, addrs := List.replicate 32 (BitVec.ofNat 64 loop) }) gid c
              else
                let s := recallRegions s (la / 128)
                let w (i : Nat) : Nat := physNat s (la + 8 * i) 8
                let pro := field (w 0) 0 32
                let ker := field (w 0) 32 32
                let epi := field (w 1) 0 32
                let argreg := field (w 2) 8 8
                if pro % 8 ≠ 0 ∨ ker % 8 ≠ 0 ∨ epi % 8 ≠ 0 ∨ 252 < argreg ∨ field (w 2) 18 46 ≠ 0 ∨ w 3 ≠ 0 then faultTask s gid c tILLEGAL_OPERAND 0 0
                else
                  let itreg := field (w 2) 0 8
                  let arg (j : Nat) : W32 := BitVec.ofNat 32 (physNat s (pa + 0x20 + 4 * j) 4)
                  let s := s.modCoil gid c (fun co => co.unpark (coreCycles s (s.group gid).core))
                  let s := s.modCoil gid c (fun co => ((List.range 4).foldl (fun co j => co.putS (argreg + j) (arg j)) co).putS itreg 0)
                  let s := acquireAt (setTaskState s pa 2) (s.group gid).core gid 3
                  let s := s.modTask gid c (fun t => { t with
                    reading := false, part := 0, iter := 0, pro := BitVec.ofNat 32 pro, ker := BitVec.ofNat 32 ker, epi := BitVec.ofNat 32 epi,
                    trip := field (w 1) 32 32, itreg, hasEpi := bit (w 2) 17 })
                  if bit (w 2) 16 then runPart s gid c t.launch (BitVec.ofNat 32 pro) else nextPart s gid c
            | _ => faultTask s gid c tACCESS_VIOLATION 0 0
  | none => s

/-- The parked workers of a launch in a region: when parked, core, group, coil. -/
def parkedIn (s : State) (region launch : Nat) : List (Nat × Nat × Nat × Nat) :=
  s.cor.groups.flatMap (fun (e : Nat × Group) =>
    if e.2.launch ≠ launch ∨ regionOf e.2.core ≠ region ∨ e.2.saved ∨ (s.cluster e.2.cluster).stopping ∨ s.mod.retiring.contains e.2.core then []
    else (List.range e.2.coils.length).filterMap (fun c =>
      let co := (e.2.coils[c]?).getD {}
      if co.parked ∧ !co.stopped ∧ co.task.isNone then some (co.parkedAt, e.2.core, e.1, c) else none))

/-- The longest-parked worker; ties by core, then by coil (R115). -/
def pickWorker (l : List (Nat × Nat × Nat × Nat)) : Option (Nat × Nat) :=
  let less (x y : Nat × Nat × Nat × Nat) : Bool :=
    x.1 < y.1 || (x.1 == y.1 && (x.2.1 < y.2.1 || (x.2.1 == y.2.1 && (x.2.2.2 < y.2.2.2))))
  (l.foldl (fun (b : Option (Nat × Nat × Nat × Nat)) x => match b with | some y => if less x y then some x else b | none => some x) none).map
    (fun x => (x.2.2.1, x.2.2.2))

/-- The task and worker that a task unit starts next: by priority, then queue order, passing over tasks whose launch has no parked worker (R115). -/
def pickTask (s : State) (region : Nat) : Option (Nat × ReadyTask × Nat × Nat) :=
  [3, 2, 1, 0].findSome? (fun p => (tgetD (s.region region).ready p []).findSome? (fun e =>
    (pickWorker (parkedIn s region e.launch)).map (fun w => (p, e, w.1, w.2))))

/-- Workers of a region whose loop record waits for no page although it has not been read: their miss found the merge table full (R106, R244). -/
def unread_ (s : State) (region : Nat) : List (Nat × Nat) :=
  s.cor.groups.flatMap (fun (e : Nat × Group) => if regionOf e.2.core ≠ region ∨ e.2.saved then [] else
    (List.range e.2.coils.length).filterMap (fun c => match ((e.2.coils[c]?).getD {}).task with
      | some t => if t.reading ∧ !(s.xlat.merge.any (fun m => m.2.att.contains (.coil e.1 c 0 0))) then some (e.1, c) else none
      | none => none))

/-- A task unit starts one task (R115); the loop records that its workers could not ask for are asked for again first. -/
def execTaskStart (region : Nat) (s : State) : Out :=
  let s := (unread_ s region).foldl (fun s x => beginTask s x.1 x.2) s
  .next (match pickTask s region with
    | some (p, e, gid, c) =>
      let s := setReady s region p ((tgetD (s.region region).ready p []).erase e)
      let t : TaskCtx := { tcb := e.tcb, launch := e.launch, part := 0, iter := 0, pro := 0, ker := 0, epi := 0, trip := 0, itreg := 0, hasEpi := false, reading := true }
      beginTask (s.modCoil gid c (fun co => { co with task := some t, parked := false })) gid c
    | none => s)

/-! ## `TASKEND` and the completion of a task (R104, R108, R379) -/

def taskendBody (abort : Bool) (cx : Ctx) (s : State) : Res :=
  let bad := pendingError cx.co cx.act
  let inTrap := cx.act.filter (fun l => (cx.co.thread l).intrap)
  if cx.lanes ≠ 0xFFFFFFFF then cx.trapAll tILLEGAL_CONVERGENCE
  else if !bad.isEmpty then cx.pendingTrap bad
  else match cx.co.task with
    | some t =>
      if abort then
        let code := match inTrap with | l :: _ => (cx.co.thread l).trapcode.toNat | [] => 0
        .done (faultTask s cx.gid cx.c code t.part t.iter)
      else if !inTrap.isEmpty then cx.trapSome tILLEGAL_OPERAND inTrap
      else .done (endPart s cx.gid cx.c)
    | none =>
      if abort then cx.trapAll tILLEGAL_OPERAND
      else if !inTrap.isEmpty then cx.trapSome tILLEGAL_OPERAND inTrap
      else .done (parkCoil s cx.gid cx.c)

def execTaskend (x : XOp) (s : State) : Out := .next (issue x {} (taskendBody false) s)
def execTaskendAbort (x : XOp) (s : State) : Out := .next (issue x {} (taskendBody true) s)

/-- The addresses of a successor list, none for one that cannot be read. -/
def successors (s : State) (asid pa : Nat) : List (Option Nat) :=
  let list := physNat s (pa + 0x10) 8 % 2 ^ 57
  (List.range (physNat s (pa + 0x18) 2)).map (fun i => hubRead s asid (list + 8 * i) 8)

/-- One batch of decrements in list order: a task listed twice becomes READY once; an address that is misaligned or faults is skipped, with a SERVICE record (R112, R113). -/
def decBatch (s : State) (launch core : Nat) (ts : List (Option Nat)) : State :=
  let asid := (s.launch launch).asid.toNat
  let r := ts.foldl (fun (p : State × List (BitVec 57 × Nat)) t =>
    match t.bind (fun a => if a < 2 ^ 57 then (tcbPa p.1 asid a).map (fun pa => (a, pa)) else none) with
    | some (a, pa) =>
      let d := decDep p.1 pa
      (d.1, if d.2 && !p.2.any (fun q => q.2 == pa) then p.2 ++ [(BitVec.ofNat 57 a, pa)] else p.2)
    | none => (postFree p.1 5 0, p.2)) (s, [])
  makeReady r.1 launch core r.2

/-- Whether a copy tag that a coil kicked is outstanding: a copy's, or that of an `ACDRAIN` (R107, R392). -/
def coilBusy (s : State) (gid coil : Nat) : Bool :=
  s.cor.copies.any (fun e => match e.2.owner with | some (g, c, _) => g = gid && c = coil | none => false)
    || (s.group gid).mx.queue.any (fun e => e.drain.any (fun d => d.coil == coil))

/-- `CompleteTask` (R108), once every copy that the coil kicked has completed. -/
def execCompleteTask (gid coil : Nat) (s : State) : Out :=
  .next (match (s.coil gid coil).task with
    | some t =>
      if !t.ending ∨ coilBusy s gid coil = true ∨ (s.coil gid coil).stopped ∨ (s.group gid).saved then s
      else
        let k := (s.group gid).core
        let asid := (s.launch t.launch).asid.toNat
        let s := releaseAt s k 3
        match tcbPa s asid t.tcb.toNat with
        | some pa =>
          let s := setTaskState s pa 3
          let s := decBatch s t.launch k (successors s asid pa)
          let w := physNat s (pa + 0x38) 8
          parkCoil (if bit w 0 then engineFlag s (field w 1 8) (field w 9 6) 1 else s) gid coil
        | none => parkCoil (postFree s 5 0) gid coil
    | none => s)

/-! ## Decisions of KC1 (R119, R120) -/

/-- A TCB leaves every ready queue and fault list of its address space, and the tasks that KC1 has left. -/
def unlistTask (s : State) (asid : W16) (tcb : BitVec 57) : State :=
  let mine (e : BitVec 57 × Nat) : Bool := e.1 = tcb && (s.launch e.2).asid = asid
  let s := s.cor.regions.foldl (fun s r => r.2.ready.foldl (fun s q =>
    if q.2.any (fun e => mine (e.tcb, e.launch)) then setReady s r.1 q.1 (q.2.filter (fun e => !mine (e.tcb, e.launch))) else s) s) s
  { s with cor := { s.cor with
    regions := s.cor.regions.map (fun (r : Nat × Region) => (r.1, { r.2 with faults := r.2.faults.filter (fun e => !mine e) }))
    tcbLeft := s.cor.tcbLeft.filter (fun e => !mine e)
    tcbLaunch := s.cor.tcbLaunch.filter (fun e => !(e.1 = tcb && e.2.1 = asid)) } }

/-- `CancelFrom` over a list of control blocks still to visit, in depth-first order. -/
def cancelFrom (asid : W16) : Nat → List (Option Nat) → State → State
  | 0, _, s => s
  | _, [], s => s
  | fuel + 1, t :: rest, s =>
    match t.bind (fun a => if a < 2 ^ 57 then (tcbPa s asid.toNat a).map (fun pa => (a, pa)) else none) with
    | some (a, pa) =>
      let (w, s) := tcbGet s pa 8 8
      let check := physNat s (pa + 0x1A) 1 == 0x10
      if wState w = 0 ∨ wState w = 1 ∨ (wState w = 4 ∧ !check) then
        let s := setTaskState (unlistTask s asid (BitVec.ofNat 57 a)) pa 5
        cancelFrom asid fuel (successors s asid.toNat pa ++ rest) s
      else cancelFrom asid fuel rest s
    | none => cancelFrom asid fuel rest (postFree s 5 0)

/-- A decision on the oldest entry of a region's fault list, which leaves it; an empty list or a region above 23 sets BADWR. -/
def decideTask (s : State) (region : Nat) (f : State → BitVec 57 → Nat → State) : State :=
  match (s.region region).faults with
  | (tcb, launch) :: rest => if 23 < region then { s with cor := { s.cor with taskBad := true } }
    else f (s.modRegion region (fun r => { r with faults := rest })) tcb launch
  | [] => { s with cor := { s.cor with taskBad := true } }

def execTaskDecideRetry (region : Nat) (s : State) : Out :=
  .next (decideTask s region (fun s tcb launch =>
    match tcbPa s (s.launch launch).asid.toNat tcb.toNat with
    | some pa =>
      let (w, s) := tcbGet s pa 8 8
      let s := tcbPut s pa 8 8 (setField (setField w 32 3 1) 43 3 (min 7 (field w 43 3 + 1)))
      appendReady s (if wRq w = 31 then region else wRq w) (wPrio w) tcb launch
    | none => postFree s 5 0))

def execTaskDecideCancelSubgraph (region : Nat) (s : State) : Out :=
  .next (decideTask s region (fun s tcb launch => cancelFrom (s.launch launch).asid (2 ^ 40) [some tcb.toNat] s))

/-- The task stays FAULTED, and its launch's pool no longer waits for it (R119). -/
def execTaskDecideLeave (region : Nat) (s : State) : Out := .next (decideTask s region (fun s tcb launch => { s with cor := { s.cor with tcbLeft := s.cor.tcbLeft ++ [(tcb, launch)] } }))

/-! ## The pool of a launch (R105) and its cancel (R111) -/

/-- Whether no task of a launch is READY, RUNNING, or FAULTED and undecided. -/
def noTasks (s : State) (launch : Nat) : Bool :=
  s.cor.regions.all (fun r => r.2.ready.all (fun q => q.2.all (fun e => e.launch ≠ launch)) && r.2.faults.all (fun e => e.2 ≠ launch))
    && s.cor.groups.all (fun g => g.2.launch ≠ launch || g.2.coils.all (fun co => co.task.isNone))

/-- Whether every cluster of a launch has been placed and none of its groups is saved. -/
def allPlaced (s : State) (launch : Nat) : Bool :=
  let l := s.launch launch
  l.rec_.gx * l.rec_.gy * l.rec_.gz ≤ l.next && l.saved.isEmpty && s.cor.groups.all (fun g => g.2.launch ≠ launch || !g.2.saved)

/-- The pool closes: the parked coils complete. -/
def execTaskPoolClose (launch : Nat) (s : State) : Out :=
  let mine := s.cor.groups.filter (fun g => g.2.launch = launch)
  .next (if !allPlaced s launch ∨ !noTasks s launch ∨ !mine.all (fun g => g.2.coils.all (fun co => co.parked || co.complete)) then s
    else mine.foldl (fun s g => (List.range g.2.coils.length).foldl (fun s c =>
      if (s.coil g.1 c).parked then endThreads (s.modCoil g.1 c (fun co => { co with parked := false })) g.1 c (List.range 32) false else s) s) s)

/-- The tasks of a launch that a cancel ends: STATE := CANCELLED, but for one faulted by `MACHINE_CHECK` (R111). -/
def cancelTasks (s : State) (launch : Nat) : State :=
  let asid := (s.launch launch).asid
  let ready := s.cor.regions.flatMap (fun r => r.2.ready.flatMap (fun q => q.2.map (fun e => (e.tcb, e.launch))) ++ r.2.faults)
  let running := s.cor.groups.flatMap (fun (g : Nat × Group) => g.2.coils.filterMap (fun co => co.task.map (fun t => (t.tcb, t.launch))))
  let waiting := s.cor.tcbLaunch.filterMap (fun e => if e.2.2 = launch then some (e.1, launch) else none)
  let mine := (ready ++ running ++ waiting ++ s.cor.tcbLeft).filter (fun e => e.2 = launch)
  mine.foldl (fun s e =>
    let s := unlistTask s asid e.1
    match tcbPa s asid.toNat e.1.toNat with
    | some pa =>
      let (w, s) := tcbGet s pa 8 8
      if wState w = 4 ∧ physNat s (pa + 0x1A) 1 = 0x10 then s else setTaskState s pa 5
    | none => postFree s 5 0) s

end Sys2Proof.Machine
end

