-- ==== Sys2Proof/Machine/Groups.lean ====
section
/-! DEFINITION. The start of a group: its state before its first instruction and the reading of its parameter block (R83, R206). -/
namespace Sys2Proof.Machine

/-- The word of a parameter block, or the trap code and address for a word that cannot be read, or a page to wait for (R83). -/
inductive ParamWord where
  | word (w : W32)
  | bad (code va : Nat)
  | wait (vpn : Nat)
  deriving DecidableEq, Repr

/-- Whether the replay or the walk of a page has failed for a group that reads its block: the trap code, or 0. -/
def paramFail (s : State) (gid asid vpn : Nat) : Nat :=
  match s.xlat.merge.find? (fun e => e.2.asid = asid && e.2.vpn = vpn && e.2.fail ≠ 0 && e.2.att.contains (.param gid)) with
  | some (_, m) => m.fail
  | none => 0

/-- Word `i` of a group's parameter block, an `RLX` load at `GROUP` scope. -/
def paramWord (s : State) (gid i : Nat) : ParamWord :=
  let l := s.launchOf gid
  let va := l.rec_.param.toNat + 4 * i
  let asid := l.asid.toNat
  let k := (s.group gid).core
  if va < 2 ^ 57 ∧ paramFail s gid asid (va / 4096) ≠ 0 then .bad (paramFail s gid asid (va / 4096)) va
  else match translate s (lookTlb s k asid) asid va false false .active with
    | .ok pa leaf => if loadBad s k leaf 1 pa 4 then .bad tMACHINE_CHECK va else .word (BitVec.ofNat 32 (loadNat s k leaf 1 pa 4))
    | .miss v => if paramFail s gid asid v ≠ 0 then .bad (paramFail s gid asid v) va else .wait v
    | _ => .bad tACCESS_VIOLATION va

/-- A group leaves the entries whose failure it has taken. -/
def leaveParams (s : State) (gid : Nat) : State :=
  let merge := s.xlat.merge.map (fun (e : Nat × Merge) =>
    if e.2.fail ≠ 0 then (e.1, { e.2 with att := e.2.att.filter (fun a => a ≠ .param gid) }) else e)
  { s with xlat := { s.xlat with merge := merge.filter (fun e => e.2.fail = 0 || !e.2.att.isEmpty) } }

/-- Coil 0 of a group takes the trap of a parameter word that could not be read, at its first instruction (R83). -/
def takeParamTrap (s : State) (gid : Nat) : State :=
  match (s.group gid).paramTrap with
  | some (c, va) =>
    let pc := ((s.coil gid 0).thread 0).pc
    raiseTrap s gid 0 0xFFFFFFFF pc pc { code := c, cause := 0xFFFFFFFF, addrs := List.replicate 32 (BitVec.ofNat 64 va) }
  | none => s

/-- The loads of a block's words at `GROUP` scope leave their lines in the L1 (R83, R256). -/
def readParams (s : State) (gid n : Nat) : State :=
  let l := s.launchOf gid
  let k := (s.group gid).core
  (List.range n).foldl (fun s i =>
    match translate s (lookTlb s k l.asid.toNat) l.asid.toNat (l.rec_.param.toNat + 4 * i) false false .active with
    | .ok pa leaf => loadNote s k leaf 1 pa 4
    | _ => s) s

/-- Whether a group that has not read its block waits for a page, or can ask for one at last: its miss found the merge table full (R83, R244). -/
def paramsAsk (s : State) (gid : Nat) : Bool :=
  let g := s.group gid
  !g.started && !g.saved && !s.xlat.merge.any (fun m => m.2.att.contains (.param gid)) && (freeIndex s.xlat.merge 4096).isSome

/-- The parameter block read once: the group waits for a page, which WDOG does not count, or starts with its words in every coil and coil 0's trap, if there is one (R83). -/
def loadParams (s : State) (gid : Nat) : State :=
  let l := s.launchOf gid
  let ws := (List.range l.rec_.paramw).map (paramWord s gid)
  match ws.findSome? (fun w => match w with | .wait v => some v | _ => none) with
  | some v => attachMiss s l.asid.toNat v 0 (s.group gid).core (.param gid)
  | none =>
    let s := readParams s gid l.rec_.paramw
    let regs : Tab W32 := (List.range ws.length).filterMap (fun i => match ws[i]? with | some (ParamWord.word w) => some (i, w) | _ => none)
    let s := leaveParams s gid
    let bad := ws.findSome? (fun w => match w with | .bad c va => some (c, va) | _ => none)
    let s := s.modGroup gid (fun g => { g with started := true, params := regs, paramTrap := bad, coils := g.coils.map (fun co => { co.mapLanes 0xFFFFFFFF (fun t => { t with wdogFrom := coreCycles s (s.group gid).core }) with s := regs }) })
    if (s.coil gid 0).complete then s else takeParamTrap s gid

/-- The coils of a new group of a launch (R83, R206); those of a shading group start wave by wave (R147). -/
def newCoils (s : State) (r : LaunchRec) (core : Nat) (waves : Bool) : List Coil :=
  let pc : W64 := r.code.setWidth 64 + r.entry.setWidth 64
  (List.range r.cpg).map (fun c =>
    { threads := List.replicate 32 { pc, st := if waves then .exited else .runnable, lastIssue := 0, wdogFrom := coreCycles s core }
      granules := r.vgran, role := BitVec.ofNat 2 (field r.rolemap.toNat (2 * c) 2), complete := waves, shading := waves })

/-- A group placed on a core: its coil slots, and its start (R80, R83, R206). What happened before its launch's start happens before its loads, so the core
acquires for it first (R57, R63, R252). -/
def startGroup (s : State) (cluster launch clgroup core slot0 : Nat) (slots : List Nat) (waves : Bool) : Nat × State :=
  let gid := s.disp.nextGroup
  let r := (s.launch launch).rec_
  let g : Group := { cluster, launch, clgroup, core, slot0, slots, coils := newCoils s r core waves, started := false }
  let s := { s with disp := { s.disp with nextGroup := gid + 1 }, cor := { s.cor with groups := tput s.cor.groups gid g } }
  (gid, loadParams (acquireAt s core gid 4) gid)

end Sys2Proof.Machine
end

