-- ==== Sys2Proof/Machine/Launch.lean ====
section
/-! DEFINITION. Launches, graphs and phases as units: records and their validation, acceptance, ends and their credits, cancels, tear-downs and
containment (R81 to R94, R226, R275). -/
namespace Sys2Proof.Machine

/-! ## Launch records (R81, R84, R226) -/

/-- A record from its 256 bytes; `reserved` says that a reserved bit is set (R81). -/
def parseRec (bs : List Byte) : LaunchRec :=
  let w (i : Nat) : Nat := leNat ((bs.drop (8 * i)).take 8)
  let a (i : Nat) : BitVec 57 := BitVec.ofNat 57 (w i)
  { code := a 0, entry := BitVec.ofNat 32 (w 1), gx := field (w 2) 0 32, gy := field (w 2) 32 32, gz := field (w 3) 0 32,
    gpc := field (w 3) 32 4, cpg := field (w 3) 36 6, vgran := field (w 3) 42 6, lmem := field (w 4) 0 8, accg := field (w 4) 8 3,
    zgran := field (w 4) 11 4, spair := field (w 4) 15 2, rolemap := BitVec.ofNat 64 (w 5), trapvec := a 6, fair := bit (w 7) 0,
    inherit := bit (w 7) 1, cls := field (w 7) 2 3, prio := field (w 7) 5 4, wdog := field (w 7) 32 32,
    fslots := (List.range 8).map (fun i => BitVec.ofNat 64 (w (8 + i))), param := a 16, paramw := field (w 17) 0 7, lcnt := a 18, jcnt := a 19,
    status := a 20,
    reserved := [0, 6, 16, 18, 19, 20].any (fun i => field (w i) 57 7 ≠ 0) || field (w 1) 32 32 ≠ 0 || field (w 3) 48 16 ≠ 0
      || field (w 4) 17 47 ≠ 0 || field (w 7) 9 23 ≠ 0 || field (w 17) 7 57 ≠ 0 || (List.range 11).any (fun i => w (21 + i) ≠ 0) }

/-- A valid format slot (R226). -/
def slotValid (v : Nat) : Bool :=
  let elem := field v 0 5
  let blk := field v 5 3
  let bsf := field v 8 2
  let band := bit v 10
  let spar := field v 11 2
  elem ≤ 10 && (blk == 0 || blk == 1 || blk == 3) && bsf ≤ 2 && spar ≤ 2 && field v 13 2 ≤ 2 && ((blk == 0) == (bsf == 0)) && (!band || bsf ≠ 0)
    && (elem < 8 || (blk == 0 && bsf == 0 && !band)) && (elem ≠ 10 || spar == 0) && field v 16 48 == 0

/-- Active cores of a region (R34, R38, R95). -/
def activeCores (s : State) (region : Nat) : List Nat :=
  ((List.range 8).map (· + 8 * region)).filter (fun k => !s.mod.coreGone.contains k)

/-- Checks 2 and 3 of R84 on a record; `job` is the parent's effective job counter for a device-side child. -/
def recordStatus (s : State) (recAddr : Nat) (r : LaunchRec) (job : Option (BitVec 57)) : Option LStatus :=
  let al (a : BitVec 57) (n : Nat) : Bool := a.toNat % n == 0
  let jobOk := match job with | some j => r.jcnt == 0 || r.jcnt == j | none => true
  if r.reserved || 3 < r.cls || r.lcnt == 0 || recAddr % 256 ≠ 0 || !al r.code 4096 || r.entry.toNat % 8 ≠ 0 || !al r.trapvec 8 || !al r.param 4
      || !al r.lcnt 8 || !al r.jcnt 8 || !al r.status 8 || r.rolemap.toNat / 2 ^ (2 * r.cpg) ≠ 0 || !jobOk
      || !r.fslots.all (fun v => slotValid v.toNat) then some .formatInvalid
  else if r.gpc = 0 || 8 < r.gpc || r.cpg = 0 || 32 < r.cpg || r.vgran = 0 || 32 < r.vgran || 128 < r.lmem || 4 < r.accg || 8 < r.zgran || 2 < r.spair
      || 64 < r.paramw || 512 < r.cpg * r.vgran || !(List.range 24).any (fun g => r.gpc ≤ (activeCores s g).length) then some .launchRange
  else none

/-- Checks 4 and 5 of R84. -/
def gridStatus (r : LaunchRec) : Option LStatus :=
  if 2 ^ 24 < r.gx || 2 ^ 16 < r.gy || 2 ^ 16 < r.gz then some .launchRange
  else if r.gx * r.gy * r.gz = 0 then some .empty
  else none

/-- A record and its status under R84, in its order; a record that cannot be read has no fields. -/
def readRecord (s : State) (asid : W16) (addr : BitVec 57) (job : Option (BitVec 57)) (grid : Bool) : LaunchRec × Option LStatus :=
  match hubBytes s asid.toNat addr.toNat 256 with
  | none => ({}, some .formatInvalid)
  | some bs =>
    let r := parseRec bs
    if (hubBytes s asid.toNat r.code.toNat 1).isNone then (r, some .formatInvalid)
    else match recordStatus s addr.toNat r job with
      | some st => (r, some st)
      | none => (r, if grid then gridStatus r else none)

/-! ## Units and their counters (R80, R86, R89) -/

def statusCode : LStatus → Nat
  | .ok => 0 | .empty => 1 | .launchRange => 2 | .formatInvalid => 3 | .cancelled => 4 | .faulted => 5 | .discarded => 6

/-- A counter credited: 0 names none, and an address that cannot be written is skipped with a SERVICE record (R86). (DEDUCED, log 27.) -/
def creditAt (s : State) (asid : W16) (a : BitVec 57) : State :=
  if a = 0 then s else if a.toNat % 8 ≠ 0 then postFree s 5 0 else addCounter s asid.toNat a.toNat

/-- Words written one after another by the dispatcher; one that cannot be written is skipped with a SERVICE record (R86). -/
def dspWords (s : State) (asid : W16) (a : Nat) : List Nat → State
  | [] => s
  | w :: ws => dspWords ((if a % 8 ≠ 0 then none else hubWrite s asid.toNat a (leBytes 8 w)).getD (postFree s 5 0)) asid (a + 8) ws

/-- Every write of the cores made visible at `SYSTEM` scope (R63, R86). -/
def releaseAll (s : State) : State := (s.cor.cores.map (·.1)).foldl (fun s k => releaseAt s k 4) s

/-- Whether a launch has begun and not ended. -/
def Launch.live (l : Launch) : Bool := l.ended.isNone

def State.modGraph (s : State) (g : Nat) (f : Graph → Graph) : State := { s with disp := { s.disp with graphs := tupd s.disp.graphs g f } }
def State.modPhase (s : State) (p : Nat) (f : Phase → Phase) : State := { s with cmd := { s.cmd with phases := tupd s.cmd.phases p f } }

/-- A phase that is closed and has no live unit completes: PCNT gains 1 (R80, R86). -/
def settlePhase (s : State) (p : Nat) : State :=
  match tget s.cmd.phases p with
  | some ph =>
    if ph.closed ∧ ph.live = 0 then creditAt { s with cmd := { s.cmd with phases := tdel s.cmd.phases p } } ph.asid ph.pcnt else s
  | none => s

def phaseJoin (s : State) (p : Option Nat) : State := match p with | some p => s.modPhase p (fun ph => { ph with live := ph.live + 1 }) | none => s
def phaseLeave (s : State) (p : Option Nat) : State :=
  match p with | some p => settlePhase (s.modPhase p (fun ph => { ph with live := ph.live - 1 })) p | none => s

/-- A phase closed: the next one of its queue starts, or the queue is unmapped (R89). -/
def closePhase (s : State) (p : Option Nat) : State := match p with | some p => settlePhase (s.modPhase p (fun ph => { ph with closed := true })) p | none => s

/-- A graph whose launches have all ended completes: its report to KC0 if it has one to make, GCNT, and its phase (R72, R86, R88). -/
def settleGraph (s : State) (gi : Nat) : State :=
  match tget s.disp.graphs gi with
  | some g =>
    if g.ended ∨ !g.accepted ∨ !g.nodes.all (·.ended) ∨ (g.viaKc0 ∧ !eventRoom s 2) then s
    else
      let s := if g.viaKc0 then postNote s 2 g.qid (statusCode g.status) else s
      phaseLeave (creditAt (s.modGraph gi (fun g => { g with ended := true })) g.asid g.gcnt) g.phase
  | none => s

/-! ## The end of a launch (R85, R86) -/

/-- The tear-down in force of a launch's job. -/
def tearDownOf (s : State) (l : Launch) : Option TearDown :=
  if l.jcnt = 0 then none else s.disp.teardowns.find? (fun t => t.jcnt = l.jcnt && t.asid = l.asid)

/-- What a tear-down counts. A successor in a graph that ends `CANCELLED` because one of the job did counts if its own JCNT is the job's, and not if it is of
another job or of none: the spec does not say. (DESIGN CHOICE, log 72.) -/
def modTearDown (s : State) (l : Launch) (f : TearDown → TearDown) : State :=
  { s with disp := { s.disp with teardowns := s.disp.teardowns.map (fun t => if t.jcnt = l.jcnt ∧ t.asid = l.asid then f t else t) } }

/-- Whether a node of a graph has ended with neither `OK` nor `EMPTY`. -/
def endedBadly (s : State) (n : GNode) : Bool :=
  match n.launch with | some id => (match (s.launch id).ended with | some st => st ≠ .ok && st ≠ .empty | none => false) | none => false

/-- Nodes reached from some nodes of a graph by their successors. -/
def beneath (nodes : List GNode) : Nat → List Nat → List Nat
  | 0, l => l
  | fuel + 1, l =>
    let more := ((l.flatMap (fun i => ((nodes[i]?).map (·.succs)).getD [])).eraseDups).filter (fun j => !l.contains j)
    if more.isEmpty then l else beneath nodes fuel (l ++ more)

/-- Whether an unstarted launch of the job of launch `id` will end `CANCELLED` with it, as a successor of what has ended badly in its graph (R88, R93). -/
def jobGoesOn (s : State) (id : Nat) (l : Launch) (st : LStatus) : Bool :=
  match l.graph.bind (fun p => (tget s.disp.graphs p.1).map (fun g => (g, p.2))) with
  | some (g, i) =>
    let bad := (List.range g.nodes.length).filter (fun j => match g.nodes[j]? with | some n => endedBadly s n || n.launch == some id | none => false)
    let bad := if st = .ok ∨ st = .empty then bad.erase i else bad
    (beneath g.nodes g.nodes.length bad).any (fun j => match g.nodes[j]? with
      | some n => n.launch.isNone && !n.ended && (readRecord s g.asid n.recd none true).1.jcnt == l.jcnt
      | none => false)
  | none => false

/-- The record written before the last of the launches that the tear-down ends is credited: those of the job that were live as it was applied, and the
successors in their graphs that end with them (R93). -/
def writeTearDown (s : State) (id : Nat) (l : Launch) (st : LStatus) : State :=
  match tearDownOf s l with
  | some t =>
    if jobGoesOn s id l st || t.ids.any (fun i => i ≠ id && (s.launch i).live) then s
    else
      let s := dspWords s l.asid (l.jcnt.toNat + 8) [t.cancelled % 2 ^ 32 + t.discarded % 2 ^ 32 * 2 ^ 32, t.groups % 2 ^ 32 + t.keys % 2 ^ 32 * 2 ^ 32, t.framePos.toNat, 0]
      { s with disp := { s.disp with teardowns := s.disp.teardowns.filter (fun u => !(u.jcnt = t.jcnt && u.asid = t.asid)) } }
  | none => s

/-- The containment record before the status word (R275). -/
def writeContain (s : State) (l : Launch) : State :=
  match l.contain with
  | some c =>
    if l.rec_.status = 0 then s
    else dspWords s l.asid (l.rec_.status.toNat + 8)
      [c.code.toNat + c.cause.toNat * 2 ^ 8 + c.core.toNat * 2 ^ 16 + c.coil.toNat * 2 ^ 24 + c.lane.toNat * 2 ^ 29, c.pc.toNat, c.addr.toNat, 0]
  | none => s

/-- The steps of R86 for one launch, its graph's and phase's apart. A launch of KC0 ends once its report has been posted (R72). -/
def endLaunch (s : State) (id : Nat) (st : LStatus) : State :=
  let l := s.launch id
  if l.ended.isSome then s
  else if l.viaKc0 ∧ l.graph.isNone ∧ !eventRoom s 2 then s.modLaunch id (fun l => { l with ending := some st })
  else
    let s := if l.viaKc0 ∧ l.graph.isNone then postNote s 2 l.qid (statusCode st) else s
    let s := releaseAll s
    let s := if st = .cancelled then modTearDown s l (fun t => { t with cancelled := t.cancelled + 1 }) else s
    let s := writeTearDown (writeContain s l) id l st
    let s := if l.rec_.status = 0 then s else dspWords s l.asid l.rec_.status.toNat [statusCode st + min l.done (2 ^ 32 - 1) * 2 ^ 32]
    let s := creditAt (creditAt s l.asid l.rec_.lcnt) l.asid l.jcnt
    let s := s.modLaunch id (fun l => { l with ended := some st, ending := none })
    let s := { s with cor := { s.cor with tcbLeft := s.cor.tcbLeft.filter (fun e => e.2 ≠ id) } }
    let s := { s with disp := { s.disp with pending := s.disp.pending.map (fun e => (e.1, e.2.erase id)) } }
    match l.graph with
    | none => phaseLeave s l.phase
    | some (gi, i) =>
      let good := st = .ok || st = .empty
      let succ := (tget s.disp.graphs gi).bind (fun g => (g.nodes[i]?).map (·.succs)) |>.getD []
      let s := s.modGraph gi (fun g => { g with nodes := lmod (fun n => { n with ended := true }) g.nodes i })
      if good then succ.foldl (fun s j => s.modGraph gi (fun g => { g with nodes := lmod (fun n => { n with preds := n.preds - 1 }) g.nodes j })) s else s

/-- A new launch, started and not yet accepted. -/
def newLaunch (s : State) (l : Launch) : Nat × State :=
  let id := s.disp.nextLaunch
  (id, { s with disp := { s.disp with launches := tput s.disp.launches id l, nextLaunch := id + 1 } })

/-- The launch of node `i` of a graph, made when it becomes ready or is cancelled unstarted (R88). -/
def nodeLaunch (s : State) (gi : Nat) (g : Graph) (i : Nat) (n : GNode) : Nat × State :=
  let r := newLaunch s { recAddr := n.recd, asid := g.asid, qid := g.qid, phase := g.phase, graph := some (gi, i) }
  (r.1, r.2.modGraph gi (fun g => { g with nodes := lmod (fun n => { n with launch := some r.1 }) g.nodes i }))

/-- A launch whose record the dispatcher has not read ends with a status: its counters are those of the record, where it can be read. -/
def endUnread (s : State) (id : Nat) (st : LStatus) : State :=
  let l := s.launch id
  let rd := readRecord s l.asid l.recAddr (l.parent.map (fun p => (s.launch p).jcnt)) true
  let s := s.modLaunch id (fun l => { l with
    rec_ := rd.1, waiting := false, jcnt := match l.parent with | some p => (s.launch p).jcnt | none => rd.1.jcnt })
  endLaunch s id st

/-- Unstarted successors of launches that did not end `OK` or `EMPTY` end `CANCELLED`, and theirs in turn; what each graph then completes (R88). -/
def cancelSuccessors : Nat → List (Nat × Nat) → State → State
  | 0, _, s => s
  | _, [], s => s
  | fuel + 1, (gi, i) :: rest, s =>
    match tget s.disp.graphs gi with
    | some g =>
      match g.nodes[i]? with
      | some n =>
        if n.launch.isSome ∨ n.ended then cancelSuccessors fuel rest s
        else
          let r := nodeLaunch s gi g i n
          cancelSuccessors fuel (n.succs.map (fun j => (gi, j)) ++ rest) (endUnread r.2 r.1 .cancelled)
      | none => cancelSuccessors fuel rest s
    | none => cancelSuccessors fuel rest s

/-- Successor entries of a graph: the fuel that its walks need. -/
def graphWork (s : State) (gi : Nat) : Nat :=
  match tget s.disp.graphs gi with | some g => g.nodes.foldl (fun a n => a + n.succs.length + 1) 1 | none => 1

/-- A launch ends, with what follows for its graph. -/
def closeLaunch (s : State) (id : Nat) (st : LStatus) : State :=
  let s := endLaunch s id st
  let l := s.launch id
  match l.ended, l.graph with
  | some st, some (gi, i) =>
    let bad := st ≠ .ok && st ≠ .empty
    let succ := (tget s.disp.graphs gi).bind (fun g => (g.nodes[i]?).map (·.succs)) |>.getD []
    settleGraph (if bad then cancelSuccessors (graphWork s gi) (succ.map (fun j => (gi, j))) s else s) gi
  | _, _ => s

/-- Ends that wait for room in DSP are made (R72). -/
def retryEnds (s : State) : State :=
  let s := s.disp.launches.foldl (fun s e => match e.2.ending with | some st => closeLaunch s e.1 st | none => s) s
  (s.disp.graphs.map (·.1)).foldl settleGraph s

/-! ## Acceptance (R82, R84, R87, R88) -/

/-- A started launch validated and accepted: it joins its queue's pending list, or ends with the status of the check that fails. -/
def acceptLaunch (s : State) (id : Nat) : State :=
  let l := s.launch id
  if l.ended.isSome ∨ l.accepted then s
  else
    let parent := l.parent.map s.launch
    let rd := readRecord s l.asid l.recAddr (parent.map (·.jcnt)) true
    let r := rd.1
    let q := (tgetD s.cmd.queues l.qid {}).desc
    let gprio := l.graph.bind (fun g => (tget s.disp.graphs g.1).bind (·.prio))
    let (cls, prio) := match parent with
      | some p => if r.inherit then (p.cls, p.prio) else (r.cls, r.prio)
      | none => (q.cls, gprio.getD q.prio)
    let s := s.modLaunch id (fun l => { l with
      accepted := true, rec_ := r, cls, prio, jcnt := match parent with | some p => p.jcnt | none => r.jcnt })
    match rd.2 with
    | some st => closeLaunch s id st
    | none => { s with disp := { s.disp with pending := tmod s.disp.pending l.qid [] (· ++ [id]) } }

/-- The nodes of a graph descriptor, none where it fails a check of R87 or cannot be read. -/
def readGraph (s : State) (g : Graph) : Option (BitVec 57 × List GNode) :=
  let asid := g.asid.toNat
  let a := g.descAddr.toNat
  match hubBytes s asid a (64 + 16 * g.nl) with
  | none => none
  | some bs =>
    let w (i : Nat) : Nat := leNat ((bs.drop (8 * i)).take 8)
    let gcnt := BitVec.ofNat 57 (w 1)
    let nodes : List (Option GNode) := (List.range g.nl).map (fun i =>
      let e := w (9 + 2 * i)
      let off := field e 32 32
      let n := field e 16 16
      let succ : List (Option Nat) := (List.range n).map (fun j => (hubBytes s asid (a + off + 2 * j) 2).map leNat)
      if succ.any (fun x => match x with | some v => g.nl ≤ v | none => true) then none
      else some { recd := BitVec.ofNat 57 (w (8 + 2 * i)), preds := field e 0 16, succs := succ.filterMap id })
    let ok : List GNode := nodes.filterMap id
    let total := ok.foldl (fun (t : Nat) n => t + n.succs.length) 0
    if field (w 0) 0 16 ≠ g.nl ∨ ok.length ≠ g.nl ∨ ok.foldl (fun (t : Nat) n => t + n.preds) 0 ≠ total then none
    else some (gcnt, ok)

/-- A graph whose descriptor is rejected credits GCNT once, where it can be read (R87). -/
def rejectedGcnt (s : State) (g : Graph) : BitVec 57 :=
  match hubBytes s g.asid.toNat (g.descAddr.toNat + 8) 8 with | some bs => BitVec.ofNat 57 (leNat bs) | none => 0

/-- A graph validated and accepted, or rejected with `FORMAT_INVALID` (R87). -/
def acceptGraph (s : State) (gi : Nat) : State :=
  match tget s.disp.graphs gi with
  | some g =>
    if g.accepted ∨ g.ended then s
    else match readGraph s g with
      | some (gcnt, nodes) => s.modGraph gi (fun g => { g with accepted := true, gcnt, nodes })
      | none => settleGraph (s.modGraph gi (fun g => { g with accepted := true, gcnt := rejectedGcnt s g, nodes := [], status := .formatInvalid })) gi
  | none => s

/-- Launches of graphs whose predecessors have completed are accepted until none is left (R88). -/
def acceptAll : Nat → State → State
  | 0, s => s
  | fuel + 1, s =>
    let ready := s.disp.graphs.flatMap (fun (e : Nat × Graph) =>
      if !e.2.accepted ∨ e.2.ended then [] else
        (List.range e.2.nodes.length).filterMap (fun i => match e.2.nodes[i]? with
          | some n => if n.preds = 0 ∧ n.launch.isNone ∧ !n.ended then some (e.1, i) else none
          | none => none))
    if ready.isEmpty then s
    else acceptAll fuel (ready.foldl (fun s p =>
      match (tget s.disp.graphs p.1).bind (fun g => (g.nodes[p.2]?).map (fun n => (g, n))) with
      | some (g, n) => if n.launch.isSome then s else let r := nodeLaunch s p.1 g p.2 n; acceptLaunch r.2 r.1
      | none => s) s)

/-- Launches put in the order of their graphs and of their indices there. -/
def byIndex (s : State) (l : List Nat) : List Nat :=
  let key (id : Nat) : Nat × Nat := ((s.launch id).graph).getD (0, 0)
  let before (x y : Nat) : Bool := (key y).1 < (key x).1 || ((key y).1 == (key x).1 && (key y).2 ≤ (key x).2)
  l.foldl (fun l x => l.takeWhile (before x) ++ [x] ++ l.dropWhile (before x)) []

/-- The launches of graphs that become ready in a decision join their pending lists in ascending index order (R88). -/
def acceptReady (fuel : Nat) (s : State) : State :=
  let t := acceptAll fuel s
  { t with disp := { t.disp with pending := t.disp.pending.map (fun e =>
      let n := (tgetD s.disp.pending e.1 []).length
      (e.1, e.2.take n ++ byIndex t (e.2.drop n))) } }

def graphFuel (s : State) : Nat := s.disp.graphs.foldl (fun a e => a + e.2.nodes.length) 1

/-- A device-side child accepted, or discarded while its parent's job is being torn down (R82, R94); the child of a launch that a cancel has ended
ends `CANCELLED` (R91). (DEDUCED, log 27.) A child still queued when its parent, the last unit of a phase that UNMAP closed, ends at step 1 belongs to no
phase: the phase has been credited and removed (R89). (DESIGN CHOICE, log 62.) -/
def acceptChild (s : State) (parent : Nat) (recd : BitVec 57) : State :=
  let p := s.launch parent
  if (tearDownOf s p).isSome then
    let s := modTearDown s p (fun t => { t with discarded := t.discarded + 1 })
    { s with disp := { s.disp with discards := s.disp.discards + 1 } }
  else
    let r := newLaunch (phaseJoin s p.phase) { recAddr := recd, asid := p.asid, qid := p.qid, phase := p.phase, parent := some parent }
    if p.ended = some .cancelled ∨ p.ended = some .faulted ∨ p.ending = some .cancelled ∨ p.ending = some .faulted then endUnread r.2 r.1 .cancelled
    else acceptLaunch r.2 r.1

/-- Device-side launches that wait in the region queues, in region order (R90, R378). -/
def acceptChildren (s : State) (mine : Nat → Bool) : State :=
  (List.range 24).foldl (fun s r =>
    let q := (s.region r).launchq
    if q.isEmpty then s
    else (q.filter (fun e => mine e.1)).foldl (fun s e => acceptChild s e.1 e.2) (s.modRegion r (fun g => { g with launchq := g.launchq.filter (fun e => !mine e.1) }))) s

/-! ## Groups killed and clusters removed (R91, R292) -/

/-- Everything outside a group that names it goes: its places in queues and tables, its copies, load-blocks and SC operations. -/
def forgetGroup (s : State) (gid : Nat) : State :=
  let n := (s.group gid).coils.length
  let s := (List.range n).foldl (fun s c => leaveFaults s gid c 0xFFFFFFFF) s
  let s := leaveParams { s with xlat := { s.xlat with merge := s.xlat.merge.map (fun (e : Nat × Merge) =>
    (e.1, { e.2 with att := e.2.att.filter (fun a => match a with
      | .param g => g ≠ gid | .coil g _ _ _ => g ≠ gid
      | .copy id => match tget s.cor.copies id with | some c => (c.owner.map (·.1)) ≠ some gid | none => false) })) } } gid
  let mine (w : Waiter) : Bool := !w.skip && w.gid = gid
  let s := { s with slices := s.slices.map (fun (e : Nat × Slice) => (e.1, { e.2 with
      keys := e.2.keys.map (fun (k : Nat × KeyEntry) => (k.1, if k.2.waiters.any mine then { tickKey s k.2 with waiters := k.2.waiters.filter (fun w => !mine w) } else k.2))
      overflow := e.2.overflow.filter (fun q => !mine q.2.2.2) })) }
  let gone := (s.cor.copies.filter (fun (e : Nat × Copy) => (e.2.owner.map (·.1)) = some gid)).map (·.1)
  let s := { s with
    cor := { s.cor with
      copies := s.cor.copies.filter (fun e => !gone.contains e.1)
      cores := s.cor.cores.map (fun (e : Nat × Core) => (e.1, { e.2 with copyq := e.2.copyq.filter (fun i => !gone.contains i) })) }
    mod := { s.mod with outMsgs := s.mod.outMsgs.filter (fun m => !gone.contains m.copy) }
    xlat := { s.xlat with
      scWaiting := s.xlat.scWaiting.map (fun (e : Nat × List ScOp) => (e.1, e.2.filter (fun o => o.kind = 4 || o.gid ≠ gid))) } }
  ((s.cor.blocks.filter (fun e => e.2.gid = gid)).map (·.1)).foldl endBlock s

/-- A group leaves the table: its resources are free (R95, R319). -/
def dropGroup (s : State) (gid : Nat) : State :=
  let k := (s.group gid).core
  idleCore { s with cor := { s.cor with groups := tdel s.cor.groups gid } } k

/-- Keys that the threads of a group hold. -/
def heldKeys (g : Group) : Nat := g.coils.foldl (fun a co => co.threads.foldl (fun a t => a + t.keys.length) a) 0

/-- Every thread of a group killed, whether it is resident or saved; keys are left with the abandoned bit (R91, R292). -/
def killGroup (s : State) (gid : Nat) : State :=
  let g := s.group gid
  let s := forgetGroup s gid
  let s := (List.range g.coils.length).foldl (fun s c =>
    (List.range ((g.coils[c]?).getD {}).threads.length).foldl (fun s l => if (((g.coils[c]?).getD {}).thread l).keys.isEmpty then s else abandonKeys s gid c l) s) s
  dropGroup s gid

/-- A cluster leaves the table. -/
def dropCluster (s : State) (id : Nat) : State := { s with disp := { s.disp with clusters := tdel s.disp.clusters id } }

/-- Domain-0 keys of a render's fragments freed at their slices (R156, R157). -/
def freeRenderKeys (s : State) (asid : W16) (r : Render) : State :=
  (r.frags.map (·.key)).eraseDups.foldl (fun s k => freeKey s asid 0 k) s

/-- The clusters of a launch stopped: groups killed, saved areas freed, a tile render given up with its keys freed (R91, R133, R159, R292). -/
def killClusters (s : State) (launch : Nat) : State :=
  let l := s.launch launch
  (s.disp.clusters.filter (fun e => e.2.launch = launch)).foldl (fun s e =>
    let keys := e.2.groups.foldl (fun a g => a + heldKeys (s.group g)) 0
    let live := e.2.groups.filter (fun g => (s.group? g).isSome)
    let s := live.foldl killGroup s
    let s := modTearDown s l (fun t => { t with groups := t.groups + live.length, keys := t.keys + keys })
    let s := match e.2.render with
      | some r => match tget s.gfx.renders r with
        | some rd => freeRenderKeys { s with gfx := { s.gfx with renders := tdel s.gfx.renders r } } l.asid rd
        | none => s
      | none => s
    dropCluster s e.1) s

/-! ## Cancels (R91, R275) -/

/-- A launch and every live launch beneath it. -/
def familyOf (s : State) : Nat → List Nat → List Nat
  | 0, ids => ids
  | fuel + 1, ids =>
    let more := (s.disp.launches.filter (fun e => e.2.live && !ids.contains e.1 && (match e.2.parent with | some p => ids.contains p | none => false))).map (·.1)
    if more.isEmpty then ids else familyOf s fuel (ids ++ more)

/-- One launch ended by a cancel or a containment: its tasks and its clusters first (R91, R111). Of one whose end waits for room in DSP only a cancel is
taken over, by a containment (R92, R275). -/
def stopLaunch (s : State) (id : Nat) (st : LStatus) : State :=
  let l := s.launch id
  if l.ended.isSome then s
  else if l.ending.isSome then (if st = .faulted ∧ l.ending = some .cancelled then s.modLaunch id (fun l => { l with ending := some st }) else s)
  else if !l.accepted then endUnread s id st
  else
    let s := cancelTasks s id
    let s := killClusters s id
    let s := s.modLaunch id (fun l => { l with saved := [] })
    closeLaunch s id st

/-- Launches ended `CANCELLED` together with their children, submitted ones included. -/
def cancelLaunches (s : State) (ids : List Nat) : State :=
  let fam := familyOf s s.disp.launches.length ids
  let s := fam.foldl (fun s id => stopLaunch s id .cancelled) s
  acceptChildren s (fun p => fam.contains p)

/-- A graph cancelled: an unread one is credited once, and every launch of it ends (R88, R91). -/
def cancelGraph (s : State) (gi : Nat) : State :=
  let s := acceptGraph s gi
  match tget s.disp.graphs gi with
  | some g =>
    let s := cancelLaunches s (g.nodes.filterMap (·.launch))
    settleGraph (cancelSuccessors (graphWork s gi) ((List.range g.nodes.length).map (fun i => (gi, i))) s) gi
  | none => s

/-- Live launches that a counter names at a level, graphs apart (R60, R80). An address space of none is every one. The spec does not say whether launch level
reaches a LAUNCH that still waits on its WCNT or has not been accepted, or a job level a node of a graph that has not started: they are no units yet, and
are not named. (DESIGN CHOICE, log 62.) -/
def unitLaunches (s : State) (asid : Option W16) (cnt : BitVec 57) (level : Nat) : List Nat :=
  let here (a : W16) : Bool := asid.all (· == a)
  (s.disp.launches.filter (fun e => e.2.live && here e.2.asid && (match level with
    | 0 => e.2.accepted && e.2.rec_.lcnt == cnt
    | 2 => match e.2.phase.bind (tget s.cmd.phases) with | some p => p.pcnt == cnt | none => false
    | 3 => e.2.jcnt ≠ 0 && e.2.jcnt == cnt
    | _ => false))).map (·.1)

/-- Live graphs that a counter names at a level. -/
def unitGraphs (s : State) (asid : Option W16) (cnt : BitVec 57) (level : Nat) : List Nat :=
  let here (a : W16) : Bool := asid.all (· == a)
  (s.disp.graphs.filter (fun e => !e.2.ended && here e.2.asid && (match level with
    | 1 => e.2.accepted && e.2.gcnt == cnt
    | 2 => match e.2.phase.bind (tget s.cmd.phases) with | some p => p.pcnt == cnt | none => false
    | _ => false))).map (·.1)

/-- A job of an address space torn down: the launches that it ends, added to those of a tear-down in force. -/
def addTearDown (s : State) (cnt : BitVec 57) (ids : List Nat) (asid : W16) : State :=
  let mine := ids.filter (fun i => (s.launch i).asid = asid)
  let same (t : TearDown) : Bool := t.jcnt == cnt && t.asid == asid
  let all := s.disp.teardowns
  let teardowns :=
    if all.any same then all.map (fun t => if same t then { t with ids := t.ids ++ mine.filter (fun i => !t.ids.contains i) } else t)
    else all ++ [{ jcnt := cnt, asid, framePos := framePos s, ids := mine }]
  { s with disp := { s.disp with teardowns } }

/-- The address spaces in which a job is torn down: those of its live launches, and those of parents, though they have ended in the same decision, whose
launches wait in the region queues (R94). -/
def tornDown (s : State) (asid : Option W16) (cnt : BitVec 57) (ids : List Nat) : List W16 :=
  let queued := (List.range 24).flatMap (fun r => (s.region r).launchq.map (·.1))
  ((ids ++ queued.filter (fun p => cnt ≠ 0 && (s.launch p).jcnt = cnt && asid.all (· == (s.launch p).asid))).map (fun i => (s.launch i).asid)).eraseDups

/-- A cancel at a level; at level 3 it is the tear-down of a job, which discards the launches its threads have submitted, those of parents that have ended in
the same decision among them, and stays in force while a launch that it ends is live (R91, R93, R94). -/
def applyCancel (s : State) (asid : Option W16) (cnt : BitVec 57) (level : Nat) : State :=
  let ids := unitLaunches s asid cnt level
  let s := if level = 3 then
      let s := (tornDown s asid cnt ids).foldl (fun s a => addTearDown s cnt (familyOf s s.disp.launches.length ids) a) s
      let s := acceptChildren s (fun p => (tearDownOf s (s.launch p)).isSome)
      { s with disp := { s.disp with teardowns := s.disp.teardowns.filter (fun t => t.ids.any (fun i => (s.launch i).live)) } }
    else s
  (unitGraphs s asid cnt level).foldl cancelGraph (cancelLaunches s ids)

/-- The tasks of coils that `MACHINE_CHECK` has stopped have become FAULTED before a decision acts on them (R117, R118). -/
def checkTasks (s : State) : State :=
  s.cor.groups.foldl (fun s (e : Nat × Group) => (List.range e.2.coils.length).foldl (fun s c => machineCheckTask s e.1 c) s) s

/-- Containment of a launch (R275): its children end `CANCELLED`, it ends `FAULTED`; what has already ended is reported to KC2 alone. A launch
whose end a cancel of an earlier decision has begun is taken over. -/
def applyContain (s : State) (id : Nat) (c : Containment) : State :=
  let s := postFree s 5 0
  let l := s.launch id
  if l.ended.isSome ∨ l.contain.isSome ∨ (l.ending.isSome ∧ l.ending ≠ some .cancelled) then s
  else
    let kids := (familyOf s s.disp.launches.length [id]).filter (· ≠ id)
    let s := s.modLaunch id (fun l => { l with contain := some c })
    let s := stopLaunch s id .faulted
    let s := cancelLaunches s kids
    acceptChildren s (fun p => p = id)

/-! ## Priority changes (R99) -/

/-- The unplaced clusters of a unit take a new priority. -/
def applyPrio (s : State) (asid : Option W16) (cnt : BitVec 57) (level prio : Nat) : State :=
  let s := (unitGraphs s asid cnt level).foldl (fun s gi =>
    let s := s.modGraph gi (fun g => { g with prio := some prio })
    (((tget s.disp.graphs gi).map (·.nodes.filterMap (·.launch))).getD []).foldl (fun s id => s.modLaunch id (fun l => { l with prio })) s) s
  (unitLaunches s asid cnt level).foldl (fun s id => s.modLaunch id (fun l => { l with prio })) s

/-- A queue's new PRIO reaches the launches of the queue that are still pending. -/
def applyQueuePrio (s : State) (qid prio : Nat) : State :=
  (tgetD s.disp.pending qid []).foldl (fun s id => if (s.launch id).parent.isNone then s.modLaunch id (fun l => { l with prio }) else s) s

/-! ## Completions (R80, R90, R92) -/

/-- Whether every cluster of a launch has completed. -/
def launchDone (s : State) (id : Nat) : Bool :=
  let l := s.launch id
  l.live && l.accepted && l.ending.isNone && l.openKind.isNone && l.rec_.gx * l.rec_.gy * l.rec_.gz ≤ l.next && l.saved.isEmpty
    && s.disp.clusters.all (fun e => e.2.launch ≠ id)

/-- The exit of a cluster's last group completes the cluster, and with the last one its launch (R80). -/
def applyExit (s : State) (cl : Nat) : State :=
  match tget s.disp.clusters cl with
  | some c =>
    if c.completed.length < c.groups.length ∨ c.render.isSome then s
    else
      let s := (dropCluster s cl).modLaunch c.launch (fun l => { l with done := l.done + 1 })
      let s := match (s.launch c.launch).openKind with
        | some (p, true) => s.modPass p (fun q => { q with slotsBusy := q.slotsBusy.filter (fun b => b.2 % 2 ^ 24 ≠ c.x) })
        | _ => s
      if launchDone s c.launch then closeLaunch s c.launch .ok else s
  | none => s

end Sys2Proof.Machine
end

