-- ==== Sys2Proof/Machine/Render.lean ====
section
/-! DEFINITION. The rendering pipeline between its cores (chapter 06): passes and their descriptors, the assembler, the classifier and the visibility
batches, the binner and its pool, tile renders, waves, pixel writes and the end of a pass. -/
namespace Sys2Proof.Machine

/-! ## Memory of a pass -/

/-- Bytes that the pipeline reads at `DEVICE` scope; what cannot be read is 0 (DESIGN CHOICE, log 41). -/
def pipeRead (s : State) (asid : W16) (va n : Nat) : Nat := if va ≥ 2 ^ 57 then 0 else (hubRead s asid.toNat va n).getD 0
/-- Bytes that it writes at `DEVICE` scope; what cannot be written is skipped with a SERVICE record (log 41). -/
def pipeWrite (s : State) (asid : W16) (va : Nat) (bs : List Byte) : State := (hubWrite s asid.toNat va bs).getD (postFree s 5 0)

/-! ## Pass descriptors (R130, R131, R159) -/

def parsePass (bs : List Byte) : PassDesc :=
  let w (i : Nat) : Nat := leNat ((bs.drop (8 * i)).take 8)
  let a (i : Nat) : BitVec 57 := BitVec.ofNat 57 (w i)
  let f (i lo : Nat) : W32 := BitVec.ofNat 32 (field (w i) lo 32)
  { target := a 0, width := field (w 1) 0 15, height := field (w 1) 16 15, cfmt := field (w 1) 32 3, ordered := bit (w 1) 35, dtest := bit (w 1) 36,
    coarse := bit (w 1) 37, rateComb := field (w 1) 38 2, centroid := bit (w 1) 40, reuse := bit (w 1) 41, cull := field (w 1) 42 2,
    passtag := BitVec.ofNat 4 (field (w 1) 44 4), refreshK := field (w 1) 48 5, blendop := field (w 1) 53 3, prog := bit (w 1) 56,
    visbuf := a 2, shadekey := a 3, motion := a 4, prevVis := a 5, prevColour := a 6, prevMotion := a 7, rateImg := a 8, tlpBase := a 9,
    tlpSize := field (w 10) 0 16, smallSlots := field (w 10) 16 8, smallArea := field (w 10) 32 24,
    depthTol := f 11 0, wNear := f 11 32, sx := f 12 0, ox := f 12 32, sy := f 13 0, oy := f 13 32, frame := f 14 0, smallBase := a 15,
    visRec := a 16, psRec := a 17, pcnt := a 18, pstat := a 19,
    reserved := [0, 2, 3, 4, 5, 6, 7, 8, 9, 15, 16, 17, 18, 19].any (fun i => field (w i) 57 7 ≠ 0) || bit (w 1) 15 || bit (w 1) 31
      || field (w 1) 57 7 ≠ 0 || field (w 10) 24 8 ≠ 0 || field (w 10) 56 8 ≠ 0 || field (w 14) 32 32 ≠ 0 || (List.range 12).any (fun i => w (20 + i) ≠ 0) }

/-- Whether the visibility path is in use (R137). -/
def PassDesc.visPath (d : PassDesc) : Bool := !d.ordered && d.smallArea ≠ 0

/-- The limits of R130 and R159; the buffers that the settings use are aligned. (DEDUCED, log 31.) -/
def passOk (d : PassDesc) : Bool :=
  let page (a : BitVec 57) : Bool := a.toNat % 4096 == 0
  let pos (v : W32) (zero : Bool) : Bool := match valueOf 10 v.toNat with | .fin q => q.num > 0 | .zero _ => zero | _ => false
  !d.reserved && 1 ≤ d.width && d.width ≤ 16384 && 1 ≤ d.height && d.height ≤ 16384 && d.cfmt ≤ 5 && d.cull ≠ 3 && d.refreshK ≤ 16 && d.blendop ≤ 5
    && 2 ≤ d.tlpSize && 1 ≤ d.smallSlots && d.smallSlots ≤ 64 && pos d.depthTol true && pos d.wNear false
    && (d.ordered || (!d.prog && d.blendop == 0 && !d.dtest)) && (!d.reuse || !d.ordered)
    && d.pcnt ≠ 0 && d.pcnt.toNat % 8 == 0 && d.pstat ≠ 0 && d.pstat.toNat % 8 == 0
    && page d.target && page d.motion && page d.tlpBase && ((d.ordered && !d.dtest) || page d.visbuf) && (d.ordered || page d.shadekey)
    && (!d.reuse || (page d.prevVis && page d.prevColour && page d.prevMotion)) && (!d.coarse || d.rateComb == 0 || page d.rateImg)
    && (!d.visPath || d.smallBase.toNat % 65536 == 0)

/-- The status record at PSTAT (R134) and the credit of PCNT (R133). -/
def reportPass (s : State) (p : Pass) : State :=
  let sat (n : Nat) : Nat := min n (2 ^ 32 - 1)
  let s := releaseAll s
  let s := if p.desc.pstat = 0 then s
    else dspWords s p.asid p.desc.pstat.toNat [p.code + sat p.flushes * 2 ^ 32, sat p.prims + sat p.small * 2 ^ 32, sat p.culled + sat p.shaded * 2 ^ 32,
      sat p.reused + sat p.renders * 2 ^ 32]
  creditAt s p.asid p.desc.pcnt

/-- The pass that a launch has opened (R131: at most one). -/
def passOf (s : State) (launch : Nat) : Option (Nat × Pass) := s.gfx.passes.find? (fun e => e.2.launch = launch)

/-- A child of the pipeline: accepted at once as an open launch (R133). -/
def openChild (s : State) (parent : Nat) (pass : Nat) (vis : Bool) (addr : BitVec 57) (r : LaunchRec) : Nat × State :=
  let p := s.launch parent
  let l : Launch := { recAddr := addr, rec_ := r, asid := p.asid, qid := p.qid, cls := if r.inherit then p.cls else r.cls,
                      prio := if r.inherit then p.prio else r.prio, jcnt := p.jcnt, parent := some parent, phase := p.phase, accepted := true,
                      openKind := some (pass, vis) }
  let n := newLaunch (phaseJoin s p.phase) l
  (n.1, { n.2 with disp := { n.2.disp with pending := tmod n.2.disp.pending p.qid [] (· ++ [n.1]) } })

/-- The opening of a pass (R131): none while its PASSTAG is held by an open pass (R132). A descriptor that cannot be read or fails a check ends the
pass at once with `FORMAT_INVALID`. -/
def openPass (s : State) (launch : Nat) (addr : Nat) : Option State :=
  let l := s.launch launch
  let id := s.gfx.nextPass
  let put (p : Pass) (s : State) : State := { s with gfx := { s.gfx with passes := tput s.gfx.passes id p, nextPass := id + 1 } }
  let bad (d : PassDesc) : Pass := { desc := d, descAddr := BitVec.ofNat 57 addr, asid := l.asid, launch, stage := .ended, code := 3 }
  match (if addr ≥ 2 ^ 57 ∨ addr % 256 ≠ 0 then none else hubBytes s l.asid.toNat addr 256) with
  | none => some (put (bad {}) s)
  | some bs =>
    let d := parsePass bs
    let vis := readRecord s l.asid d.visRec (some l.jcnt) false
    let ps := readRecord s l.asid d.psRec (some l.jcnt) false
    if !passOk d ∨ vis.2.isSome ∨ ps.2.isSome then some (put (bad d) (reportPass s (bad d)))
    else if s.gfx.passes.any (fun e => e.2.stage ≠ .ended && e.2.desc.passtag = d.passtag) then none
    else
      let v := openChild s launch id true d.visRec vis.1
      let p := openChild v.2 launch id false d.psRec ps.1
      some (put { desc := d, descAddr := BitVec.ofNat 57 addr, asid := l.asid, launch, visLaunch := v.1, shadeLaunch := p.1 } p.2)

/-! ## The assembler (R136, R348) -/

/-- A coordinate SX·x/w + OX in 16.8 fixed point, none where it has no finite value. -/
def project (scale ofs : W32) (v w : XR) : Option Int :=
  match (xAdd (xDiv (xMul (valueOf 10 scale.toNat) v).1 w).1 (valueOf 10 ofs.toNat)).1 with
  | .fin q => some (qRne (qMul q (qInt 256)))
  | .zero _ => some 0
  | _ => none

/-- A depth z/w rounded once to FP32 and clamped to [+0, 1]; none for a NaN. -/
def projectDepth (z w : XR) : Option W32 :=
  match (xDiv z w).1 with
  | .nan _ => none
  | .inf neg => some (if neg then 0 else 0x3F800000)
  | .zero _ => some 0
  | .fin q => if q.num < 0 then some 0 else some (BitVec.ofNat 32 (min 0x3F800000 (narrow 10 (.fin q) 0 false 0).1))

/-- A vertex on the screen, none where it discards its triangle (R136); `far` lets a coordinate of 2^22 pixels or more pass. -/
def toScreen (d : PassDesc) (far : Bool) (v : CVert) : Option SVert :=
  match project d.sx d.ox v.x v.w, project d.sy d.oy v.y v.w, projectDepth v.z v.w with
  | some x, some y, some depth => if !far ∧ (2 ^ 30 ≤ x.natAbs ∨ 2 ^ 30 ≤ y.natAbs) then none else some { x, y, depth, w := v.w, attrs := v.attrs }
  | _, _, _ => none

/-- Whether a vertex is behind: w ≤ W_NEAR. -/
def isBehind (d : PassDesc) (v : CVert) : Bool := !xIsNan v.w && xCmp v.w (valueOf 10 d.wNear.toNat) ≤ 0

/-- The point of an edge at w = W_NEAR, computed exactly. -/
def clipPoint (d : PassDesc) (u v : CVert) : CVert :=
  let near := valueOf 10 d.wNear.toNat
  let sub (a b : XR) : XR := (xAdd a (xNegate b)).1
  let t := (xDiv (sub u.w near) (sub u.w v.w)).1
  let mix (a b : XR) : XR := (xAdd a (xMul t (sub b a)).1).1
  { x := mix u.x v.x, y := mix u.y v.y, z := mix u.z v.z, w := near, attrs := (u.attrs.zip v.attrs).map (fun p => mix p.1 p.2) }

/-- The polygon of a triangle clipped at the near plane, in clip order (R136). (DEDUCED, log 32.) -/
def clipNear (d : PassDesc) (a b c : CVert) : List CVert :=
  [(a, b), (b, c), (c, a)].flatMap (fun e =>
    (if isBehind d e.1 then [] else [e.1]) ++ (if isBehind d e.1 != isBehind d e.2 then [clipPoint d e.1 e.2] else []))

def area2 (a b c : SVert) : Int := (b.x - a.x) * (c.y - a.y) - (c.x - a.x) * (b.y - a.y)

/-- Whether CULL removes a triangle of an area (R136). -/
def culls (d : PassDesc) (a2 : Int) : Bool := a2 == 0 || (d.cull == 1 && a2 < 0) || (d.cull == 2 && a2 > 0)

/-- The pieces of a triangle that are left to rasterise, and whether it crosses the near plane (R136). -/
def assemble (d : PassDesc) (a b c : CVert) (visid : W32) (rate : BitVec 3) : List Tri × Bool :=
  let behind := ([a, b, c].filter (isBehind d)).length
  let piece (p q r : SVert) : List Tri :=
    let a2 := area2 p q r
    if culls d a2 then [] else [{ a := p, b := q, c := r, visid, rate, front := decide (a2 > 0), flat := a.attrs }]
  if behind = 3 then ([], true)
  else
    let poly := if behind = 0 then [a, b, c] else clipNear d a b c
    let scr := poly.filterMap (toScreen d (behind ≠ 0))
    if scr.length ≠ poly.length then ([], behind ≠ 0)
    else match scr with
      | p :: q :: r :: t => (piece p q r ++ (match t with | u :: _ => piece p r u | [] => []), behind ≠ 0)
      | _ => ([], behind ≠ 0)

/-! ## Batches, lists and the pool (R137 to R142) -/

/-- The bytes of a batch record (R138). -/
def batchBytes (ts : List Tri) : List Byte :=
  let w (n : Nat) : List Byte := leBytes 4 n
  leBytes 64 ts.length ++ ts.flatMap (fun t =>
    [t.a, t.b, t.c].flatMap (fun v => w (wrap v.x 32) ++ w (wrap v.y 32)) ++ [t.a, t.b, t.c].flatMap (fun v => w v.depth.toNat)
      ++ w t.visid.toNat ++ w (t.rate.toNat + if t.front then 8 else 0) ++ w 0)

/-- Bytes written page by page. -/
def pipeWriteLong (asid : W16) : Nat → Nat → List Byte → State → State
  | 0, _, _, s => s
  | n + 1, va, bs, s => if bs.isEmpty then s else pipeWriteLong asid n (va + 4096) (bs.drop 4096) (pipeWrite s asid va (bs.take 4096))

/-- Whether the ring slot of the next batch is free (R138). -/
def slotFree (p : Pass) : Bool := !p.slotsBusy.any (fun b => b.1 = p.batchNo % p.desc.smallSlots)

/-- A batch with triangles closed: written to its slot, its cluster to be started (R138). -/
def closeBatch (s : State) (id : Nat) : State :=
  match tget s.gfx.passes id with
  | some p =>
    if p.batch.isEmpty ∨ !slotFree p then s
    else
      let slot := p.batchNo % p.desc.smallSlots
      let s := pipeWriteLong p.asid 16 (p.desc.smallBase.toNat + 65536 * slot) (batchBytes p.batch) s
      s.modPass id (fun p => { p with batch := [], batchNo := p.batchNo + 1, slotsBusy := p.slotsBusy ++ [(slot, p.batchNo)], visTodo := p.visTodo ++ [p.batchNo] })
  | none => s

/-- Chunks of the pool in use: those of the records and those of every tile list (R140). -/
def chunksOf (tiles : Tab (List (List Tri))) (records : Nat) : Nat :=
  let up (n m : Nat) : Nat := (n + m) / (m + 1)
  up records Config.chunkRecords + tiles.foldl (fun a e => a + up e.2.length Config.chunkEntries) 0

/-- Tiles across a target (R140). -/
def tilesX (d : PassDesc) : Nat := (d.width + 63) / 64
def tilesY (d : PassDesc) : Nat := (d.height + 63) / 64

/-- The tiles that the bounding box of a triangle's pieces overlaps, in ascending index (R140). -/
def tilesOf (d : PassDesc) (ps : List Tri) : List Nat :=
  let vs := ps.flatMap (fun t => [t.a, t.b, t.c])
  match vs with
  | [] => []
  | v :: rest =>
    let x0 := rest.foldl (fun m u => min m u.x) v.x
    let x1 := rest.foldl (fun m u => max m u.x) v.x
    let y0 := rest.foldl (fun m u => min m u.y) v.y
    let y1 := rest.foldl (fun m u => max m u.y) v.y
    ((List.range (tilesY d)).filter (fun (ty : Nat) => decide (y0 < 16384 * ((ty : Int) + 1) ∧ 16384 * (ty : Int) ≤ y1))).flatMap (fun (ty : Nat) =>
      ((List.range (tilesX d)).filter (fun (tx : Nat) => decide (x0 < 16384 * ((tx : Int) + 1) ∧ 16384 * (tx : Int) ≤ x1))).map (fun tx => ty * tilesX d + tx))

/-- How a triangle meets the pool: binned, no chunk left, or too large for it (R141, R142). -/
inductive Binned where
  | done (p : Pass)
  | full
  | fatal
  deriving Repr

def binTri (p : Pass) (ps : List Tri) : Binned :=
  let ts := tilesOf p.desc ps
  if ts.isEmpty then .done p
  else if p.desc.tlpSize < ts.length + 1 then .fatal
  else
    let tiles := ts.foldl (fun t i => tmod t i [] (· ++ [ps])) p.tiles
    if p.desc.tlpSize < chunksOf tiles (p.records + 1) then .full else .done { p with tiles, records := p.records + 1 }

/-- A partial flush begins: the open batch is closed and every tile with entries is to be rendered (R141). -/
def beginFlush (s : State) (id : Nat) : State :=
  let s := closeBatch s id
  match tget s.gfx.passes id with
  | some p => if !p.batch.isEmpty then s else s.modPass id (fun p => { p with flushing := true, flushes := p.flushes + 1, todo := p.tiles.map (·.1) })
  | none => s

/-- `TILE_POOL_FATAL` (R142): no further tile is rendered, and the pass's launches end. -/
def poolFatal (s : State) (id : Nat) : State :=
  match tget s.gfx.passes id with
  | some p => cancelLaunches (s.modPass id (fun p => { p with fatal := true, code := 1, todo := [], visTodo := [], batch := [], tiles := [], flushing := false }))
      [p.visLaunch, p.shadeLaunch]
  | none => s

/-- A triangle submitted to an open pass: the state with it, and whether it went through; otherwise its `EMITP` stalls (R136 to R142). -/
def submitTri (s : State) (id : Nat) (a b c : CVert) (visid : W32) (rate : BitVec 3) : State × Bool :=
  match tget s.gfx.passes id with
  | some p =>
    if p.stage = .ended ∨ p.fatal then (s, true)
    else if p.flushing then (s, false)
    else
      let r := assemble p.desc a b c visid rate
      let small := p.desc.visPath && !r.2 && (match r.1 with | [t] => (area2 t.a t.b t.c).natAbs < 512 * p.desc.smallArea | _ => false)
      if r.1.isEmpty then (s.modPass id (fun p => { p with prims := p.prims + 1, culled := p.culled + 1 }), true)
      else if small then
        if p.batch.length ≥ 1023 ∧ !slotFree p then (s, false)
        else
          let ids := r.1.map (fun t => (visid, rate, t.front))
          let s := s.modPass id (fun p => { p with
            batch := p.batch ++ r.1, prims := p.prims + 1, small := p.small + 1, smallIds := p.smallIds ++ ids.filter (fun e => !p.smallIds.contains e) })
          (if p.batch.length ≥ 1023 then closeBatch s id else s, true)
      else match binTri p r.1 with
        | .done q => (s.modPass id (fun _ => { q with prims := q.prims + 1 }), true)
        | .full => (beginFlush s id, false)
        | .fatal => (poolFatal (s.modPass id (fun p => { p with prims := p.prims + 1 })) id, true)
  | none => (s, true)

/-! ## Coverage and depth (R143) -/

def edgeFn (u v : SVert) (px py : Int) : Int := (v.x - u.x) * (py - u.y) - (v.y - u.y) * (px - u.x)
def owningEdge (u v : SVert) : Bool := v.y - u.y > 0 || (v.y == u.y && v.x < u.x)

/-- The vertices in the order that makes A2 positive. -/
def Tri.order (t : Tri) : SVert × SVert × SVert := if area2 t.a t.b t.c < 0 then (t.a, t.c, t.b) else (t.a, t.b, t.c)

/-- Whether a triangle covers pixel (x, y). -/
def Tri.covers (t : Tri) (x y : Nat) : Bool :=
  let (a, b, c) := t.order
  let inside (u v : SVert) : Bool :=
    let e := edgeFn u v (256 * x + 128) (256 * y + 128)
    e > 0 || (e == 0 && owningEdge u v)
  inside a b && inside b c && inside c a

/-- The FP32 depth of a triangle at pixel (x, y). -/
def Tri.depthAt (t : Tri) (x y : Nat) : Nat :=
  let (a, b, c) := t.order
  let q (v : SVert) : Q := xQ (valueOf 10 v.depth.toNat)
  let e (u v : SVert) : Q := qInt (edgeFn u v (256 * x + 128) (256 * y + 128))
  let sum := qAdd (qAdd (qMul (e b c) (q a)) (qMul (e c a) (q b))) (qMul (e a b) (q c))
  (narrow 10 (xOfQ (qDiv sum (qInt (area2 a b c)))) 0 false 0).1

/-- A pixel's key (R139). -/
def Tri.keyAt (t : Tri) (x y : Nat) : Nat := t.depthAt x y * 2 ^ 32 + t.visid.toNat

/-! ## Rates and cells (R150 to R152) -/

/-- Width and height of a rate. -/
def rateSize (r : Nat) : Nat × Nat := match r with | 1 => (1, 2) | 2 => (2, 1) | 3 => (2, 2) | 4 => (2, 4) | 5 => (4, 2) | 6 => (4, 4) | _ => (1, 1)
def rateCode (w h : Nat) : Nat := match w, h with | 1, 2 => 1 | 2, 1 => 2 | 2, 2 => 3 | 2, 4 => 4 | 4, 2 => 5 | 4, 4 => 6 | _, _ => 0

/-- The rate of a fragment of primitive rate `prim` at pixel (x, y). -/
def rateAt (s : State) (p : Pass) (prim x y : Nat) : Nat :=
  let d := p.desc
  if !d.coarse then 0
  else
    let img := if d.rateComb = 0 then 0 else pipeRead s p.asid (d.rateImg.toNat + y / 16 * ((d.width + 15) / 16) + x / 16) 1 % 8
    let a := rateSize prim
    let b := rateSize img
    match d.rateComb with
    | 0 => rateCode a.1 a.2
    | 1 => rateCode b.1 b.2
    | 2 => rateCode (min a.1 b.1) (min a.2 b.2)
    | _ => rateCode (max a.1 b.1) (max a.2 b.2)

/-- A covered or won pixel: its place, the primitive (by its entry and its pieces; none from the visibility path) and the piece that covers the pixel, its facing
and its rate. -/
structure Won where
  x : Nat
  y : Nat
  entry : Nat
  pieces : List Tri
  tri : Option Tri
  visid : W32
  front : Bool
  rate : Nat
  deriving DecidableEq, Repr

/-- The domain-0 key of a cell (R155). -/
def fragKey (d : PassDesc) (cx cy : Nat) : W32 :=
  let x := if d.coarse then cx / 4 else cx
  let y := if d.coarse then cy / 4 else cy
  BitVec.ofNat 32 (d.passtag.toNat * 2 ^ 28 + y % 2 ^ 14 * 2 ^ 14 + x % 2 ^ 14)

/-- The evaluation point of a fragment in 16.8 (R152): the pixel or coarse centre, or with CENTROID, where the cell crosses an edge of the
primitive, the mean of its pixels' centres. -/
def evalPoint (d : PassDesc) (pieces : List Tri) (cx cy w h : Nat) (pixels : List (Nat × Nat)) : Int × Int :=
  let cell := (List.range (w * h)).map (fun i => (cx + i % w, cy + i / w))
  let crosses : Bool := !pieces.isEmpty && cell.any (fun p => p.1 < d.width && p.2 < d.height && !pieces.any (fun t => t.covers p.1 p.2))
  if d.centroid ∧ crosses then
    let n := pixels.length
    let mean (f : Nat × Nat → Nat) : Int := qRne ⟨(pixels.foldl (fun a p => a + (256 * f p + 128)) 0 : Nat), n⟩
    (mean (·.1), mean (·.2))
  else ((256 * cx + 128 * w : Nat), (256 * cy + 128 * h : Nat))

/-- Won pixels formed into fragments, one to each cell and primitive, in the order of their first pixels (R151). A fragment's triangle is the piece at its
first pixel. (DEDUCED, log 32.) The submission order does not order the fragments of one primitive in a tile: they go row by row by their first pixels, in
FRAGSEQ of a block and in the waves. (DESIGN CHOICE, log 73.) -/
def formFrags (d : PassDesc) (ws : List Won) : List Frag :=
  let cellOf (v : Won) : Nat × Nat := let r := rateSize v.rate; (v.x / r.1 * r.1, v.y / r.2 * r.2)
  let same (u v : Won) : Bool := u.entry == v.entry && u.visid == v.visid && u.rate == v.rate && cellOf u == cellOf v
  let groups := ws.foldl (fun (gs : List (List Won)) v =>
    if gs.any (fun g => match g with | u :: _ => same u v | [] => false) then gs.map (fun g => match g with | u :: _ => if same u v then g ++ [v] else g | [] => g)
    else gs ++ [[v]]) []
  groups.filterMap (fun g => match g with
    | [] => none
    | v :: _ =>
      let (w, h) := rateSize v.rate
      let (cx, cy) := cellOf v
      let cover := g.foldl (fun m u => m ||| BitVec.ofNat 16 (2 ^ ((u.x - cx) + w * (u.y - cy)))) (0 : W16)
      let e := evalPoint d v.pieces cx cy w h (g.map (fun u => (u.x, u.y)))
      some { cx, cy, rate := BitVec.ofNat 3 v.rate, cover, tri := v.tri, visid := v.visid, front := v.front,
             small := v.tri.isNone, ex := e.1, ey := e.2, key := fragKey d cx cy })

/-- Sequence numbers: how many earlier fragments of the render carry the key (R155). -/
def numberFrags : List Frag → List Frag → List Frag
  | done, [] => done
  | done, f :: rest => numberFrags (done ++ [{ f with seq := BitVec.ofNat 32 ((done.filter (fun g => g.key = f.key)).length) }]) rest

/-! ## Tile renders (R144 to R149) -/

/-- The pixels of a tile within the target, row by row. -/
def tilePixels (d : PassDesc) (tile : Nat) : List (Nat × Nat) :=
  let x0 := tile % tilesX d * 64
  let y0 := tile / tilesX d * 64
  (List.range (min 64 (d.height - y0))).flatMap (fun dy => (List.range (min 64 (d.width - x0))).map (fun dx => (x0 + dx, y0 + dy)))

/-- The address of a pixel in a buffer of `n` bytes a pixel. -/
def pixelAt (d : PassDesc) (base : BitVec 57) (n x y : Nat) : Nat := base.toNat + n * (y * d.width + x)

/-- R149. -/
def refreshes (d : PassDesc) (x y : Nat) : Bool :=
  if d.refreshK = 0 then true
  else
    let m (n : Nat) : W32 := BitVec.ofNat 32 n
    let h := (m x * 0x6A3D91C5) ^^^ (m y * 0x4F1BB3A7) ^^^ (d.frame * 0x1C69E5D3)
    let h := h ^^^ (h >>> (15 : Nat))
    let h := h * 0x5B8E2C37
    let h := h ^^^ (h >>> (13 : Nat))
    (h >>> (32 - d.refreshK)) == 0

/-- The reuse decision for pixel (x, y) with winning key `w`: the earlier position (R148). -/
def reuseAt (s : State) (p : Pass) (x y w : Nat) : Option (Nat × Nat) :=
  let d := p.desc
  let mv := pipeRead s p.asid (pixelAt d d.prevMotion 4 x y) 4
  let pos (c v : Nat) : Option Int := match valueOf 9 c with
    | .fin q => some (qFloor (qAdd ⟨2 * v + 1, 2⟩ q))
    | .zero _ => some v
    | _ => none
  match pos (field mv 0 16) x, pos (field mv 16 16) y with
  | some qx, some qy =>
    if qx < 0 ∨ qx ≥ d.width ∨ qy < 0 ∨ qy ≥ d.height then none
    else
      let prev := pipeRead s p.asid (pixelAt d d.prevVis 8 qx.toNat qy.toNat) 8
      let diff := (xAdd (valueOf 10 (w / 2 ^ 32)) (xNegate (valueOf 10 (prev / 2 ^ 32)))).1
      let near : Bool := match diff with
        | .zero _ => true
        | .fin q => xCmp (.fin (qAbs q)) (valueOf 10 d.depthTol.toNat) ≤ 0
        | _ => false
      if prev % 2 ^ 32 = w % 2 ^ 32 ∧ near ∧ !refreshes d x y then some (qx.toNat, qy.toNat) else none
  | _, _ => none

/-- The winner of a pixel in an OPAQUE render: its key, and the entry and piece it comes from if that exceeds the seed (R145). (DEDUCED, log 32.) -/
def winnerAt (seed : Nat) (es : List (Nat × List Tri)) (x y : Nat) : Nat × Option ((Nat × List Tri) × Tri) :=
  es.foldl (fun b e => e.2.foldl (fun b t =>
    if t.covers x y then (let k := t.keyAt x y; if b.1 < k then (k, some (e, t)) else b) else b) b) (seed, none)

/-- Entries of a tile with their numbers from 1, each in its pieces. -/
def tileEntries (p : Pass) (tile : Nat) : List (Nat × List Tri) :=
  let es := tgetD p.tiles tile []
  (List.range es.length).map (fun i => (i + 1, (es[i]?).getD []))

/-- The primitive rate and the facing of a winner of the visibility path: those submitted with its visible ID. Where no triangle of that path
carries it, or several that differ do, both are free values. (DEDUCED, log 32.) -/
def smallOf (s : State) (p : Pass) (visid : W32) : Nat × Bool :=
  match p.smallIds.filter (fun e => e.1 = visid) with
  | [e] => (e.2.1.toNat, e.2.2)
  | _ => let n := (s.free + 1) * 2 ^ 32 + visid.toNat; ((Config.freeKind n).toNat % 8, Config.freeChoice n)

/-- One pixel of an OPAQUE render: the key written back, reuse decided, the key recorded; and the pixel if it is to be shaded (R145, R148). -/
def opaquePixel (p : Pass) (es : List (Nat × List Tri)) (acc : State × List Won × Nat) (xy : Nat × Nat) : State × List Won × Nat :=
  let (s, ws, reused) := acc
  let d := p.desc
  let (x, y) := xy
  let va := pixelAt d d.visbuf 8 x y
  let seed := pipeRead s p.asid va 8
  let (w, from_) := winnerAt seed es x y
  let s := if w = seed then s else ((hubUpdate s p.asid.toNat va (fun v => max v w)).getD (postFree s 5 0))
  let sk := pixelAt d d.shadekey 8 x y
  if w = 0 ∨ w = pipeRead s p.asid sk 8 then (s, ws, reused)
  else
    let s := pipeWrite s p.asid sk (leBytes 8 w)
    match (if d.reuse then reuseAt s p x y w else none) with
    | some (qx, qy) =>
      let pb := pixelBytes d.cfmt
      let s := pipeWrite s p.asid (pixelAt d d.target pb x y) (leBytes pb (pipeRead s p.asid (pixelAt d d.prevColour pb qx qy) pb))
      (pipeWrite s p.asid (pixelAt d d.motion 4 x y) (leBytes 4 (pipeRead s p.asid (pixelAt d d.prevMotion 4 qx qy) 4)), ws, reused + 1)
    | none =>
      let visid : W32 := BitVec.ofNat 32 w
      let (prim, front) := match from_ with | some e => (e.2.rate.toNat, e.2.front) | none => smallOf s p visid
      (s, ws ++ [{ x, y, entry := (from_.map (·.1.1)).getD 0, pieces := (from_.map (·.1.2)).getD [], tri := from_.map (·.2), visid, front,
                   rate := rateAt s p prim x y }], reused)

/-- The covered pixels of an entry that pass, in an ORDERED render (R146). -/
def orderedPixels (s : State) (p : Pass) (pixels : List (Nat × Nat)) (e : Nat × List Tri) : List Won :=
  let d := p.desc
  pixels.filterMap (fun q => (e.2.find? (fun t => t.covers q.1 q.2)).bind (fun t =>
    if d.dtest && t.depthAt q.1 q.2 < pipeRead s p.asid (pixelAt d d.visbuf 8 q.1 q.2) 8 / 2 ^ 32 then none
    else some { x := q.1, y := q.2, entry := e.1, pieces := e.2, tri := some t, visid := t.visid, front := t.front, rate := rateAt s p t.rate.toNat q.1 q.2 }))

/-- A tile render of a placed cluster: what the rasteriser does before the first wave (R144 to R146). -/
def startRender (s : State) (id tile cluster : Nat) : State :=
  match tget s.gfx.passes id with
  | some p =>
    let d := p.desc
    let pixels := tilePixels d tile
    let es := tileEntries p tile
    let (s, frags, reused) := if d.ordered then (s, es.flatMap (fun e => formFrags d (orderedPixels s p pixels e)), 0)
      else
        let r := pixels.foldl (opaquePixel p es) (s, [], 0)
        let frags := formFrags d r.2.1
        (if frags.any (·.small) then { r.1 with free := r.1.free + 1 } else r.1, frags, r.2.2)
    let owner := match (s.cluster cluster).groups with | g :: _ => (s.group g).core | [] => 0
    let n := s.gfx.nextRender
    let r : Render := { pass := id, tile, cluster, owner, frags := numberFrags [] frags }
    let s := { s with
      gfx := { s.gfx with renders := tput s.gfx.renders n r, nextRender := n + 1 }
      disp := { s.disp with clusters := tupd s.disp.clusters cluster (fun c => { c with render := some n }) } }
    s.modPass id (fun p => { p with tiles := tdel p.tiles tile, todo := p.todo.filter (· ≠ tile), reused := p.reused + reused, clusterNo := p.clusterNo + 1 })
  | none => s

/-! ## Waves (R147) -/

/-- The free coil of the lowest `CLGROUP` of a render's cluster: one that has completed and whose granules the group can give. -/
def freeCoil (s : State) (cluster : Nat) : Option (Nat × Nat) :=
  (s.cluster cluster).groups.findSome? (fun g =>
    let gr := s.group g
    if !gr.started then none
    else ((List.range gr.coils.length).find? (fun c =>
      let co := (gr.coils[c]?).getD {}
      co.complete && (co.granules ≠ 0 || (s.launchOf g).rec_.vgran ≤ gr.pool))).map (fun c => (g, c)))

/-- A fragment's specials as its thread reads them (R147). -/
def threadFrag (r : Render) (render : Nat) (i : Nat) (f : Frag) : ThreadFrag :=
  { pass := r.pass, render, idx := i, xy := BitVec.ofNat 32 (f.cx % 65536 + f.cy % 65536 * 65536)
    info := BitVec.ofNat 32 (f.rate.toNat + (if f.front then 8 else 0) + (if f.small then 16 else 0) + f.cover.toNat * 32)
    visid := f.visid, key := f.key, seq := f.seq }

def execWaveStart (render : Nat) (s : State) : Out :=
  .next (match tget s.gfx.renders render with
    | some r =>
      let rest := r.frags.drop r.nextFrag
      match freeCoil s r.cluster, rest.isEmpty with
      | some (gid, c), false =>
        let wave := rest.take 32
        let rec_ := (s.launchOf gid).rec_
        let g := s.group gid
        let old := s.coil gid c
        let pc : W64 := rec_.code.setWidth 64 + rec_.entry.setWidth 64
        let threads : List Thread := (List.range 32).map (fun i => match wave[i]? with
          | some f => { pc, lastIssue := s.cor.order, wdogFrom := coreCycles s (s.group gid).core, frag := some (threadFrag r render (r.nextFrag + i) f) }
          | none => { pc, st := .exited })
        let co : Coil := { threads, s := g.params, granules := rec_.vgran, role := old.role, shading := true }
        let s := s.modGroup gid (fun g => { g with pool := if old.granules = 0 then g.pool - rec_.vgran else g.pool, coils := lmod (fun _ => co) g.coils c })
        let s := s.modRender render (fun r => { r with nextFrag := r.nextFrag + wave.length })
        let s := s.modPass r.pass (fun p => { p with shaded := p.shaded + wave.length })
        if c = 0 then takeParamTrap s gid else s
      | _, _ => s
    | none => s)

/-! ## Pixels written (R153, R154) -/

/-- Pixels of a fragment's cell in a coverage. -/
def coverPixels (f : Frag) (cover : W16) : List (Nat × Nat) :=
  let (w, h) := rateSize f.rate.toNat
  ((List.range (w * h)).filter (fun i => cover.getLsbD i)).map (fun i => (f.cx + i % w, f.cy + i / w))

/-- The colour and the motion of a fragment applied to its pixels. -/
def applyFrag (s : State) (p : Pass) (f : Frag) (regs : List W32) (cover : W16) : State :=
  let d := p.desc
  let pb := pixelBytes d.cfmt
  let src := (regs.take 4).map (·.toNat)
  let s := if d.prog then s else (coverPixels f cover).foldl (fun s q =>
    let va := pixelAt d d.target pb q.1 q.2
    let v := if d.ordered then blendPixel d.cfmt d.blendop (pipeRead s p.asid va pb) src else encodePixel d.cfmt src
    pipeWrite s p.asid va (leBytes pb v)) s
  (coverPixels f (if d.prog then f.cover else cover)).foldl (fun s q =>
    pipeWrite s p.asid (pixelAt d d.motion 4 q.1 q.2) (leBytes 4 ((regs[4]?).getD 0).toNat)) s

/-- The blend unit applies the next fragment of its render, in submission order; one that was killed writes nothing (R153, R154). -/
def execBlendApply (render : Nat) (s : State) : Out :=
  .next (match tget s.gfx.renders render with
    | some r =>
      match r.frags[r.applied]?, tget s.gfx.passes r.pass with
      | some f, some p =>
        if !f.done then s
        else
          let s := match f.result with | some (regs, cover) => applyFrag s p f regs cover | none => s
          s.modRender render (fun r => { r with applied := r.applied + 1 })
      | _, _ => s
    | none => s)

/-! ## Retirement and the end of a pass (R133, R141, R157) -/

/-- The tile render retires once its waves have ended, with their copies and what stands in their matrix queues: writes visible at `DEVICE` scope, keys freed, its cluster complete; the last render of a flush frees the pool. -/
def execTileRenderRetire (render : Nat) (s : State) : Out :=
  .next (match tget s.gfx.renders render with
    | some r =>
      let gs := (s.cluster r.cluster).groups
      let busy := gs.any (fun g => !(s.group g).coils.all (·.complete) || !(s.group g).mx.queue.isEmpty || s.cor.copies.any (fun e => (e.2.owner.map (·.1)) = some g))
      if r.applied < r.frags.length ∨ busy then s
      else
        let s := gs.foldl (fun s g => releaseAt s (s.group g).core 3) s
        let s := freeRenderKeys s ((tget s.gfx.passes r.pass).map (·.asid) |>.getD 0) r
        let s := gs.foldl (fun s g => dropGroup (forgetGroup s g) g) s
        let s := { s with
          gfx := { s.gfx with renders := tdel s.gfx.renders render }
          disp := { s.disp with
            clusters := tupd s.disp.clusters r.cluster (fun c => { c with render := none, completed := c.groups })
            inbox := s.disp.inbox ++ [DEvent.groupExit r.cluster] } }
        let s := s.modPass r.pass (fun p => { p with renders := p.renders + 1 })
        match tget s.gfx.passes r.pass with
        | some p =>
          if p.flushing ∧ p.todo.isEmpty ∧ !s.gfx.renders.any (fun e => e.2.pass = r.pass) then
            s.modPass r.pass (fun p => { p with flushing := false, tiles := [], records := 0 })
          else s
        | none => s
    | none => s)

/-- Whether a launch of the pipeline has no cluster placed or saved. -/
def noClusters (s : State) (launch : Nat) : Bool := s.disp.clusters.all (fun e => e.2.launch ≠ launch)

/-- The pass ends (R133): a pass that rendered every tile ends its shading launch; then the status record and PCNT. A fatal pass waits for its
geometry launch (R142). -/
def execPassEnd (pass : Nat) (s : State) : Out :=
  .next (match tget s.gfx.passes pass with
    | some p =>
      if p.stage = .ended then s
      else if p.code = 1 then
        if (s.launch p.launch).ended.isNone then s else (reportPass s p).modPass pass (fun p => { p with stage := .ended })
      else if p.code = 2 then (reportPass s p).modPass pass (fun p => { p with stage := .ended, todo := [], visTodo := [], batch := [], tiles := [] })
      else if p.stage = .rendering ∧ p.todo.isEmpty ∧ !s.gfx.renders.any (fun e => e.2.pass = pass) ∧ noClusters s p.shadeLaunch then
        (reportPass (closeLaunch s p.shadeLaunch .ok) p).modPass pass (fun p => { p with stage := .ended })
      else s
    | none => s)

/-- A pass moved on by the ends of its launches (R133, R159): cancelled with its geometry, visibility or shading launch, or from binning to rendering once the
visibility launch has ended. (DEDUCED, log 31.) -/
def stepPass (s : State) (id : Nat) : State :=
  match tget s.gfx.passes id with
  | some p =>
    if p.stage = .ended ∨ p.code ≠ 0 then s
    else
      let geo := (s.launch p.launch).ended
      let bad (e : Option LStatus) : Bool := match e with | some st => decide (st ≠ .ok) | none => false
      if (s.launch p.shadeLaunch).ended.isSome || bad (s.launch p.visLaunch).ended || bad geo then
        (cancelLaunches s [p.visLaunch, p.shadeLaunch]).modPass id (fun p => { p with code := 2, todo := [], visTodo := [], flushing := false })
      else if geo.isSome ∧ p.stage = .binning then
        let s := closeBatch s id
        match tget s.gfx.passes id with
        | some p =>
          let s := if p.batch.isEmpty ∧ p.visTodo.isEmpty ∧ noClusters s p.visLaunch then closeLaunch s p.visLaunch .ok else s
          if (s.launch p.visLaunch).ended.isNone then s
          else s.modPass id (fun p => { p with
            stage := .rendering, todo := if p.desc.ordered then p.tiles.map (·.1) else List.range (tilesX p.desc * tilesY p.desc) })
        | none => s
      else s
  | none => s

/-- What an open launch has to place: a batch's number, or the lowest tile that is not under a render (R133, R138, R144). -/
def openHead (s : State) (l : Launch) : Option Nat :=
  match l.openKind with
  | some (p, true) => (tget s.gfx.passes p).bind (fun q => q.visTodo.head?)
  | some (p, false) => (tget s.gfx.passes p).bind (fun q => q.todo.find? (fun t => !s.gfx.renders.any (fun e => e.2.pass = p && e.2.tile = t)))
  | none => none

end Sys2Proof.Machine
end

