-- ==== Sys2Proof/Machine/Preempt.lean ====
section
/-! DEFINITION. Pre-emption: requests and save areas, saving and restoring clusters, and the retirement of cores (R25, R38, R127, R128, R276,
R283 to R292). -/
namespace Sys2Proof.Machine

/-! ## Save areas (R287 to R289) -/

/-- Offsets of an area: local memory, the matrix context, its accumulator rows, and the end. -/
def areaLocal (r : LaunchRec) : Nat := 0x1000 + (0x9400 * r.cpg + 0xFFF) / 0x1000 * 0x1000
def hasMatrix (r : LaunchRec) : Bool := r.accg + r.zgran + r.spair ≠ 0
def areaMatrix (r : LaunchRec) : Nat := areaLocal r + 0x1000 * r.lmem
def matrixZ (r : LaunchRec) : Nat := 0x1000 + 0x18000 * r.spair
def matrixRows (r : LaunchRec) : Nat := matrixZ r + 0x2000 * r.zgran
def areaEnd (r : LaunchRec) : Nat := if hasMatrix r then areaMatrix r + matrixRows r + 0x800 * (128 * r.accg) else areaMatrix r
/-- Units of 64 KiB that an area takes. -/
def areaUnits (r : LaunchRec) : Nat := (areaEnd r + 0xFFFF) / 0x10000
/-- The physical address of a unit. -/
def unitAddr (s : State) (u : Nat) : Nat := s.disp.poolBase.toNat * 2 ^ 16 + 0x10000 * u

/-- Units of the pool in use. -/
def unitsUsed (s : State) : List Nat := s.disp.clusters.flatMap (fun e => e.2.areas.flatMap (fun a => (List.range a.2.2).map (· + a.2.1)))

/-- The first free run of `n` units. -/
def findRun (size n : Nat) (used : List Nat) : Option Nat :=
  (List.range (size + 1 - n)).find? (fun u => (List.range n).all (fun i => !used.contains (u + i)))

/-- Areas for groups one after another: group, first unit, units; none where one finds no room. -/
def allocAreas (s : State) (n : Nat) : List Nat → List Nat → Option (List (Nat × Nat × Nat))
  | [], _ => some []
  | g :: gs, used =>
    match findRun s.disp.poolUnits.toNat n used with
    | some u => (allocAreas s n gs (used ++ (List.range n).map (· + u))).map (fun l => (g, u, n) :: l)
    | none => none

/-- Words of 64 bits at offsets of an area. -/
def putWords (s : State) (a : Nat) (ws : List (Nat × Nat)) : State := ws.foldl (fun s w => physWrite s (a + w.1) (leBytes 8 w.2)) s

/-- A bit set as a number: bit `i` where `p` holds. -/
def bitsOf (n : Nat) (p : Nat → Bool) : Nat := (List.range n).foldl (fun a i => if p i then a + 2 ^ i else a) 0

/-- A coil's area (R288). -/
def saveCoil (s : State) (r : LaunchRec) (a : Nat) (co : Coil) : State :=
  let th (t : Nat) : Thread := co.thread t
  let s := (List.range 32).foldl (fun s t =>
    let k := th t
    let s := putWords s a [
      (8 * t, (k.pc - r.code.setWidth 64).toNat % 2 ^ 32 + (if k.st = .exited then 2 ^ 32 else 0) + (if k.intrap then 2 ^ 33 else 0) + k.keys.length % 4 * 2 ^ 34),
      (0x100 + 8 * t, k.fpstat.toNat + k.fptrap.toNat * 2 ^ 8),
      (0x200 + 24 * t, k.trappc.toNat), (0x208 + 24 * t, k.trapaddr.toNat),
      (0x210 + 24 * t, k.trapinfo.toNat + (if k.intrap then 4 else 0) + k.trapcode.toNat * 2 ^ 32)]
    (List.range (min 2 k.keys.length)).foldl (fun s i =>
      let h := (k.keys[i]?).getD { dom := 0, key := 0, seq := 0 }
      putWords s a [(0x500 + 32 * t + 16 * i, h.key.toNat + h.dom.toNat * 2 ^ 32), (0x508 + 32 * t + 16 * i, h.seq.toNat)]) s) s
  let s := physWrite s (a + 0x900) ((List.range 256).flatMap (fun n => leBytes 4 (tgetD co.s n 0).toNat))
  let s := physWrite s (a + 0xD00) (leBytes 32 (bitsOf 256 (fun n => !co.sEmpty.contains n)))
  let s := putWords s a ((List.range 12).map (fun m => (0xD20 + 8 * m, (co.mask m).member.toNat + (co.mask m).arrival.toNat * 2 ^ 32)))
  let s := putWords s a [
    (0xD80, co.fairtime % 2 ^ 16 + co.granules % 64 * 2 ^ 16 + co.role.toNat * 2 ^ 22 + (if co.parked then 2 ^ 24 else 0)),
    (0xD88, (co.task.map (fun t => t.tcb.toNat)).getD 0),
    (0xD90, match co.task with | some t => (if t.ending then 3 else t.part % 4) + t.iter % 2 ^ 32 * 2 ^ 32 | none => 0),
    (0xDA0, co.pass.toNat)]
  let s := (List.range co.granules).foldl (fun s k => (List.range 8).foldl (fun s i =>
    physWrite s (a + 0x1000 + 0x400 * k + 128 * i) ((List.range 32).flatMap (fun t => leBytes 4 (tgetD co.v ((8 * k + i) * 32 + t) 0).toNat))) s) s
  physWrite s (a + 0x9000) (leBytes 1024 (bitsOf 8192 (fun n => !co.vEmpty.contains n)))

/-- The matrix context (R289); what its first 4 KiB do not list holds 0 (R472). -/
def saveMatrix (s : State) (r : LaunchRec) (serial a : Nat) (m : Matrix) : State :=
  let s := putWords (physWrite s a (List.replicate 0x1000 0)) a [(0, serial)]
  let base (st : Nat) : Nat := match st with | 0 => 0x1000 | 1 => 0x19000 | 2 => 0x9000 | _ => 0x21000
  let s := (List.range 4).foldl (fun s st =>
    let ts := tgetD m.streams st []
    if r.spair = 0 ∨ (r.spair = 1 ∧ st % 2 = 1) then s
    else (List.range 4).foldl (fun s i =>
      match ts[i]? with
      | some t => physWrite (physWrite s (a + 0x10 + 16 * st + 4 * i) (leBytes 4 (t.tag.toNat + t.slot.toNat * 2 ^ 12 + 2 ^ 15)))
          (a + base st + (if st < 2 then 0x2000 else 0x4000) * i) t.bytes
      | none => physWrite s (a + 0x10 + 16 * st + 4 * i) (leBytes 4 0)) s) s
  let s := (List.range (4 * r.zgran)).foldl (fun s n =>
    let z := m.z_ n
    let bands := (List.range 4).foldl (fun x i => x + ((z.bands[i]?).getD 0).toNat * 2 ^ (16 * i)) 0
    physWrite (putWords s a [(0x80 + 16 * n, z.tag.toNat + z.slot.toNat * 2 ^ 12), (0x88 + 16 * n, bands)]) (a + matrixZ r + 0x800 * n) (cellsBytes z.blocks 0 0x800)) s
  (List.range (128 * r.accg)).foldl (fun s n =>
    let w : AccRow := tgetD m.rows n {}
    physWrite (physWrite s (a + 0x400 + 4 * n) (leBytes 4 (wrap w.ae 16 + w.ag.toNat * 2 ^ 16)))
      (a + matrixRows r + 0x800 * n) ((List.range 256).flatMap (fun j => leBytes 8 (tgetD w.m j 0).toNat))) s

/-- Copies of a group, in the order of their kicks: those not started, and the `REMOTE` ones whose completion is deferred (R286). -/
def kickList (s : State) (gid : Nat) : List Copy := (s.cor.copies.filter (fun e => (e.2.owner.map (·.1)) = some gid && e.2.st == .queued)).map (·.2)
def deferredList (s : State) (gid : Nat) : List Copy := (s.cor.copies.filter (fun e => (e.2.owner.map (·.1)) = some gid && e.2.st ≠ .queued)).map (·.2)

/-- A group's save area written (R287). -/
def saveArea (s : State) (gid serial unit : Nat) : State :=
  let g := s.group gid
  let l := s.launch g.launch
  let r := l.rec_
  let cl := s.cluster g.cluster
  let a := unitAddr s unit
  let who (c : Copy) : Nat := match c.owner with | some (_, co, lane) => c.off % 2 ^ 19 + co * 2 ^ 19 + lane * 2 ^ 24 | none => 0
  let kicks := kickList s gid
  let defs := deferredList s gid
  let s := putWords s a [(0, 1), (8, serial), (0x10, l.recAddr.toNat), (0x18, cl.x % 2 ^ 24 + cl.y % 2 ^ 16 * 2 ^ 24 + cl.z % 2 ^ 16 * 2 ^ 40 + g.clgroup % 8 * 2 ^ 56),
    (0x20, g.tagbits.toNat), (0x28, g.pool % 2 ^ 10 + kicks.length % 128 * 2 ^ 10 + defs.length % 128 * 2 ^ 17), (0x30, areaLocal r),
    (0x38, if hasMatrix r then areaMatrix r else 0)]
  let s := (List.range (min 64 kicks.length)).foldl (fun s i => physWrite s (a + 0x40 + 4 * i) (leBytes 4 (who ((kicks[i]?).getD {})))) s
  let s := (List.range 64).foldl (fun s t => physWrite s (a + 0x140 + 2 * t) (leBytes 2 (tgetD g.outst t 0))) s
  let s := putWords s a ((List.range (min 64 defs.length)).map (fun i => (0x1C0 + 8 * i, who ((defs[i]?).getD {}))))
  let s := (List.range g.coils.length).foldl (fun s c => saveCoil s r (a + 0x1000 + 0x9400 * c) ((g.coils[c]?).getD {})) s
  let s := physWrite s (a + areaLocal r) (cellsBytes g.lmem 0 (0x1000 * r.lmem))
  if hasMatrix r then saveMatrix s r serial (a + areaMatrix r) g.mx else s

/-! ## Stopping a group (R284 to R286) -/

/-- Whether a coil stands at a point where it can be stopped: with a task, between two parts (R116, R128). -/
def coilReady (co : Coil) : Bool :=
  match co.task with | some t => co.atBoundary || t.ending || t.faulted || t.reading | none => true

/-- A copy that has read no byte (R286). -/
def untouched (c : Copy) : Bool := c.done == 0 && c.buf.isEmpty && (match c.st with | .queued => true | .running => true | .paged _ => true | _ => false)

/-- Whether a group can be stopped now: its coils are ready, its matrix instructions have retired, and every copy that has started has completed, `REMOTE`
ones apart (R284, R286, R396). -/
def groupReady (s : State) (gid : Nat) : Bool :=
  (s.group gid).coils.all coilReady && (s.group gid).mx.queue.isEmpty
    && s.cor.copies.all (fun e => (e.2.owner.map (·.1)) ≠ some gid || untouched e.2 || e.2.st == .remote || (e.2.desc.kind == 5 && e.2.st == .landed))

/-- Every result in flight of a coil lands. -/
def landAll : Nat → Coil → Coil
  | 0, co => co
  | n + 1, co => landAll n (landFirst co)

/-- The `SC` operations of a group that wait for their positions are taken back at its save, so that their lanes execute the instruction afresh at the
restore (R269); one whose lanes have gone on, and a load-block, which ends, are performed now. -/
def takeBackSc (s : State) (gid : Nat) : State :=
  let ops := (tgetD s.xlat.scWaiting (s.group gid).core []).filter (fun o => o.kind ≠ 4 && o.gid = gid)
  let s := ops.foldl (fun s o =>
    let co := s.coil gid o.coil
    if o.kind ≠ 5 ∧ (laneList o.lanes).all (fun l => (co.thread l).st = .runnable && (co.thread l).pc = o.pc + 16) then
      s.modCoil gid o.coil (fun co =>
        o.regs.foldl (fun co r => if r.1 then { co with sEmpty := co.sEmpty.erase r.2.1 } else { co with vEmpty := co.vEmpty.erase (r.2.1 * 32 + r.2.2) })
          (co.mapLanes o.lanes (fun t => { t with pc := o.pc })))
    else performSc s o) s
  s.modGroup gid (fun g => { g with coils := g.coils.map (fun co => { co with scLeft := 0 }) })

/-- A group stopped (R284 to R286): waits withdrawn, `SC` operations taken back, results landed, copies not started back in its kick list, load-blocks ended, its core's lines and
its region's written back at `DEVICE` scope. -/
def quietGroup (s : State) (gid : Nat) : State :=
  let g := s.group gid
  let k := g.core
  let s := takeBackSc ((List.range g.coils.length).foldl (fun s c => withdrawWaits s gid c 0xFFFFFFFF) s) gid
  let s := s.modGroup gid (fun g => { g with
    cbarAt := none
    coils := g.coils.map (fun co =>
      { (landAll co.landings.length co).mapLanes 0xFFFFFFFF (fun t => { t with heldUntil := 0 }) with
        sticky := 0, stickyCount := 0, turnOver := true, drainHeld := false, atBoundary := false })
    mx := { g.mx with checking := none } })
  let kicked := (s.cor.copies.filter (fun (e : Nat × Copy) => (e.2.owner.map (·.1)) = some gid && untouched e.2)).map (·.1)
  let s := { s with
    cor := { s.cor with copies := s.cor.copies.map (fun (e : Nat × Copy) => if kicked.contains e.1 then (e.1, { e.2 with st := .queued }) else e) }
    xlat := { s.xlat with
      merge := (s.xlat.merge.map (fun (e : Nat × Merge) => (e.1, { e.2 with att := e.2.att.filter (fun a => match a with
        | .copy id => !kicked.contains id | .param g => g ≠ gid | .coil g _ _ _ => g ≠ gid) }))).filter (fun e => e.2.posted || !e.2.att.isEmpty)
      scWaiting := s.xlat.scWaiting.map (fun (e : Nat × List ScOp) => (e.1, e.2.filter (fun o => o.kind = 4 || o.gid ≠ gid))) } }
  let s := s.modCore k (fun c => { c with copyq := c.copyq.filter (fun i => !kicked.contains i) })
  let blocks := (s.cor.blocks.filter (fun e => e.2.gid = gid)).map (·.1)
  releaseAt (blocks.foldl (fun s b => endBlock (finishBlock s b) b) s) k 3

/-- A group goes on from its saved state on a core, which acquires for it first, so that none of its loads reads older bytes than its threads have read or
written before (R249, R290). (DEDUCED, log 34.) -/
def resumeGroup (s : State) (gid k slot0 : Nat) (slots : List Nat) : State :=
  let kicked := (s.cor.copies.filter (fun (e : Nat × Copy) => (e.2.owner.map (·.1)) = some gid && e.2.st == .queued)).map (·.1)
  let s := acquireAt s k gid 4
  let now := coreCycles s k
  let s := s.modGroup gid (fun g => { g with
    core := k, slot0, slots, saved := false
    coils := g.coils.map (fun co => { co.mapLanes 0xFFFFFFFF (fun t => { t with lastIssue := s.cor.order, wdogFrom := now }) with parkedFrom := now }) })
  let s := { s with cor := { s.cor with copies := s.cor.copies.map (fun (e : Nat × Copy) =>
    if (e.2.owner.map (fun (w : Nat × Nat × Nat) => w.1)) = some gid then (e.1, { e.2 with core := k }) else e) } }
  let s := s.modCore k (fun c => { c with copyq := c.copyq ++ kicked })
  let s := (List.range (s.group gid).coils.length).foldl (fun s c => beginTask s gid c) s
  if (s.group gid).started then s else loadParams s gid

/-! ## Saved contexts and key watchdogs (R282) -/

/-- Key watchdogs of an address space pause while one of its contexts is saved, and go on from their count afterwards. -/
def settlePause (s : State) : State :=
  let live := ((s.cor.groups.filter (fun e => e.2.saved)).map (fun e => (s.launch e.2.launch).asid.toNat)).eraseDups
  if live.all (fun a => (tget s.disp.paused a).isSome) ∧ s.disp.paused.all (fun e => live.contains e.1) then s
  else
    let s := { s with slices := s.slices.map (fun (q : Nat × Slice) => (q.1, { q.2 with keys := q.2.keys.map (fun (k : Nat × KeyEntry) => (k.1, tickKey s k.2)) })) }
    { s with disp := { s.disp with paused := live.foldl (fun t a => tput t a (tgetD s.disp.paused a s.time)) [] } }

/-- A request is done once every cluster it stopped has been saved or has gone, and a RESUME once those it offers have been restored or have gone (R283,
R292); GROUPS counts the groups as their clusters are saved (R294). -/
def settlePreempt (s : State) : State :=
  if s.disp.preState ≠ 1 then s
  else
    let left := s.disp.preWait.filter (fun c => match tget s.disp.clusters c with | some cl => if s.disp.preResume then cl.saved else cl.stopping | none => false)
    let saved := if s.disp.preResume then [] else (s.disp.preWait.filter (fun c => !left.contains c && (s.cluster c).saved)).flatMap (fun c => (s.cluster c).groups.filter (fun g => (s.group? g).isSome))
    { s with disp := { s.disp with preWait := left, preGroups := s.disp.preGroups + BitVec.ofNat 16 saved.length, preState := if left.isEmpty then 2 else 1 } }

/-! ## Requests (R283) -/

def refusePreempt (s : State) (err : Nat) : State := { s with disp := { s.disp with preErr := BitVec.ofNat 3 err, preErrSet := true } }

/-- The resident clusters of a launch with their groups that have not completed. -/
def residentOf (s : State) (launch : Nat) : List (Nat × List Nat) :=
  (s.disp.clusters.filter (fun e => e.2.launch = launch && !e.2.saved)).map (fun e => (e.1, e.2.groups.filter (fun g => (s.group? g).isSome)))

/-- A request acted on at step 2 of a decision. -/
def applyPreempt (s : State) (lcnt : BitVec 57) (op : Nat) : State :=
  match s.disp.launches.find? (fun e => e.2.live && e.2.accepted && e.2.ending.isNone && e.2.rec_.lcnt = lcnt) with
  | none => refusePreempt s 1
  | some (id, l) =>
    if s.disp.preState = 1 then refusePreempt s 3
    else if (op = 3) ≠ l.suspended then refusePreempt s 4
    else if op = 3 then
      let s := s.modLaunch id (fun l => { l with suspended := false })
      settlePreempt { s with disp := { s.disp with preState := 1, preErr := 0, preGroups := 0, preWait := l.saved, preResume := true } }
    else if s.disp.poolUnits = 0 then refusePreempt s 2
    else
      let cls := (residentOf s id).filter (fun c => !(s.cluster c.1).stopping)
      let gs := cls.flatMap (·.2)
      match allocAreas s (areaUnits l.rec_) gs (unitsUsed s) with
      | none => refusePreempt s 2
      | some areas =>
        let s := cls.foldl (fun s c => { s with disp := { s.disp with clusters := tupd s.disp.clusters c.1 (fun cl =>
          { cl with stopping := true, areas := areas.filter (fun a => c.2.contains a.1) }) } }) s
        let s := s.modLaunch id (fun l => { l with suspended := op == 1 })
        settlePreempt { s with disp := { s.disp with preState := 1, preErr := 0, preGroups := 0, preWait := cls.map (·.1), preResume := false } }

/-! ## Saving and restoring a cluster (R127, R276, R284, R289) -/

/-- The containment of a launch that a save or a restore starts: `MACHINE_CHECK`, CAUSE 2. -/
def containAt (s : State) (gid c lane : Nat) (pc addr : W64) : State :=
  let g := s.group gid
  let rec_ : Containment := { code := 0x10, cause := 2, core := BitVec.ofNat 8 g.core, coil := BitVec.ofNat 5 c, lane := BitVec.ofNat 5 lane, pc, addr }
  { s with disp := { s.disp with inbox := s.disp.inbox ++ [.contain g.launch rec_] } }

/-- A thread of a group with an error pending in one of its registers, or with a poisoned one, which the save would read (R27, R276): with the address that it
came from (R275). -/
def pendingIn (g : Group) : Option (Nat × Nat × W64) :=
  (List.range g.coils.length).findSome? (fun c =>
    let co := (g.coils[c]?).getD {}
    let live := (List.range 32).filter (fun t => (co.thread t).st ≠ .exited)
    match pendingError co live ++ live.filter (fun l => co.struck.any (fun u => 8192 ≤ u || u % 32 == l)) with
    | l :: _ => some (c, l, ((pendingAddrs co)[l]?).getD 0)
    | [] => none)

def execClusterSave (cluster : Nat) (s : State) : Out :=
  .next (match tget s.disp.clusters cluster with
    | some cl =>
      let gs := cl.groups.filter (fun g => (s.group? g).isSome)
      if !cl.stopping ∨ !gs.all (groupReady s) then s
      else
        let s := gs.foldl quietGroup s
        match gs.findSome? (fun g => (pendingIn (s.group g)).map (fun p => (g, p))) with
        | some (g, c, lane, addr) =>
          let s := { s with disp := { s.disp with clusters := tupd s.disp.clusters cluster (fun cl => { cl with stopping := false, areas := [] }) } }
          settlePreempt (containAt (s.modCoil g c (fun co => { co with stopped := true })) g c lane ((s.coil g c).thread lane).pc addr)
        | none =>
          let serial := s.disp.serial + 1
          let s := { s with disp := { s.disp with serial } }
          let s := cl.areas.foldl (fun s a => saveArea s a.1 serial.toNat a.2.1) s
          let cores := gs.map (fun g => (s.group g).core)
          let s := gs.foldl (fun s g => s.modGroup g (fun g => { g with saved := true })) s
          let s := cores.foldl idleCore s
          let s := { s with disp := { s.disp with clusters := tupd s.disp.clusters cluster (fun cl => { cl with stopping := false, saved := true, serial }) } }
          settlePreempt (settlePause (s.modLaunch cl.launch (fun l => { l with saved := l.saved ++ [cluster] })))
    | none => s)

/-- Whether a group's area can still be read back: both SERIALs stand and no error does (R289). -/
def areaGood (s : State) (cl : Cluster) (a : Nat × Nat × Nat) : Bool :=
  let r := (s.launch cl.launch).rec_
  let p := unitAddr s a.2.1
  !poisoned s p (areaEnd r) && (!hasMatrix r || physNat s (p + 8) 8 == physNat s (p + areaMatrix r) 8)

/-- A saved cluster restored on cores with their slots, one to each group that is left (R127, R290). -/
def restoreCluster (s : State) (cluster region : Nat) (places : List (Nat × Nat × Nat × List Nat)) : State :=
  let cl := s.cluster cluster
  let bad := cl.areas.find? (fun a => !areaGood s cl a)
  let s := places.foldl (fun s p => resumeGroup s p.1 p.2.1 p.2.2.1 p.2.2.2) s
  let s := { s with disp := { s.disp with clusters := tupd s.disp.clusters cluster (fun c => { c with saved := false, region, areas := [] }) } }
  let s := settlePreempt (settlePause (s.modLaunch cl.launch (fun l => { l with saved := l.saved.erase cluster })))
  match bad with
  | some a =>
    containAt (s.modGroup a.1 (fun g => { g with coils := g.coils.map (fun co => { co with stopped := true }) })) a.1 0 0 ((s.coil a.1 0).thread 0).pc (BitVec.ofNat 64 (unitAddr s a.2.1))
  | none => s

/-! ## Registers and events -/

def preemptEvent (s : State) (lcnt : BitVec 57) (op : Nat) : State := { s with disp := { s.disp with inbox := s.disp.inbox ++ [.preempt lcnt op] } }

def execPreemptSuspend (lcnt : BitVec 57) (s : State) : Out := .next (preemptEvent s lcnt 1)
def execPreemptRequeue (lcnt : BitVec 57) (s : State) : Out := .next (preemptEvent s lcnt 2)
def execPreemptResume (lcnt : BitVec 57) (s : State) : Out := .next (preemptEvent s lcnt 3)

/-- A write of the save-pool registers, ignored with BADWR while any group is saved (R294); bit 16 of SAVE_POOL_SIZE clears BADWR. -/
def execSavePoolWrite (size : Bool) (val : W64) (s : State) : Out :=
  let s := if size ∧ val.getLsbD 16 then { s with disp := { s.disp with poolBad := false } } else s
  .next (if s.cor.groups.any (fun e => e.2.saved) then { s with disp := { s.disp with poolBad := true } }
    else if size then { s with disp := { s.disp with poolUnits := val.setWidth 16 } }
    else { s with disp := { s.disp with poolBase := BitVec.ofNat 36 (field val.toNat 16 36) } })

/-! ## Cores retired (R25, R38) -/

/-- A core retired onto its region's spare, which it reports (R72): once its contexts can be stopped, they go on from the spare, which takes the number (R25).
(DEDUCED, log 30.) -/
def execCoreRetire (core : Nat) (s : State) : Out :=
  let r := regionOf core
  .next (if 191 < core ∨ s.mod.coreGone.contains core ∨ s.mod.spareUsed.contains r then s
    else
      let s := if s.mod.retiring.contains core then s else { s with mod := { s.mod with retiring := s.mod.retiring ++ [core] } }
      let gs := (s.cor.groups.filter (fun e => e.2.core = core && !e.2.saved)).map (·.1)
      if !gs.all (groupReady s) then s
      else
        let s := gs.foldl quietGroup s
        let s := (releaseAt s core 3).modCore core (fun c => { c with l1 := {}, tlb := [], predictor := [], owned := [] })
        let s := { s with mod := { s.mod with
          retiring := s.mod.retiring.erase core, spareUsed := s.mod.spareUsed ++ [r], corePhys := tput s.mod.corePhys core 8 } }
        let s := gs.foldl (fun s g => resumeGroup s g core (s.group g).slot0 (s.group g).slots) s
        let s := gs.foldl (fun s g => match pendingIn (s.group g) with
          | some (c, lane, addr) => containAt (s.modCoil g c (fun co => { co with stopped := true })) g c lane ((s.coil g c).thread lane).pc addr
          | none => s) s
        reportUnit s 4 core)

/-- A core retired with no spare left: its number has no core, its flags are gone, and its clusters are saved as by REQUEUE (R38); a cluster that the
pool cannot hold is saved without an area (DESIGN CHOICE, log 42). -/
def execCoreRetireNoSpare (core : Nat) (s : State) : Out :=
  .next (if 191 < core ∨ s.mod.coreGone.contains core ∨ !s.mod.spareUsed.contains (regionOf core) then s
    else
      let s := { s with mod := { s.mod with coreGone := s.mod.coreGone ++ [core] } }
      let s := s.modCore core (fun c => { c with flags := [] })
      let cls := ((s.cor.groups.filter (fun e => e.2.core = core && !e.2.saved)).map (fun e => e.2.cluster)).eraseDups
      let s := cls.foldl (fun s c =>
        let cl := s.cluster c
        if cl.stopping then s
        else
          let areas := (allocAreas s (areaUnits (s.launch cl.launch).rec_) (cl.groups.filter (fun g => (s.group? g).isSome)) (unitsUsed s)).getD []
          { s with disp := { s.disp with clusters := tupd s.disp.clusters c (fun cl => { cl with stopping := true, areas }) } }) s
      reportUnit s 4 core)

end Sys2Proof.Machine
end

