-- ==== Sys2Proof/Machine/Dispatcher.lean ====
section
/-! DEFINITION. The dispatcher's decisions: the order of their steps, placement and reservations, energy rebalancing, class shares, and what KC0 and
KC1 tell it (R75, R76, R90, R95 to R100, R103, R319). -/
namespace Sys2Proof.Machine

/-! ## Room (R95) -/

/-- What groups hold of a core: coil slots, register granules, local memory, accumulator granules, scale granules, stream pairs. -/
structure Held where
  coils : Nat := 0
  vgran : Nat := 0
  lmem : Nat := 0
  accg : Nat := 0
  zgran : Nat := 0
  spair : Nat := 0
  deriving DecidableEq, Repr

/-- Whether the last coil of a group has completed, so that its allocation is free; the coils of a shading group go on to their next waves (R95, R147). -/
def allDone (g : Group) : Bool := g.coils.all (fun co => co.complete && !co.shading)

/-- Groups that hold their allocation of a core (R95). -/
def residents (s : State) (k : Nat) : List Group := (s.cor.groups.filter (fun e => e.2.core = k && !e.2.saved && !allDone e.2)).map (·.2)

def heldOn (s : State) (k : Nat) : Held :=
  (residents s k).foldl (fun h g =>
    let r := (s.launch g.launch).rec_
    { coils := h.coils + r.cpg, vgran := h.vgran + r.cpg * r.vgran, lmem := h.lmem + r.lmem, accg := h.accg + r.accg, zgran := h.zgran + r.zgran,
      spair := h.spair + r.spair }) {}

/-- Whether a core can take groups at all: it is neither lost nor being retired. -/
def coreOpen (s : State) (k : Nat) : Bool := !s.mod.coreGone.contains k && !s.mod.retiring.contains k

/-- The room of a core for the groups of a launch. -/
def roomOn (s : State) (k : Nat) (r : LaunchRec) : Nat :=
  let h := heldOn s k
  let term (cap used need : Nat) (m : Nat) : Nat := if need = 0 then m else min m ((cap - used) / need)
  term 2 h.spair r.spair (term 8 h.zgran r.zgran (term 4 h.accg r.accg (term 128 h.lmem r.lmem
    (min ((64 - h.coils) / r.cpg) ((512 - h.vgran) / (r.cpg * r.vgran))))))

/-- Cores of a region with room for a launch's groups, with their rooms. -/
def roomyCores (s : State) (region : Nat) (r : LaunchRec) : List (Nat × Nat) :=
  ((List.range 8).map (· + 8 * region)).filterMap (fun k => if coreOpen s k ∧ 1 ≤ roomOn s k r then some (k, roomOn s k r) else none)

/-- Insertion by an order, stable. -/
def insertBy {α : Type} (lt : α → α → Bool) (x : α) : List α → List α
  | [] => [x]
  | y :: t => if lt x y then x :: y :: t else y :: insertBy lt x t
def sortBy {α : Type} (lt : α → α → Bool) (l : List α) : List α := l.foldl (fun a x => insertBy lt x a) []

/-- `BestFit` of R97: the tightest region of those allowed, and its cores of least room. -/
def bestFit (s : State) (r : LaunchRec) (need : Nat) (allowed : List Nat) : Option (Nat × List Nat) :=
  let best := allowed.foldl (fun (b : Option (Nat × Nat)) g =>
    let n := (roomyCores s g r).length
    if need ≤ n then (match b with | some (_, m) => if n < m then some (g, n) else b | none => some (g, n)) else b) none
  best.map (fun b => (b.1, ((sortBy (fun (x y : Nat × Nat) => x.2 < y.2 || (x.2 == y.2 && x.1 < y.1)) (roomyCores s b.1 r)).take need).map (·.1)))

/-! ## Candidates (R96) -/

def ageHard : Nat := 200 * 132000

/-- What a launch offers next: a saved cluster first, what an open launch has, or its lowest unplaced cluster. -/
def offerOf (s : State) (id : Nat) : Option Cand :=
  let l := s.launch id
  if !l.live ∨ !l.accepted ∨ l.ending.isSome ∨ l.suspended then none
  else match l.saved, l.openKind with
    | c :: _, _ => some { launch := id, kind := 1, idx := c }
    | [], some _ => (openHead s l).map (fun i => { launch := id, kind := 2, idx := i })
    | [], none => if l.next < l.rec_.gx * l.rec_.gy * l.rec_.gz then some { launch := id, kind := 0, idx := l.next } else none

/-- The head of every pending list, and since when: a new head's time is now. -/
def refreshHeads (s : State) : State :=
  let heads : Tab (Cand × Nat) := s.disp.pending.filterMap (fun e => (e.2.findSome? (offerOf s)).map (fun c =>
    (e.1, c, match tget s.disp.heads e.1 with | some (d, t) => if d = c then t else s.time | none => s.time)))
  { s with disp := { s.disp with heads } }

/-- PLACE_WT of a class (R74). -/
def placeWt (s : State) (cls : Nat) : Nat := field s.fw.placeWt.toNat (4 * cls) 4

/-- Whether one head comes before another: queue, candidate and head time. (DEDUCED, log 28.) -/
def candBefore (s : State) (a b : Nat × Cand × Nat) : Bool :=
  let old (x : Nat × Cand × Nat) : Bool := ageHard ≤ s.time - x.2.2
  let la := s.launch a.2.1.launch
  let lb := s.launch b.2.1.launch
  if old a != old b then old a
  else if old a && a.2.2 ≠ b.2.2 then a.2.2 < b.2.2
  else if la.prio ≠ lb.prio then la.prio > lb.prio
  else if placeWt s la.cls ≠ placeWt s lb.cls then placeWt s la.cls > placeWt s lb.cls
  else if a.2.2 ≠ b.2.2 then a.2.2 < b.2.2
  else a.1 < b.1

/-- The candidates in their order. -/
def candidates (s : State) : List (Nat × Cand × Nat) := sortBy (candBefore s) s.disp.heads

/-! ## Placement (R97, R98, R127) -/

/-- Groups of a saved cluster that are left, in `CLGROUP` order. -/
def groupsLeft (s : State) (c : Nat) : List Nat :=
  sortBy (fun a b => (s.group a).clgroup < (s.group b).clgroup) ((s.cluster c).groups.filter (fun g => (s.group? g).isSome))

/-- How many cores a candidate needs. -/
def coresNeeded (s : State) (c : Cand) : Nat := if c.kind = 1 then (groupsLeft s c.idx).length else (s.launch c.launch).rec_.gpc

/-- The lowest free coil slots of a core. -/
def freeSlots (s : State) (k n : Nat) : List Nat :=
  let used := (residents s k).flatMap (·.slots)
  ((List.range 64).filter (fun i => !used.contains i)).take n

/-- A new cluster of a launch placed on cores of a region, group `CLGROUP` j on the j-th. -/
def newCluster (s : State) (launch x y z region : Nat) (cores : List Nat) (waves : Bool) : Nat × State :=
  let id := s.disp.nextCluster
  let cl : Cluster := { launch, x, y, z, region }
  let s := { s with disp := { s.disp with clusters := tput s.disp.clusters id cl, nextCluster := id + 1 } }
  let cpg := (s.launch launch).rec_.cpg
  let r := (List.range cores.length).foldl (fun (p : State × List Nat) j =>
    let k := (cores[j]?).getD 0
    let slots := freeSlots p.1 k cpg
    let g := startGroup p.1 id launch j k ((slots.head?).getD 0) slots waves
    (g.2, p.2 ++ [g.1])) (s, [])
  (id, { r.1 with disp := { r.1.disp with clusters := tupd r.1.disp.clusters id (fun c => { c with groups := r.2 }) } })

/-- The report to KC0 of a launch taken on the direct path, after its first placement (R65). -/
def reportDirect (s : State) (id : Nat) : State :=
  let l := s.launch id
  if l.direct then (postFree s 1 l.qid).modLaunch id (fun l => { l with direct := false }) else s

/-- A candidate placed. -/
def placeCand (s : State) (c : Cand) (region : Nat) (cores : List Nat) : State :=
  let l := s.launch c.launch
  match c.kind, l.openKind with
  | 1, _ =>
    let gs := groupsLeft s c.idx
    let places := (List.range gs.length).foldl (fun (p : List (Nat × Nat × Nat × List Nat)) j =>
      let k := (cores[j]?).getD 0
      let slots := freeSlots s k l.rec_.cpg
      p ++ [((gs[j]?).getD 0, k, (slots.head?).getD 0, slots)]) []
    restoreCluster s c.idx region places
  | 2, some (p, true) =>
    (newCluster (s.modPass p (fun q => { q with visTodo := q.visTodo.drop 1 })) c.launch (c.idx % 2 ^ 24) 0 0 region cores false).2
  | 2, some (p, false) =>
    let n := ((tget s.gfx.passes p).map (·.clusterNo)).getD 0
    let r := newCluster s c.launch (n % 2 ^ 24) 0 0 region cores true
    startRender r.2 p c.idx r.1
  | _, _ =>
    let r := l.rec_
    let s := s.modLaunch c.launch (fun l => { l with next := l.next + 1 })
    reportDirect (newCluster s c.launch (c.idx % r.gx) (c.idx / r.gx % r.gy) (c.idx / (r.gx * r.gy)) region cores false).2 c.launch

/-- `ReserveRegion` of R97. -/
def reserveRegion (s : State) (r : LaunchRec) : Nat :=
  let score (g : Nat) : Nat × Nat :=
    ((roomyCores s g r).length, (((List.range 8).map (· + 8 * g)).filter (coreOpen s)).foldl (fun a k => a + (64 - (heldOn s k).coils)) 0)
  ((List.range 24).foldl (fun (b : Nat × Nat × Nat) g =>
    let v := score g
    if b.2.1 < v.1 ∨ (b.2.1 = v.1 ∧ b.2.2 < v.2) then (g, v) else b) (0, score 0)).1

/-- Back-fill in candidate order, outside the reserved region. -/
def backFill (s : State) (allowed : List Nat) : List (Nat × Cand × Nat) → State
  | [] => s
  | h :: t =>
    match bestFit s (s.launch h.2.1.launch).rec_ (coresNeeded s h.2.1) allowed with
    | some fit => placeCand s h.2.1 fit.1 fit.2
    | none => backFill s allowed t

def setResv (s : State) (r : Option (Cand × Nat)) : State := { s with disp := { s.disp with resv := r } }

/-- `PlaceOnce` of R97. -/
def placeOnce (s : State) : State :=
  match candidates s with
  | [] => s
  | h :: rest =>
    let c := h.2.1
    let r := (s.launch c.launch).rec_
    let s := if (s.disp.resv.map (·.1)) = some c then s else setResv s none
    match bestFit s r (coresNeeded s c) (List.range 24) with
    | some fit => setResv (placeCand s c fit.1 fit.2) none
    | none =>
      let age := s.time - h.2.2
      let s := if s.disp.resv.isNone ∧ min (s.fw.ageLimit * 132000) ageHard ≤ age then postNote (setResv s (some (c, reserveRegion s r))) 3 h.1 (reserveRegion s r) else s
      if ageHard ≤ age then s
      else backFill s ((List.range 24).filter (fun g => some g ≠ s.disp.resv.map (·.2))) rest

/-! ## A decision (R90) -/

/-- Step 1: exits of groups, completions of clusters and units, and the passes that move on with them. -/
def decideExits (s : State) (evs : List DEvent) : State :=
  let s := evs.foldl (fun s e => match e with | .groupExit cl => applyExit s cl | _ => s) s
  (s.gfx.passes.map (·.1)).foldl stepPass (retryEnds s)

/-- Step 2: containments, cancels, then pre-emption requests (R275, R283). -/
def decideCancels (s : State) (evs : List DEvent) : State :=
  let s := evs.foldl (fun s e => match e with | .contain l c => applyContain s l c | _ => s) s
  let s := evs.foldl (fun s e => match e with | .cancel a c l => applyCancel s a c l | _ => s) s
  let s := (s.gfx.passes.map (·.1)).foldl stepPass s
  evs.foldl (fun s e => match e with | .preempt l op => applyPreempt s l op | _ => s) s

/-- Step 3: priority changes. -/
def decidePrios (s : State) (evs : List DEvent) : State :=
  evs.foldl (fun s e => match e with | .prio a c l p => applyPrio s a c l p | .queuePrio q p => applyQueuePrio s q p | _ => s) s

/-- Step 4: acceptance of new launches and graphs. -/
def decideAccepts (s : State) (evs : List DEvent) : State :=
  let s := evs.foldl (fun s e => match e with | .launch id => acceptLaunch s id | .graph g => acceptGraph s g | _ => s) s
  acceptChildren (acceptReady (graphFuel s) s) (fun _ => true)

def execDispatcherDecision (s : State) : Out :=
  let evs := s.disp.inbox
  let s := checkTasks { s with disp := { s.disp with inbox := [] } }
  let s := decideAccepts (decidePrios (decideCancels (decideExits s evs) evs) evs) evs
  .next (settlePreempt (settlePause (refreshHeads (placeOnce (refreshHeads s)))))

/-- A group whose coils have all completed and whose copies are done completes: its exit goes to the dispatcher (R80, R319). -/
def execGroupComplete (gid : Nat) (s : State) : Out :=
  .next (match s.group? gid with
    | some g =>
      let busy := s.cor.copies.any (fun e => (e.2.owner.map (·.1)) = some gid)
      if !g.started ∨ g.saved ∨ !g.coils.all (·.complete) ∨ busy ∨ !g.mx.queue.isEmpty ∨ (s.cluster g.cluster).render.isSome then s
      else
        let s := dropGroup (forgetGroup s gid) gid
        let s := { s with disp := { s.disp with
          clusters := tupd s.disp.clusters g.cluster (fun c => { c with completed := c.completed ++ [gid] }), inbox := s.disp.inbox ++ [.groupExit g.cluster] } }
        testCbar s g.cluster
    | none => s)

/-! ## Energy (R100) -/

/-- Arrivals of a window by episodes, each with its ranks: core and rank/(k - 1). -/
def episodeRanks : Nat → List (Nat × Int × Nat) → List (Nat × Q)
  | 0, _ => []
  | _, [] => []
  | fuel + 1, (c, t, k) :: rest =>
    let ep := ((c, t, k) :: rest).take k
    let sorted := sortBy (fun (x y : Nat × Int × Nat) => x.2.1 / 40 < y.2.1 / 40 || (x.2.1 / 40 == y.2.1 / 40 && x.1 < y.1)) ep
    let ranks : List (Nat × Q) := if k < 2 then [] else (List.range ep.length).map (fun (i : Nat) => (((sorted[i]?).map (·.1)).getD 0, ⟨i, k - 1⟩))
    ranks ++ episodeRanks fuel (rest.drop (k - 1))

/-- Score over count of a core in a window. -/
def coreScore (rs : List (Nat × Q)) (k : Nat) : Q :=
  let mine := (rs.filter (fun r => r.1 = k)).map (·.2)
  let sum := mine.foldl qAdd ⟨0, 1⟩
  ⟨sum.num, sum.den * mine.length⟩

/-- The step of a window (R100). A core that has no resident group any more is back at 3.3 GHz at once. -/
def execEnergyRebalance (region : Nat) (s : State) : Out :=
  .next (if tgetD s.mod.episodes region 0 < s.fw.balWindow.toNat + 1 then s
    else
      let l := tgetD s.mod.balance region []
      let rs := episodeRanks l.length l
      let cores := sortBy (fun (a b : Nat) => decide (a < b)) (rs.map (·.1)).eraseDups
      let s := { s with mod := { s.mod with episodes := tput s.mod.episodes region 0, balance := tput s.mod.balance region [] } }
      match cores with
      | c :: d :: t =>
        let worst := (d :: t).foldl (fun w k => if qLt (coreScore rs w) (coreScore rs k) then k else w) c
        let best := (d :: t).foldl (fun b k => if qLe (coreScore rs k) (coreScore rs b) then k else b) c
        let fw := coreFreq s worst
        let fb := coreFreq s best
        if !s.fw.balEn ∨ worst = best ∨ 3600 ≤ fw ∨ tgetD s.mod.ceiling worst 3600 ≤ fw ∨ fb ≤ 2800 then s
        else postFree (idleCore (idleCore (setFreq (setFreq s worst (fw + 25)) best (fb - 25)) worst) best) 3 worst
      | _ => s)

/-! ## Registers (R75, R76, R103) -/

/-- Classes 0 to 3 alone have registers. -/
def execWaysClassWrite (n : Nat) (val : W32) (s : State) : Out :=
  .next (if 3 < n then s
    else
      let bad := if val.getLsbD 16 then s.disp.waysBad.erase n else s.disp.waysBad
      let w : W16 := val.setWidth 16
      if w = 0 then { s with disp := { s.disp with waysBad := bad.erase n ++ [n] } }
      else { s with disp := { s.disp with waysBad := bad, ways := tput s.disp.ways n w } })

def classShare (s : State) (n : Nat) : Nat := (tgetD s.disp.bw n 16).toNat

def execBwClassWrite (n : Nat) (val : W32) (s : State) : Out :=
  .next (if 3 < n then s
    else
      let bad := if val.getLsbD 7 then s.disp.bwBad.erase n else s.disp.bwBad
      let v := val.toNat % 128
      let others := ((List.range 4).filter (· ≠ n)).foldl (fun a i => a + classShare s i) 0
      if 64 < v ∨ 64 < v + others then { s with disp := { s.disp with bwBad := bad.erase n ++ [n] } }
      else { s with disp := { s.disp with bwBad := bad, bw := tput s.disp.bw n (BitVec.ofNat 7 v) } })

/-- An event for the dispatcher's next decision. -/
def toDispatcher (s : State) (e : DEvent) : State := { s with disp := { s.disp with inbox := s.disp.inbox ++ [e] } }

/-- A cancel from KC0 names its unit in any address space. -/
def execDspCancel (val : W64) (s : State) : Out := .next (toDispatcher s (.cancel none (val.setWidth 57) (field val.toNat 57 3)))
def execDspPrio (val : W64) (s : State) : Out := .next (toDispatcher s (.prio none (val.setWidth 57) (field val.toNat 57 3) (field val.toNat 60 4)))

/-- KC_STAT.CLAMP of a kiln core. -/
def setClamp (s : State) (k : Nat) : State := { s with fw := { s.fw with kilns := tmod s.fw.kilns k {} (fun q => { q with clamp := true }) } }

def execAgeLimitWrite (val : W64) (s : State) : Out :=
  let v := val.toNat
  let c := if v = 0 then 1 else min v 200
  let s := { s with fw := { s.fw with ageLimit := c } }
  .next (if c = v then s else setClamp s 1)

def execOswdogWrite (val : W64) (s : State) : Out :=
  let v := val.toNat
  let c := max (2 ^ 16) (min v (2 ^ 28))
  let s := { s with fw := { s.fw with oswdog := c } }
  .next (if c = v then s else setClamp s 2)

end Sys2Proof.Machine
end

