-- ==== Sys2Proof/Machine/Xlat.lean ====
section
/-! DEFINITION. Translation events: walks that end, replays of faults, invalidations, and AS_TAB_BASE (R240 to R244, R268, R277 to R279). -/
namespace Sys2Proof.Machine

def State.modMerge (s : State) (i : Nat) (f : Merge → Merge) : State := { s with xlat := { s.xlat with merge := tupd s.xlat.merge i f } }
def State.dropMerge (s : State) (i : Nat) : State := { s with xlat := { s.xlat with merge := tdel s.xlat.merge i } }

/-- Threads of a coil that waited for the replay of an entry continue: the instruction is selected again. -/
def wakeFault (s : State) (i : Nat) (a : Attached) : State :=
  match a with
  | .coil gid c _ _ => s.modCoil gid c (fun co => co.wakeAll (· = .fault i))
  | _ => s

/-- A stalled issue group enters a fault wait for an entry (R277). -/
def waitFault (s : State) (i : Nat) (a : Attached) : State :=
  match a with
  | .coil gid c lanes pc =>
    let co := s.coil gid c
    let here := lanes &&& co.lanesWhere (fun t => t.st = .runnable && t.pc = pc)
    if here = 0 then s else enterWait s gid c here (.fault i) pc
  | _ => s

/-- A copy that waited for a page goes on; a group reads its block, or a task unit its loop record, again. -/
def answerEngine (s : State) (a : Attached) : State :=
  match a with
  | .copy id => s.modCopy id (fun c => match c.st with | .paged _ => { c with st := .running } | _ => c)
  | .param gid => loadParams s gid
  | .coil gid c lanes _ => if lanes = 0 then beginTask s gid c else s

/-- A copy that waited for a page fails with STATUS `FAULT` (R211, R279), or a group or a task takes the failure. -/
def failEngine (s : State) (a : Attached) : State :=
  match a with
  | .copy id => s.modCopy id (fun c => match c.st with | .paged _ => { c with st := .failed, status := 3 } | _ => c)
  | .param gid => loadParams s gid
  | .coil gid c lanes _ => if lanes = 0 then beginTask s gid c else s

/-- The cores that receive a walk's result: those of the attached accesses (R244). -/
def attachedCores (s : State) (m : Merge) : List Nat :=
  m.att.filterMap (fun a => match a with
    | .coil gid _ _ _ => some (s.group gid).core
    | .param gid => some (s.group gid).core
    | .copy id => match s.copy? id with | some c => if c.owner.isSome then some c.core else none | none => none)

/-- A walk's result in the copies of the hub engine attached to it, which have no TLB (R56, R244). -/
def hubPagesFill (s : State) (m : Merge) (l : Nat) : State :=
  m.att.foldl (fun s a => match a with
    | .copy id => s.modCopy id (fun c => if c.owner.isSome then c else { c with pages := tput c.pages m.vpn l })
    | _ => s) s

/-- Every attached access of an entry fails with a trap code (R242, R279): coils meet it when they select their instruction again. -/
def failEntry (s : State) (i code : Nat) : State :=
  match tget s.xlat.merge i with
  | some m =>
    let coils := m.att.filter (fun a => match a with | .copy _ => false | _ => true)
    let s := s.modMerge i (fun m => { m with fail := code, posted := false, att := coils })
    let s := m.att.foldl (fun s a => failEngine (wakeFault s i a) a) s
    if coils.isEmpty then s.dropMerge i else s
  | none => s

/-- A walk ends (R242, R244): a leaf fills both TLBs and answers every attached access, a page fault posts the entry's record, a malformed entry is an
access violation. -/
def execPageWalkComplete (entry : Nat) (s : State) : Out :=
  .next (match tget s.xlat.merge entry with
    | some m =>
      if m.posted ∨ m.fail ≠ 0 then s
      else match walk s m.asid (m.vpn * 4096) with
        | .leaf l =>
          let s := holdAs s m.asid
          let s := hubPagesFill ((attachedCores s m).foldl (fun s k => fillTlb s k m.asid m.vpn l) s) m l
          if m.kind = 1 ∧ !leafW l then m.att.foldl (fun s a => waitFault s entry a) (postFault s entry)
          else
            let s := s.dropMerge entry
            m.att.foldl (fun s a => answerEngine (wakeFault s entry a) a) s
        | .absent => m.att.foldl (fun s a => waitFault s entry a) (postFault s entry)
        | .bad => failEntry s entry tACCESS_VIOLATION
    | none => s)

/-- A kiln core's access was refused (R76). -/
def setBadIo (s : State) (k : Nat) : State :=
  { s with fw := { s.fw with kilns := tmod s.fw.kilns k {} (fun c => { c with badIo := true }) } }

/-- FQ_REPLAY with FAIL = 0 (R279): the page is walked again. -/
def execFqReplay (entry : BitVec 12) (s : State) : Out :=
  .next (match tget s.xlat.merge entry.toNat with
    | some m =>
      if m.posted then
        let s := s.modMerge entry.toNat (fun m => { m with posted := false, seq := s.xlat.walks })
        { s with xlat := { s.xlat with walks := s.xlat.walks + 1 } }
      else setBadIo s 2
    | none => setBadIo s 2)

/-- FQ_REPLAY with FAIL = 1 (R279). -/
def execFqReplayFail (entry : BitVec 12) (s : State) : Out :=
  .next (match tget s.xlat.merge entry.toNat with
    | some m => if m.posted then failEntry s entry.toNat tPAGE_FAULT else setBadIo s 2
    | none => setBadIo s 2)

/-! ## Invalidation (R243, R268) -/

/-- A write of TLBI_CTL: ignored while an invalidation is in progress; GO starts one. -/
def execTlbiGo (val : W32) (s : State) : Out :=
  .next (if s.xlat.busy then { s with xlat := { s.xlat with badWr := true } }
    else
      let v := val.toNat
      { s with xlat := { s.xlat with tlbiAsid := BitVec.ofNat 16 v, tlbiPages := BitVec.ofNat 10 (field v 16 10), tlbiAllVa := bit v 26,
                                     tlbiAllAsid := bit v 27, busy := bit v 28 } })

/-- 4 KiB pages of a page size (R241). -/
def sizePages (size : Nat) : Nat := match size with | 0 => 1 | 1 => 16 | 2 => 512 | _ => 262144

/-- Whether a page of a size overlaps the range of an invalidation. -/
def tlbiHits (x : Xlat) (asid vpn size : Nat) : Bool :=
  let n := sizePages size
  let first := vpn / n * n
  x.tlbiAllAsid || (asid == x.tlbiAsid.toNat &&
    (x.tlbiAllVa || (first ≤ x.tlbiVa.toNat + x.tlbiPages.toNat && x.tlbiVa.toNat < first + n)))

/-- TLB and merge entries of the range of an invalidation go, and with a whole address space its AS-table entry; the accesses of a removed merge entry are
made again. -/
def tlbiRemove (s : State) : State :=
  let x := s.xlat
  let keep (l : List (Nat × Nat × Nat)) := l.filter (fun e => !tlbiHits x e.1 e.2.1 (leafSize e.2.2))
  let s := { s with cor := { s.cor with
    cores := s.cor.cores.map (fun (e : Nat × Core) => (e.1, { e.2 with tlb := keep e.2.tlb }))
    regions := s.cor.regions.map (fun (e : Nat × Region) => (e.1, { e.2 with tlb := keep e.2.tlb }))
    copies := s.cor.copies.map (fun (e : Nat × Copy) => (e.1, { e.2 with pages := e.2.pages.filter (fun p => !tlbiHits x e.2.asid.toNat p.1 (leafSize p.2)) })) } }
  let gone := x.merge.filter (fun e => tlbiHits x e.2.asid e.2.vpn 0)
  let s := { s with xlat := { s.xlat with
    merge := x.merge.filter (fun e => !tlbiHits x e.2.asid e.2.vpn 0)
    asCopies := x.asCopies.filter (fun e => !(x.tlbiAllAsid || (x.tlbiAllVa && e.1 == x.tlbiAsid.toNat)))
    tlbiFrom := some s.cor.order } }
  gone.foldl (fun s e => e.2.att.foldl (fun s a => answerEngine (wakeFault s e.1 a) a) s) s

/-- Whether a page of those that an access found is in the range of an invalidation. -/
def pagesHit (x : Xlat) (asid : Nat) (pages : List (Nat × Nat)) : Bool := pages.any (fun p => tlbiHits x asid p.1 p.2)

/-- Whether an access that may use an old translation has not been performed: an `SC` operation that waits for its position, a load-block that fills, the
writes of a drain, or the reads of a `ZLD`, issued before the entries went (R243, R269, R392, R393). -/
def tlbiWaits (s : State) (from_ : Nat) : Bool :=
  s.xlat.scWaiting.any (fun e => e.2.any (fun o => o.kind ≠ 4 && o.order ≤ from_ && pagesHit s.xlat o.asid o.pages))
    || s.cor.blocks.any (fun e => e.2.filling && e.2.order ≤ from_ && pagesHit s.xlat e.2.asid e.2.pages)
    || s.cor.groups.any (fun e => e.2.mx.queue.any (fun q => q.order ≤ from_
      && ((match q.drain with | some d => pagesHit s.xlat (s.asidOf e.1) (d.pages.map (fun p => (p.1, leafSize p.2))) | none => false)
        || (match q.load with | some l => pagesHit s.xlat (s.asidOf e.1) l.pages | none => false))))

/-- An invalidation: its entries go, and once every access that used an old translation has been performed at `DEVICE` scope it completes (R243). (DEDUCED, log 22.) -/
def execTlbiComplete (s : State) : Out :=
  .next (if !s.xlat.busy then s
    else
      let s := if s.xlat.tlbiFrom.isSome then s else tlbiRemove s
      if tlbiWaits s (s.xlat.tlbiFrom.getD 0) then s
      else
        let s := (s.cor.cores.map (·.1)).foldl (fun s k => releaseAt s k 3) s
        { s with xlat := { s.xlat with busy := false, tlbiFrom := none } })

/-- A write of AS_TAB_BASE while any queue is mapped is ignored (R268). -/
def execAsTabBaseWrite (val : W64) (s : State) : Out :=
  .next (if s.cmd.queues.any (fun e => e.2.st ≠ .unmapped) then { s with xlat := { s.xlat with badWr := true } }
    else { s with xlat := { s.xlat with asTab := BitVec.ofNat 32 (field val.toNat 20 32) } })

end Sys2Proof.Machine
end

