-- ==== Sys2Proof/Machine/Service.lean ====
section
/-! DEFINITION. The module and its service: resets and boot (R23, R24, R29 to R31), temperature (R23, R74), channels (R12 to R14, R101, R102), errors of
SRAMs (R27), links (R15 to R18), messages that arrive (R37), slices (R26, R39), the service ring (R33, R34), parking (R28, R35), attestation (R32, R36) and
firmware updates (R71, R77, R78). -/
namespace Sys2Proof.Machine

def State.modMod (s : State) (f : Module → Module) : State := { s with mod := f s.mod }
def State.modFw (s : State) (f : Firmware → Firmware) : State := { s with fw := f s.fw }
def State.modKiln (s : State) (k : Nat) (f : Kiln → Kiln) : State := s.modFw (fun w => { w with kilns := tmod w.kilns k {} f })
def State.modChan (s : State) (c : Nat) (f : Chan → Chan) : State := s.modMod (fun m => { m with chans := tmod m.chans c {} f })

/-! ## Resets and boot -/

/-- Bytes of host memory: they are the companion's, and no reset of the module touches them. -/
def hostCells (m : List Host.Cell) : List Host.Cell := m.filter (fun e => hostBase ≤ e.1 && e.1 < hostTop)

/-- Every agent reinitialised. The flash, the record of the active slot and the fuses are not state that a reset clears (R30, R31); time starts anew, so
that CLOCK counts from module reset (R207), and the free values already drawn are not drawn again. -/
def cleared (s : State) (cond : Condition) : State :=
  { State.reset with
    agenda := s.agenda, free := s.free, mem := hostCells s.mem
    mod := { State.reset.mod with cond, flash := s.mod.flash, activeSlot := s.mod.activeSlot, fuse := s.mod.fuse, vinOk := s.mod.vinOk } }

/-- Power-up, or the reset after a trip (R24). -/
def execModuleReset (s : State) : Out := .next (cleared { s with mod := { s.mod with vinOk := true } } .booting)

/-- Outside 40 to 60 V the module is held in reset (R23). -/
def execInputVoltageFault (s : State) : Out := .next (cleared { s with mod := { s.mod with vinOk := false } } .held)

/-- At 115 °C the module trips off (R23). -/
def execThermalTrip (s : State) : Out := .next (cleared s .off)

/-- The slowest clock of a core in MHz (R1). -/
def freqMin : Nat := 2800

/-- KC3 lowers a core's clock by one 25 MHz step and holds it there as the core's thermal ceiling, with a service record (R23, R33, R74). (DESIGN CHOICE, log 52.) -/
def thermalStep (s : State) (k : Nat) : State :=
  let f := coreFreq s k - 25
  if 192 ≤ k ∨ f < freqMin then s
  else
    let s := (setFreq s k f).modMod (fun m => { m with ceiling := tput m.ceiling k f })
    unitRecord s 10 k

/-- A reading of a thermal sensor reaches KC3 (R72), which lowers every core at 105 °C or above by one step and lifts the ceiling of every core that has
cooled below it (R23); one with no resident group is then back at 3.3 GHz (R100). (DESIGN CHOICE, log 52.) -/
def execThermalSensorReading (unit : BitVec 16) (kind : BitVec 8) (payload : ThermalReport) (s : State) : Out :=
  let s := postEvent s 7 (evRec 7 kind.toNat unit.toNat payload.payload)
  let s := payload.hot.foldl thermalStep s
  .next (payload.cool.foldl idleCore (s.modMod (fun m => { m with ceiling := m.ceiling.filter (fun e => !payload.cool.contains e.1 || payload.hot.contains e.1) })))

/-! ### Images -/

/-- The registers that a part of a kiln bundle writes (R399, R413). -/
def kilnDests (i : Instr) : List Nat :=
  match i with
  | .swAddReg d _ _ | .swSubReg d _ _ | .swMulReg d _ _ | .swAndReg d _ _ | .swOrReg d _ _ | .swXorReg d _ _ | .swShlReg d _ _ | .swShrReg d _ _
  | .swSarReg d _ _ => [d.toNat]
  | .swAddImm d _ _ | .swSubImm d _ _ | .swMulImm d _ _ | .swAndImm d _ _ | .swOrImm d _ _ | .swXorImm d _ _ | .swShlImm d _ _ | .swShrImm d _ _
  | .swSarImm d _ _ => [d.toNat]
  | .swMovi d _ | .swMovh d _ => [d.toNat]
  | .swCmpReg d _ _ _ => [d.toNat]
  | .swCmpImm d _ _ _ => [d.toNat]
  | .swSel d _ _ _ => [d.toNat]
  | .lds d _ _ => [d.toNat]
  | .kcCall a _ => [a.toNat]
  | .kcIord a _ => [a.toNat, (a.toNat + 1) % 32]
  | .kcEvpop a _ => (List.range 4).map (fun i => (a.toNat + i) % 32)
  | _ => []

/-- The bundle to which a control word transfers, where it names one (R413). -/
def kilnTarget (i : Instr) : Option Nat :=
  match i with
  | .kcJmp t => some t.toNat
  | .kcBrz _ t => some t.toNat
  | .kcBrnz _ t => some t.toNat
  | .kcCall _ t => some t.toNat
  | _ => none

/-- Whether a list names nothing twice. -/
def noRepeat : List Nat → Bool
  | [] => true
  | x :: t => !t.contains x && noRepeat t

/-- Whether a kiln bundle may stand in an image of `n` bundles: legal, with no register written by two parts, and no transfer beyond the code (R414). -/
def bundleFits (n : Nat) (w : BitVec 128) : Bool :=
  match decodeKiln w with
  | some b =>
    noRepeat (kilnDests b.cw ++ kilnDests b.k0 ++ kilnDests b.k1 ++ kilnDests b.k2)
      && (match kilnTarget b.cw with | some t => decide (t < n) | none => true)
  | none => false

/-- Whether the code of every kiln core passes the check of R414, in an instruction SRAM of 4,096 bundles. -/
def codeOk (i : Image) : Bool := i.code.all (fun c => c.length ≤ 4096 && c.all (bundleFits c.length))

/-- Whether an image's slot tables hold 64 minor frames of up to 16 slots for each core (R70), and KC0's a PKT slot with a budget of 1 to 64 in every
minor frame (R73). -/
def slotsOk (i : Image) : Bool :=
  i.slots.all (fun c => c.length ≤ 64 && c.all (fun f => f.length ≤ 16))
    && (let c := (i.slots[0]?).getD []
        c.length == 64 && c.all (fun f => f.any (fun x => x.src = some 0 && 1 ≤ x.budget && x.budget ≤ 64)))

/-- What is checked of an image before KC0 runs it (R29, R30, R414). -/
def imagePasses (s : State) (i : Image) : Bool := i.edOk && i.mlOk && i.digestOk && s.mod.fuse ≤ i.secver && codeOk i

/-- The image of a slot. -/
def slotImage (s : State) (slot : Bool) : Option Image := tget s.mod.flash (if slot then 1 else 0)

/-- A kiln core at the entry of an image, its image area loaded, before the first slot that it runs; the carry area stays (R68, R70, R71, R77). The spec does
not say whether `a0` to `a31`, HUBWIN, MEMWIN and MEMWIN_AS keep their values here: they do. (DESIGN CHOICE, log 53.) -/
def kilnAtEntry (c : Kiln) (now : Nat) : Kiln :=
  { c with
    pc := c.entry, data := c.image ++ c.data.filter (fun e => 0x30000 ≤ e.1), stopped := false, waitcyc := none, lastMinor := now, busy := now
    inSlot := false }

/-- A kiln core's banks and slot table loaded from an image. -/
def kilnLoad (c : Kiln) (i : Image) (k : Nat) : Kiln :=
  { c with
    code := (i.code[k]?).getD [], entry := (i.entry[k]?).getD 0, slots := (i.slots[k]?).getD []
    image := ((i.data[k]?).getD []).filter (fun e => e.1 < 0x30000) }

/-- An entry of the measurement log: full, it drops its oldest live-update entry (R36). -/
def logImage (l : List LogEntry) (e : LogEntry) : List LogEntry :=
  if l.length < 256 then l ++ [e]
  else match l.find? (fun x => x.kind = 2) with
    | some x => l.erase x ++ [e]
    | none => l

/-- What firmware sets from its image: the retirement threshold, from 1 to 65,535 (R74), and the addresses of the Ethernet ports (R18). (DESIGN CHOICE, log 5.) -/
def imagePolicy (m : Module) (i : Image) : Module := { m with ceThreshold := max 1 (min 65535 i.ceThreshold), ethAddr := i.eth }

/-- The boot ROM runs the first image that passes, the recorded slot's first (R31); every image loaded is measured (R32). -/
def execModuleBoot (s : State) : Out :=
  .next (if s.mod.cond ≠ .booting ∨ s.fw.kilns.any (fun e => !e.2.stopped) then s
    else
      let run (slot : Bool) (i : Image) : State :=
        let rom : LogEntry := { kind := 0, slot := 0, secver := 0, digest := Config.bootRomDigest }
        let img : LogEntry := { kind := 1, slot := if slot then 1 else 0, secver := BitVec.ofNat 8 i.secver, digest := i.digest }
        let m := { s.mod with
          activeSlot := slot, bootSlotChanged := slot != s.mod.activeSlot, log := [rom, img]
          raiseFuse := if s.mod.fuse < i.secver then some i.secver else none }
        let kilns := (List.range 4).map (fun k => (k, kilnAtEntry (kilnLoad {} i k) s.time))
        { s with mod := imagePolicy m i, fw := { s.fw with kilns, slot, secver := BitVec.ofNat 6 i.secver } }
      let first := s.mod.activeSlot
      match slotImage s first, slotImage s (!first) with
      | some i, other =>
        if imagePasses s i then run first i
        else match other with
          | some j => if imagePasses s j then run (!first) j else s.modMod (fun m => { m with cond := .failed })
          | none => s.modMod (fun m => { m with cond := .failed })
      | none, some j => if imagePasses s j then run (!first) j else s.modMod (fun m => { m with cond := .failed })
      | none, none => s.modMod (fun m => { m with cond := .failed }))

/-- The spares of a die that serve no logical slice: physical slices 32 and 33 are those that the 32 logical ones do not need. -/
def freeSlices (phys : Tab (BitVec 6)) (die : Nat) : List Nat := [32, 33].filter (fun p => !phys.any (fun e => e.1 / 32 == die && e.2.toNat == p))

/-- CORE_MAP and SLICE_MAP loaded from the image: a spare that the map places is in use (R5, R25, R26, R34). (DESIGN CHOICE, log 5.) -/
def loadMaps (m : Module) (i : Image) : Module :=
  let slicePhys : Tab (BitVec 6) := i.sliceMap.map (fun e => (e.1, e.2.setWidth 6))
  { m with
    corePhys := i.coreMap.map (fun e => (e.1, e.2.setWidth 4))
    coreGone := (i.coreMap.filter (fun e => !e.2.getLsbD 4)).map (·.1)
    spareUsed := (List.range 24).filter (fun r => i.coreMap.any (fun e => regionOf e.1 == r && e.2.setWidth 4 == (8 : BitVec 4)))
    slicePhys, sliceShared := (i.sliceMap.filter (fun e => e.2.getLsbD 6)).map (·.1)
    sliceSpares := (List.range 4).map (fun d => (d, (freeSlices slicePhys d).length)) }

/-- KC0 reports the boot complete: the frame timer starts, KC0 loads SCAN_CTL.ENABLE and the maps of R34 from the image, a higher version raises the fused
counter, and a boot from the other slot is recorded (R5, R24, R30, R31, R66, R69). -/
def execBootComplete (s : State) : Out :=
  .next (if s.mod.cond ≠ .booting ∨ s.fw.kilns.isEmpty then s
    else
      let t := { s with
        mod := { s.mod with cond := .running, fuse := max s.mod.fuse (s.mod.raiseFuse.getD 0), raiseFuse := none, bootSlotChanged := false }
        cmd := { s.cmd with scanEnable := match slotImage s s.fw.slot with | some i => i.scanEnable | none => s.cmd.scanEnable }
        fw := { s.fw with booted := true, bootTime := s.time, kilns := s.fw.kilns.map (fun e => (e.1, { e.2 with lastMinor := s.time })) } }
      let t := match slotImage s s.fw.slot with | some i => t.modMod (loadMaps · i) | none => t
      if s.mod.bootSlotChanged then unitRecord t 9 0 else t)

/-- Removal before PARKED: the module is gone, which the host sees as the failure of both ICL ports (R28). -/
def execSurpriseRemoval (s : State) : Out :=
  .next (if s.mod.modState = 2 then s
    else (cleared s .removed).modMod (fun m => { m with icl := [(0, { st := .down }), (1, { st := .down })] }))

/-- Removal of a parked module (R28, R35). -/
def execModuleRemoval (s : State) : Out := .next (if s.mod.modState = 2 then cleared s .removed else s)

/-! ## Channels -/

/-- The time of the next 1 us window. -/
def nextWindow (now : Nat) : Nat := (now / 132000 + 1) * 132000

/-- A channel's display credit at the start of a window; DISP_BW and BORROW take effect there (R12, R13). -/
def execDisplayCreditWindow (chan : Nat) (s : State) : Out :=
  .next (if s.time < (s.chan chan).nextWindow ∨ 64 ≤ chan then s
    else
      (s.modMod (fun m => { m with dispBwNow := m.dispBw, borrowNow := m.borrow })).modChan chan
        (fun c => { c with credit := (s.mod.dispBw.toNat : Int) * 1500, nextWindow := nextWindow s.time }))

/-- The shares and ways of the classes in force at a slice (units 0 to 127) or channel from the start of a window; the ways that a display slice keeps for
`DSH` lines are closed to every class (R101, R102, R174). -/
def execClassShareWindow (unit : Nat) (s : State) : Out :=
  .next (if s.time < (tgetD s.mod.windows unit {}).nextWindow then s
    else
      let share := (List.range 4).map (fun n => (tgetD s.disp.bw n 16).toNat)
      let dsh := displayWays unit s.dpy.ways.toNat
      let ways := (List.range 4).map (fun n => (tgetD s.disp.ways n 0xFFFF).toNat &&& (0xFFFF - dsh))
      s.modMod (fun m => { m with windows := tput m.windows unit { nextWindow := nextWindow s.time, share, ways, dsh } }))

/-- A transfer whose CRC failed `fails` times: 4 retries, then its sector is uncorrectable (R14, R27). The controller reports the errors to KC2 (R72). -/
def execGddrCrcError (chan fails pa : Nat) (s : State) : Out :=
  .next (if fails = 0 ∨ !inDevice pa 1 ∨ chanOf pa ≠ chan then s
    else
      let s := postFree (s.modChan chan (fun c => { c with crcErr := true })) 5 chan
      if fails < 5 then s else { s with poison := addBad s.poison (pa / 32) })

/-- A line of a cache, if it is held. -/
def Cache.holds (c : Cache) (pa : Nat) : Bool := (tget c.dirty (pa / 128)).isSome || (tget c.clean (pa / 128)).isSome

/-- An uncorrectable error strikes a protected unit (R27): the data there is poisoned. A store with nothing at the place has nothing to poison. The unit
of a coil's registers is an even and an odd one of a lane, or of the scalar file. (DESIGN CHOICE, log 54.) -/
def strike (s : State) (e : ErrPlace) : State :=
  match e with
  | .l2 pa => { s with l2bad := addBad s.l2bad (pa / 8) }
  | .l1 k pa => if (s.core k).l1.holds pa then s.modCore k (fun c => { c with l1 := { c.l1 with bad := addBad c.l1.bad (pa / 8) } }) else s
  | .regionCache r pa => if (s.region r).cache.holds pa then s.modRegion r (fun g => { g with cache := { g.cache with bad := addBad g.cache.bad (pa / 8) } }) else s
  | .localMem gid off => if off < localSize s gid then s.modGroup gid (fun g => { g with lbad := addBad g.lbad (off / 8) }) else s
  | .vreg gid c r l => s.modCoil gid c (fun co => { co with struck := addBad co.struck (r % 256 / 2 * 64 + l % 32) })
  | .sreg gid c r => s.modCoil gid c (fun co => { co with struck := addBad co.struck (8192 + r % 256 / 2 * 2) })
  | .tile gid st i =>
    s.modGroup gid (fun g => { g with mx := { g.mx with streams := tput g.mx.streams st (lmod (fun t => { t with bad := true }) (tgetD g.mx.streams st []) i) } })
  | .scale gid z => s.modGroup gid (fun g => { g with mx := { g.mx with z := tmod g.mx.z z {} (fun q => { q with bad := true }) } })
  | .accRow gid r => s.modGroup gid (fun g => { g with mx := { g.mx with rows := tmod g.mx.rows r {} (fun q => { q with bad := true }) } })
  | .scratch k a => { s with dpy := { s.dpy with glaze := tupd s.dpy.glaze k (fun g => { g with spBad := addBad g.spBad (a / 8) }) } }
  | .glazeReg k kind n => { s with dpy := { s.dpy with glaze := tupd s.dpy.glaze k (fun g => { g with regBad := if g.regBad.contains (kind, n) then g.regBad else (kind, n) :: g.regBad }) } }
  | .bundle k i => { s with dpy := { s.dpy with glaze := tupd s.dpy.glaze k (fun g => { g with fifo := lmod (fun b => { b with bad := true }) g.fifo i }) } }
  | .dictionary h n => s.modHead h (fun d => { d with row := { d.row with kernel := { d.row.kernel with dictBad := addBad d.row.kernel.dictBad n } } })
  | .other _ => s

/-- The physical address in whose data no context holds the error yet, if that is where it struck; KIND 8 names its frame (R33). -/
def strikeAddr (e : ErrPlace) : Option Nat :=
  match e with
  | .l2 pa => some pa
  | .l1 _ pa => some pa
  | .regionCache _ pa => some pa
  | .other _ => some 0
  | _ => none

/-- The scrubber counts what it corrects; an uncorrectable error stays with its data, and KC2 hears of it through SERVICE. One met in data that no context
holds has no consumer at that moment and takes a service record (R27, R33, R276). (DESIGN CHOICE, log 54.) -/
def execEccScrub (corrected : Nat) (bad : Option ErrPlace) (s : State) : Out :=
  let s := s.modMod (fun m => { m with svcCe := m.svcCe + BitVec.ofNat 64 corrected })
  .next (match bad with
    | some e =>
      let s := postFree (strike (s.modMod (fun m => { m with svcUe := m.svcUe + 1 })) e) 5 (match e with | .other u => u | _ => 0)
      match strikeAddr e with
      | some pa => postRecord s { kind := 8, unit := BitVec.ofNat 16 (match e with | .other u => u | _ => 0), addr := BitVec.ofNat 64 (pa / 4096 * 4096), count := 0 }
      | none => s
    | none => s)

/-- 16-bit counts that saturate. -/
def satAdd (n : W16) (k : Nat) : W16 := BitVec.ofNat 16 (min 0xFFFF (n.toNat + k))

/-- On-die ECC corrects errors in a frame: its channel and the frame count them, and a frame whose count crosses the threshold takes one retirement record,
which KC2 makes of the controller's report (R13, R14, R33, R72). -/
def execPageRetirement (frame : FrameReport) (s : State) : Out :=
  let corrected := frame.corrected
  let frame := frame.frame
  .next (if 2 ^ 27 ≤ frame then s
    else
      let c := chanOf (frame * 4096)
      let old := tgetD s.mod.frameCe frame (0, false)
      let n := old.1 + corrected
      let cross := !old.2 && decide (s.mod.ceThreshold ≤ n)
      let s := (s.modMod (fun m => { m with frameCe := tput m.frameCe frame (n, old.2 || cross) })).modChan c (fun c => { c with ceCount := satAdd c.ceCount corrected })
      if cross then
        postRecord (postFree s 5 c) { kind := 1, unit := BitVec.ofNat 16 c, addr := BitVec.ofNat 64 (frame * 4096), count := BitVec.ofNat 64 n }
      else s)

/-- KC2 judges a channel failing (R14). MEM_CHAN_STAT.STATE is then 2; the spec gives no condition under which it is 1, degraded, and it never is. (DESIGN
CHOICE, log 55.) -/
def execChannelEvacuation (chan : Nat) (s : State) : Out :=
  .next (if 64 ≤ chan ∨ 2 ≤ (s.chan chan).st.toNat then s
    else
      let s := s.modChan chan (fun c => { c with st := 2 })
      postRecord s { kind := 2, unit := BitVec.ofNat 16 chan, addr := 0, count := (s.chan chan).ceCount.setWidth 64 })

/-- EVAC_DONE written while STATE is 2 retires the channel (R13, R14). -/
def execEvacDone (chan : Nat) (s : State) : Out :=
  .next (if (s.chan chan).st = 2 then
      let s := s.modChan chan (fun c => { c with st := 3 })
      postRecord s { kind := 3, unit := BitVec.ofNat 16 chan, addr := 0, count := (s.chan chan).ceCount.setWidth 64 }
    else s)

/-- A write of MEM_RSV_CTL: a kiln core's is ignored and sets its CLAMP (R13, R75). -/
def execMemRsvCtlWrite (by_ : Writer) (val : W32) (s : State) : Out :=
  .next (match by_ with
    | .kiln k => s.modKiln k (fun c => { c with clamp := true })
    | .host =>
      let bw := val.toNat % 128
      s.modMod (fun m => { m with
        badWr := (m.badWr && !val.getLsbD 7) || 64 < bw
        dispBw := if 64 < bw then m.dispBw else BitVec.ofNat 7 bw
        borrow := val.getLsbD 8 }))

/-! ## Links -/

def State.iclPort (s : State) (p : Nat) : IclPort := tgetD s.mod.icl p {}
def State.modIcl (s : State) (p : Nat) (f : IclPort → IclPort) : State := s.modMod (fun m => { m with icl := tmod m.icl p {} f })

/-- A port fails whole: a record of KIND 7, kept in the carry area while the host is unreachable (R17, R72). (DEDUCED, log 23.) -/
def failPort (s : State) (p : Nat) : State :=
  if 2 ≤ p ∨ (s.iclPort p).st = .down then s else reportUnit (s.modIcl p (fun i => { i with st := .down })) 7 p

/-- A lane fails: the port retrains onto its spare lane; without one it fails whole (R17). -/
def execIclLaneFail (port : Nat) (s : State) : Out :=
  .next (if 2 ≤ port ∨ (s.iclPort port).st = .down then s
    else if (s.iclPort port).spareUsed then failPort s port
    else s.modIcl port (fun i => { i with st := .retraining, spareUsed := true }))

def execIclRetrainDone (port : Nat) (s : State) : Out :=
  .next (if (s.iclPort port).st = .retraining then reportUnit (s.modIcl port (fun i => { i with st := .up })) 6 port else s)

def execIclPortFail (port : Nat) (s : State) : Out := .next (failPort s port)
def execIclBothPortsFail (s : State) : Out := .next (failPort (failPort s 0) 1)

/-- The link returns: KC2 posts what it kept (R17). The spec does not say whether the port's spare lane is free again: it is. (DESIGN CHOICE, log 56.) -/
def execIclLinkReturn (port : Nat) (s : State) : Out :=
  .next (if port < 2 ∧ (s.iclPort port).st = .down ∧ s.mod.cond ≠ .removed then serveCarry (s.modIcl port (fun _ => {})) else s)

/-- The port retrains with 4 lanes (R18). -/
def execEthLaneFail (port : Nat) (s : State) : Out :=
  .next (if 8 ≤ port then s else reportUnit (s.modMod (fun m => { m with ethLanes := tput m.ethLanes port 4 })) 6 (2 + port))

def execIftRtoWrite (val : W32) (s : State) : Out :=
  let n := val.toNat % 2 ^ 16
  .next (s.modMod (fun m => { m with
    iftRto := if n = 0 then 1 else BitVec.ofNat 16 n
    iftBadWr := (m.iftBadWr && !val.getLsbD 16) || n == 0 }))

/-! ## Messages that arrive (R19, R37) -/

/-- The local address space of a fabric domain. -/
def fabricAsid (s : State) (f : BitVec 12) : Option Nat :=
  let e := physNat s (s.mod.iftFab.toNat * 2 ^ 14 + 4 * f.toNat) 4
  if bit e 16 then some (e % 2 ^ 16) else none

/-- The physical address of a byte of a message, on the inactive backing and in device memory. -/
def landingPa (s : State) (asid va : Nat) : Option Nat :=
  match translate s (lookHub s asid) asid va true false .inactive with
  | .ok pa _ => if inDevice pa 1 && !unreachable s pa then some pa else none
  | _ => none

/-- The first addresses of the pages that a range meets. -/
def rangePages (va n : Nat) : List Nat := if n = 0 then [] else (List.range ((va + n - 1) / 4096 - va / 4096 + 1)).map (fun i => if i = 0 then va else (va / 4096 + i) * 4096)

/-- The bytes of a message written line by line, so that the sectors that they replace whole are sound (R27, R37). -/
def landBytes (asid va : Nat) (bs : List Byte) (s : State) : State :=
  (rangeLines va bs.length).foldl (fun s a =>
    match landingPa s asid a with | some pa => deviceWrite s 192 pa ((bs.drop (a - va)).take (128 - a % 128)) | none => s) s

/-- The answer to a message: an acknowledgement once its bytes have landed, or a refusal (R19, R37). -/
def answerIft (s : State) (m : IftMsg) (refused : Bool) : State :=
  s.modMod (fun w => { w with iftAnswer := some { to_ := m.src, copy := m.copy, offset := m.offset, refused } })

/-- A message lands and is acknowledged, or is refused (R37); a parked module's ports take and answer none (R28, R35). A message already landed is acknowledged and not written again, and the flag and the publish
follow the last byte. -/
def execIftMessageReceive (m : IftMsg) (s : State) : Out :=
  let old := (s.mod.inCopies.find? (fun c => c.src = m.src && c.copy = m.copy)).getD { src := m.src, copy := m.copy }
  let others := s.mod.inCopies.filter (fun c => !(c.src = m.src && c.copy = m.copy))
  .next (if !displayRuns s then s else match fabricAsid s m.fabric with
    | none => answerIft s m true
    | some asid =>
      let va := m.dst.toNat + m.offset
      let ok := (rangePages va m.data.length).all (fun a => (landingPa s asid a).isSome)
        && (match m.pub with | some p => (pubEntry s asid p.toNat).isSome | none => true)
      if !ok then answerIft s m true
      else if old.landed.any (fun e => e.1 = m.offset) then answerIft s m false
      else
        let s := answerIft (landBytes asid va m.data s) m false
        let new := { old with landed := old.landed ++ [(m.offset, m.data.length)] }
        let s := s.modMod (fun w => { w with inCopies := others ++ [new] })
        if (new.landed.map (·.2)).foldl (· + ·) 0 < m.total then s
        else
          let s := match m.flag with | some (c, f) => engineFlag s c.toNat f.toNat 1 | none => s
          match m.pub with | some p => publishEntry s asid p.toNat | none => s)

/-! ## L2 slices (R26, R39) -/

/-- The 16 units of 8 bytes of a line poisoned. -/
def poisonLine (s : State) (line : Nat) : State := { s with l2bad := (unitsOf (128 * line) 128).foldl addBad s.l2bad }

/-- Of the dirty lines of a slice those that cannot be corrected, poisoned (R26). -/
def poisonHeld (s : State) (slice : Nat) (bad : List Nat) : State :=
  (bad.filter (fun l => homeSlice (128 * l) = slice || displaySlice (128 * l) = slice)).foldl poisonLine s

/-- A slice's state moves to a spare of its die, which takes its number: its key table and its lines stay, but a dirty line of it that cannot be corrected, as
`bad` lists them by line number, is poisoned (R26). -/
def execSliceRetire (slice : SliceMove) (s : State) : Out :=
  let bad := slice.bad
  let slice := slice.slice
  let die := slice / 32
  let n := tgetD s.mod.sliceSpares die 2
  let s' := poisonHeld s slice bad
  .next (if 128 ≤ slice ∨ n = 0 then s
    else reportUnit (s'.modMod (fun m => { m with
      sliceSpares := tput m.sliceSpares die (n - 1), slicePhys := tput m.slicePhys slice (BitVec.ofNat 6 (((freeSlices m.slicePhys die).head?).getD (34 - n))) })) 5 slice)

/-- Key-table entries in use at the physical slice of a logical slice. -/
def keysServed (s : State) (n : Nat) : Nat := ((sharers s n).map (fun m => (s.slice m).keys.length)).foldl (· + ·) 0

/-- The surviving logical slice of a die whose physical slice has the most free entries; the lowest where several have. -/
def hostSlice (s : State) (slice : Nat) : Option Nat :=
  let cands := ((List.range 32).map (· + slice / 32 * 32)).filter (fun m => physSlice s m ≠ physSlice s slice)
  cands.foldl (fun b m => match b with | some x => if keysServed s m < keysServed s x then some m else b | none => some m) none

/-- A slice lost with no spare: a surviving slice of its die serves it too, and its lines move as R26 has it for a spare (R39). -/
def execSliceLossNoSpare (slice : SliceMove) (s : State) : Out :=
  let bad := slice.bad
  let slice := slice.slice
  .next (if 128 ≤ slice ∨ tgetD s.mod.sliceSpares (slice / 32) 2 ≠ 0 then s
    else match hostSlice s slice with
      | some h =>
        let also := sharers s slice
        let s := (poisonHeld s slice bad).modMod (fun m => { m with
          slicePhys := also.foldl (fun t n => tput t n (BitVec.ofNat 6 (physSlice s h))) m.slicePhys
          sliceShared := m.sliceShared ++ ((h :: also).filter (fun n => !m.sliceShared.contains n)) })
        reportUnit s 5 slice
      | none => s)

/-! ## Service ring -/

def execServiceRecordPost (r : SvcRec) (s : State) : Out := .next (postRecord s r)

/-- A write of SVC_RING: ignored while records are unconsumed (R34). -/
def execSvcRingWrite (val : W64) (s : State) : Out :=
  .next (if s.mod.svcW ≠ s.mod.svcR then s.modMod (fun m => { m with svcBadWr := true })
    else serveCarry (s.modMod (fun m => { m with svcBase := BitVec.ofNat 40 (field val.toNat 12 40), svcSlots := BitVec.ofNat 4 (max 4 (field val.toNat 52 4)) })))

/-- A write of SVC_RIDX: one beyond WIDX is ignored (R34). -/
def execSvcRidxWrite (val : W32) (s : State) : Out :=
  let ahead := (val - s.mod.svcW).toNat
  .next (if ahead ≠ 0 ∧ ahead < 2 ^ 31 then s.modMod (fun m => { m with svcBadWr := true }) else serveCarry (s.modMod (fun m => { m with svcR := val })))

/-! ## Parking and warm reset (R35) -/

def execModQuiesceGo (s : State) : Out :=
  .next (if s.mod.modState = 0 then s.modMod (fun m => { m with modState := 1, cond := .quiescing }) else s.modMod (fun m => { m with modBadWr := true }))

/-- No group is resident, no copy is outstanding and every started packet has completed. -/
def drained (s : State) : Bool :=
  s.cor.groups.all (fun e => e.2.saved) && s.cor.copies.isEmpty && s.cmd.queues.all (fun e => e.2.running.all (fun r => pendingDone s r.2) && e.2.wait.isNone)

def execModulePark (s : State) : Out :=
  .next (if s.mod.modState = 1 ∧ drained s then
      let s := s.modMod (fun m => { m with modState := 2, cond := .parked })
      { s with dpy := { s.dpy with heads := s.dpy.heads.map (fun e => (e.1, { e.2 with blank := true })) } }
    else s)

/-- The clock of a core over a warm reset: CLOCK counts on from module reset, now at the nominal 3.3 GHz (R207). -/
def keptClock (s : State) (k : Nat) : Core :=
  let c := (setFreq s k 3300).core k
  { clock := c.clock, clockFrac := c.clockFrac, clockAt := c.clockAt }

/-- A warm reset stops every agent at once and keeps device memory; the counts of SRAM errors and CLOCK run from module reset (R24, R34, R35, R207). What
stood poisoned in the L2 stays so in memory. (DEDUCED, log 44.) -/
def warmReset (s : State) : State :=
  let t := cleared s .booting
  let poison := (s.l2bad.map (· / 4)).foldl addBad s.poison
  { t with
    time := s.time
    mem := s.mem.filter (fun e => e.1 < devTop) ++ hostCells s.mem, poison := poison.filter (fun x => 32 * x < devTop)
    mod := { t.mod with svcCe := s.mod.svcCe, svcUe := s.mod.svcUe }
    cor := { t.cor with cores := (List.range 192).filterMap (fun k =>
      if (tget s.cor.cores k).isSome || (tget s.mod.freq k).isSome then some (k, keptClock s k) else none) } }

def execModResetKey (key : W16) (s : State) : Out := .next (if key = 0x5752 then warmReset s else s.modMod (fun m => { m with modBadWr := true }))

/-! ## Attestation (R32, R36) -/

def execAttCtlGo (s : State) : Out :=
  .next (if s.mod.attState = 1 then s.modMod (fun m => { m with attBusyWr := true }) else s.modMod (fun m => { m with attState := 1 }))

/-- A list brought to a length. -/
def padTo (n : Nat) (l : List Byte) : List Byte := (l ++ List.replicate n 0).take n

/-- The bytes of a log entry. -/
def logBytes (e : LogEntry) : List Byte := [e.kind, e.slot, e.secver, 0, 0, 0, 0, 0] ++ leBytes 48 e.digest.toNat ++ leBytes 8 0

/-- The quote over a nonce. -/
def quoteBytes (s : State) (nonce : List Byte) : List Byte :=
  let n := s.mod.log.length
  let e := 0x40 + 64 * n
  let head := nonce ++ leBytes 8 (n + (e + 5357) * 2 ^ 32) ++ leBytes 24 0 ++ s.mod.log.flatMap logBytes
  head ++ padTo 64 (Config.ed25519Sign head) ++ padTo 3309 (Config.mldsa65Sign head) ++ padTo 1984 Config.identityKeys

/-- KC2 writes the quote and sets the state: failed where the buffer is not in reachable host memory. -/
def execAttQuoteComplete (s : State) : Out :=
  let a := s.mod.attAddr.toNat * 4096
  .next (if s.mod.attState ≠ 1 then s
    else if !inHost a 65536 ∨ linkDown s then s.modMod (fun m => { m with attState := 3 })
    else
      let q := quoteBytes s (physBytes s a 32)
      (deviceLines s a q).modMod (fun m => { m with attState := 2, attLen := BitVec.ofNat 16 ((q.length + 15) / 16) }))

/-! ## Live update (R77, R78) and the kiln watchdog (R71) -/

/-- An update is in progress while it copies, verifies or waits for its boundary. -/
def updBusy (s : State) : Bool := s.fw.updState = 1 || s.fw.updState = 2 || s.fw.updState = 3

def execFwUpdGo (s : State) : Out :=
  .next (if updBusy s then s.modFw (fun f => { f with updBusyWr := true }) else s.modFw (fun f => { f with updState := 1, updCode := 0, upd := none }))

/-- An image as KC2 reads it from its bytes: the layout of its header is the implementation's (log 5). -/
def readImage (bs : List Byte) : Image :=
  let n := Config.imageNat bs
  { secver := n 0 % 64, edOk := n 1 ≠ 0, mlOk := n 2 ≠ 0, digestOk := n 3 ≠ 0, digest := Config.imageDigest bs, length := n 4,
    carryWrites := BitVec.ofNat 32 (n 5), carryFrom := BitVec.ofNat 32 (n 6), carryTo := BitVec.ofNat 32 (n 7),
    slots := (List.range 4).map (fun k => (List.range 64).map (fun f => (List.range 16).filterMap (fun j =>
      let x := Config.imageSlot bs k f j
      if x 0 = 0 then none else some { off := BitVec.ofNat 10 (x 1), src := if x 2 = 0 then none else some (BitVec.ofNat 3 (x 2 - 1)), budget := x 3 })))
    ceThreshold := n 13, scanEnable := n 14 ≠ 0
    coreMap := (List.range 192).map (fun g => (g, BitVec.ofNat 5 (n (64 + g)))), sliceMap := (List.range 128).map (fun g => (g, BitVec.ofNat 7 (n (256 + g))))
    eth := (List.range 8).map (fun p => (p, { mac := BitVec.ofNat 48 (n (16 + 3 * p)), ips := [(n (17 + 3 * p) ≠ 0, BitVec.ofNat 128 (n (18 + 3 * p)))] }))
    code := (List.range 4).map (Config.imageCode bs), data := (List.range 4).map (fun k => cellsWrite [] 0 (Config.imageData bs k)),
    entry := (List.range 4).map (fun k => BitVec.ofNat 12 (n (9 + k))) }

/-- The code with which an image fails verification, 0 where it passes (R78, R414). (DESIGN CHOICE, log 5.) -/
def updateCode (s : State) (len : Nat) (i : Image) : Nat :=
  let carry (k : Nat) : W32 := BitVec.ofNat 32 (leNat (cellsBytes (tgetD s.fw.kilns k {}).data 0x30000 4))
  if len = 0 ∨ 2 ^ 24 < len ∨ i.length ≠ len then 6
  else if !(i.edOk && i.mlOk) then 1
  else if !i.digestOk then 2
  else if i.secver < s.mod.fuse then 3
  else if !slotsOk i ∨ !codeOk i then 4
  else if (List.range 4).any (fun k => carry k < i.carryFrom || i.carryTo < carry k) then 5
  else 0

/-- The copy of an update ends, with its image in the inactive slot, and then its verification, with the hidden banks loaded (R77 to R79). The spec does not
say what an image address that is not in reachable host memory or not 4 KiB aligned does: the bytes that stand there are copied. Nor does it say whether an
image that fails for its length is written to the slot: it is; nor whether FW_UPD_ADDR and FW_UPD_LEN are taken at GO: they are read as the copy is made, and
the length again at the verification. (DESIGN CHOICE, log 57.) -/
def execFwUpdateVerified (s : State) : Out :=
  .next (match s.fw.updState.toNat with
    | 1 =>
      let i := readImage (physBytes s s.fw.updAddr.toNat s.fw.updLen.toNat)
      (s.modMod (fun m => { m with flash := tput m.flash (if s.fw.slot then 0 else 1) i })).modFw (fun f => { f with updState := 2, upd := some i })
    | 2 =>
      match s.fw.upd with
      | some i =>
        let code := updateCode s s.fw.updLen.toNat i
        if code ≠ 0 then s.modFw (fun f => { f with updState := 5, updCode := BitVec.ofNat 4 code, upd := none })
        else s.modFw (fun f => { f with updState := 3, kilns := f.kilns.map (fun e => (e.1, { e.2 with hidden := (i.code[e.1]?).getD [] })) })
      | none => s
    | _ => s)

/-- All four kiln cores change banks at a major-frame boundary (R77). -/
def execFwBankChange (s : State) : Out :=
  .next (match s.fw.upd with
    | some i =>
      if s.fw.updState ≠ 3 ∨ (framePos s).toNat % 65536 ≠ 0 then s
      else
        let slot := !s.fw.slot
        let e : LogEntry := { kind := 2, slot := if slot then 1 else 0, secver := BitVec.ofNat 8 i.secver, digest := i.digest }
        let s := s.modMod (fun m => imagePolicy { m with activeSlot := slot, log := logImage m.log e } i)
        s.modFw (fun f => { f with
          slot, secver := BitVec.ofNat 6 i.secver, updState := 4, upd := none
          kilns := f.kilns.map (fun k => (k.1, kilnAtEntry (kilnLoad { k.2 with hidden := [] } i k.1) s.time)) })
    | none => s)

/-- A kiln core that executed no minor-frame `WAITCYC` for 2,048 fc restarts from its image entry, with a report and a service record; it goes on at the next
major frame, or, in the fc of a bank change, at that boundary into the new image (R71, R72, R78). Before boot completion no frame is counted, and the deadline
runs from boot completion on (DESIGN CHOICE, log 58). -/
def execKilnWatchdogRestart (k : Nat) (s : State) : Out :=
  let c := tgetD s.fw.kilns k {}
  .next (if !s.fw.booted ∨ 4 ≤ k ∨ s.time < c.lastMinor + 2048 * 110 then s
    else
      let n := (framePos s).toNat / 65536 + (if (framePos s).toNat % 65536 = 0 ∧ s.fw.updState = 3 then 0 else 1)
      let s := s.modKiln k (fun c =>
        { kilnAtEntry c (s.fw.bootTime + n * (65536 * 110)) with restarts := if c.restarts = 255 then 255 else c.restarts + 1 })
      reportUnit s 9 k)

end Sys2Proof.Machine
end

