-- ==== Sys2Proof/Machine/Queue.lean ====
section
/-! DEFINITION. Queues and the command interface: descriptors, the scanner, command packets, waits, the direct path, and what KC0 submits
(R40 to R66, R76, R89). -/
namespace Sys2Proof.Machine

def State.queue (s : State) (q : Nat) : Queue := tgetD s.cmd.queues q {}
def State.modQueue (s : State) (q : Nat) (f : Queue → Queue) : State := { s with cmd := { s.cmd with queues := tmod s.cmd.queues q {} f } }
def State.modCmd (s : State) (f : Command → Command) : State := { s with cmd := f s.cmd }

/-- 32 ns (R48). -/
def poll32 : Nat := 32 * 132

/-! ## Descriptors (R45) -/

/-- A descriptor from its 64 bytes: none where a reserved bit is set or a value is outside its limits. -/
def parseQueue (bs : List Byte) : Option QDesc :=
  let w (i : Nat) : Nat := leNat ((bs.drop (8 * i)).take 8)
  let d : QDesc :=
    { ring := BitVec.ofNat 57 (w 0), wptr := BitVec.ofNat 57 (w 1), rptr := BitVec.ofNat 57 (w 2), asid := BitVec.ofNat 16 (w 3),
      ringLog2 := field (w 3) 16 5, cls := field (w 3) 21 3, prio := field (w 3) 24 4, direct := bit (w 3) 28, ivmax := field (w 3) 29 4,
      job := BitVec.ofNat 32 (w 4), rptrInit := BitVec.ofNat 32 (w 5) }
  if field (w 0) 57 7 ≠ 0 ∨ field (w 1) 57 7 ≠ 0 ∨ field (w 2) 57 7 ≠ 0 ∨ field (w 3) 33 31 ≠ 0 ∨ field (w 4) 32 32 ≠ 0 ∨ field (w 5) 32 32 ≠ 0
      ∨ w 6 ≠ 0 ∨ w 7 ≠ 0 ∨ d.ring.toNat % 4096 ≠ 0 ∨ d.wptr.toNat % 4 ≠ 0 ∨ d.rptr.toNat % 8 ≠ 0 ∨ d.ringLog2 < 6 ∨ 16 < d.ringLog2 ∨ 3 < d.cls
      ∨ 10 < d.ivmax then none
  else some d

/-- The descriptor of a queue in the table at QTAB_BASE; one that cannot be read is not valid. -/
def readQueue (s : State) (qid : Nat) : Option QDesc :=
  let a := s.cmd.qtab.toNat * 2 ^ 18 + 64 * qid
  if !(inDevice a 64 || inHost a 64) ∨ poisoned s a 64 then none else parseQueue (physBytes s a 64)

/-! ## Status and errors (R46, R47, R66) -/

def qstateCode : QState → Nat
  | .unmapped => 0 | .active => 1 | .waiting => 2 | .error => 3

/-- A counter or status word of a queue that the device writes: the address must translate, be writable and be free of an uncorrectable error. -/
def queueWrite (s : State) (d : QDesc) (va : Nat) (bs : List Byte) : Option State :=
  match translateHub s d.asid.toNat va true with
  | .ok pa _ => if poisoned s pa bs.length then none else some (deviceWrite s 192 pa bs)
  | _ => none

/-- Records in PKT that name no packet any more. -/
def dropTags (s : State) (qid : Nat) : State :=
  { s with fw := { s.fw with pktTags := s.fw.pktTags.map (fun t => match t with | some (q, i) => if q = qid then none else some (q, i) | none => none) } }

/-- QERR takes an error (R66). -/
def recordError (s : State) (qid code : Nat) : State :=
  s.modCmd (fun c => { c with
    qerrQid := BitVec.ofNat 12 qid, qerrErr := BitVec.ofNat 4 code, qerrValid := true, qerrLost := c.qerrLost || c.qerrValid })

/-- A queue stops in ERROR with a code; a status word that cannot be written leaves STATUS_FAULT in its place. -/
def enterError (s : State) (qid code : Nat) : State :=
  let s := (dropTags s qid).modQueue qid (fun q => { q with st := .error, err := code, buf := [], wait := none, scanErr := none })
  let d := (s.queue qid).desc
  if code = 8 then recordError s qid 8
  else match queueWrite s d (d.rptr.toNat + 4) (leBytes 4 (3 + code * 16)) with
    | some t => recordError t qid code
    | none => recordError (s.modQueue qid (fun q => { q with err := 8 })) qid 8

/-- The status word of a queue written (R46). -/
def storeStatus (s : State) (qid : Nat) : State :=
  let q := s.queue qid
  match queueWrite s q.desc (q.desc.rptr.toNat + 4) (leBytes 4 (qstateCode q.st + q.err * 16)) with
  | some t => t
  | none => enterError s qid 8

/-- R stored as a `SYSTEM`-scope release (R43). -/
def storeR (s : State) (qid : Nat) : State :=
  let q := s.queue qid
  match queueWrite s q.desc q.desc.rptr.toNat (leBytes 4 q.r.toNat) with
  | some t => t
  | none => enterError s qid 8

/-- An error that the scanner has found takes effect once the packets ahead of it have started (R47). -/
def settleScanError (s : State) (qid : Nat) : State :=
  let q := s.queue qid
  match q.scanErr with
  | some e => if q.buf.isEmpty ∧ (q.st = .active ∨ q.st = .waiting) then enterError s qid e else s
  | none => s

/-! ## QMAP (R45, R47, R66) -/

def mapError (s : State) : State := s.modCmd (fun c => { c with mapErr := true })

/-- A write of QTAB_BASE; ignored while any queue is mapped. -/
def execQtabBaseWrite (val : W64) (s : State) : Out :=
  .next (if s.cmd.queues.any (fun e => e.2.st ≠ .unmapped) then mapError s
    else s.modCmd (fun c => { c with qtab := BitVec.ofNat 34 (field val.toNat 18 34) }))

/-- A queue starts afresh from a descriptor (R47). The spec does not say what the poll before the first one saw (R48), nor the interval and the first due time
after RESTART: RPTR_INIT, and as after MAP, 32 ns and due at once. (DESIGN CHOICE, log 61.) -/
def openQueue (s : State) (qid : Nat) (d : QDesc) (q : Queue) : State :=
  let s := s.modQueue qid (fun _ =>
    { q with st := .active, desc := d, err := 0, r := d.rptrInit, fetched := d.rptrInit, wSeen := d.rptrInit, buf := [], scanErr := none, wait := none,
             interval := poll32, due := s.time })
  let s := storeR s qid
  if (s.queue qid).st = .active then storeStatus s qid else s

def execQmapMap (qid : Nat) (s : State) : Out :=
  .next (if 4096 ≤ qid ∨ (s.queue qid).st ≠ .unmapped then mapError s
    else match readQueue s qid with
      | some d => openQueue s qid d { running := (s.queue qid).running }
      | none => mapError s)

/-- UNMAP writes the read index and the state into the status record and leaves the queue UNMAPPED (R46, R47). Where the record cannot be written, R46
names ERROR for STATUS_FAULT and R47 UNMAPPED for UNMAP: the queue is UNMAPPED, and QERR records STATUS_FAULT. (DESIGN CHOICE, log 61.) -/
def execQmapUnmap (qid : Nat) (s : State) : Out :=
  .next (if (s.queue qid).st = .unmapped then mapError s
    else
      let q := s.queue qid
      let s := (dropTags s qid).modQueue qid (fun q => { q with st := .unmapped, err := 0, buf := [], wait := none, scanErr := none, phase := none })
      let s := match queueWrite s q.desc q.desc.rptr.toNat (leBytes 4 q.r.toNat ++ leBytes 4 0) with | some t => t | none => recordError s qid 8
      closePhase s q.phase)

def execQmapRestart (qid : Nat) (s : State) : Out :=
  .next (if (s.queue qid).st ≠ .error then mapError s
    else match readQueue s qid with
      | some d => openQueue s qid d (s.queue qid)
      | none => mapError s)

/-- CLASS, PRIO, DIRECT and IVMAX are read again; a new PRIO reaches the next placement decision (R47, R99). -/
def execQmapReload (qid : Nat) (s : State) : Out :=
  .next (if (s.queue qid).st = .unmapped then mapError s
    else match readQueue s qid with
      | some d =>
        let old := (s.queue qid).desc.prio
        let s := s.modQueue qid (fun q => { q with desc := { q.desc with cls := d.cls, prio := d.prio, direct := d.direct, ivmax := d.ivmax } })
        if d.prio = old then s else toDispatcher s (.queuePrio qid d.prio)
      | none => mapError s)

/-- A write of SCAN_CTL. -/
def execScanCtlWrite (val : W32) (s : State) : Out :=
  let v := val.toNat
  .next (s.modCmd (fun c => { c with
    scanBadWr := (c.scanBadWr && !bit v 4) || 10 < field v 0 4
    qmax := if 10 < field v 0 4 then c.qmax else BitVec.ofNat 4 v
    scanEnable := bit v 9 }))

/-! ## The scanner (R40 to R44, R48 to R50, R64) -/

/-- The ceiling of a queue's poll interval. -/
def pollCeiling (s : State) (q : Queue) : Nat := 2 ^ min q.desc.ivmax s.cmd.qmax.toNat * poll32

/-- Header and payload of a packet. -/
def Packet.word (p : Packet) (i : Nat) : Nat := ((p.words[i]?).getD 0).toNat
def Packet.op (p : Packet) : Nat := field (p.word 0) 0 8
/-- A plain `LAUNCH`: BAR = 0 and WCNT = 0. -/
def Packet.plain (p : Packet) : Bool := p.op == 1 && !bit (p.word 0) 8 && field (p.word 2) 0 57 == 0

/-- Packets of a buffer that take its room: those that KC0 has not submitted (R43). -/
def bufferHeld (q : Queue) : Nat := (q.buf.filter (fun p => p.place ≠ .submitted)).length

/-- Whether a packet just fetched takes the direct path (R64, R72). -/
def takesDirect (s : State) (q : Queue) (p : Packet) : Bool :=
  p.plain && q.desc.direct && q.desc.cls ≠ 3 && q.st ≠ .waiting && !s.fw.acctHeld && q.buf.all (fun b => b.place = .buffered)

/-- The eight words of packet `i`, none where its fetch fails (R44). -/
def fetchPacket (s : State) (d : QDesc) (i : W32) : Option (List W64) :=
  (hubBytes s d.asid.toNat (d.ring.toNat + 64 * (i.toNat % 2 ^ d.ringLog2)) 64).map (fun bs =>
    (List.range 8).map (fun j => BitVec.ofNat 64 (leNat ((bs.drop (8 * j)).take 8))))

/-- `n` packets fetched into the buffer: those not for the direct path are posted to PKT. (DEDUCED, log 35.) -/
def fetchBatch (qid : Nat) : Nat → State → State
  | 0, s => s
  | n + 1, s =>
    let q := s.queue qid
    match fetchPacket s q.desc q.fetched with
    | none => s.modQueue qid (fun q => { q with scanErr := some 3 })
    | some words =>
      let p : Packet := { idx := q.fetched, words }
      let direct := takesDirect s q p
      let s := s.modQueue qid (fun q => { q with
        fetched := q.fetched + 1, buf := q.buf ++ [{ p with place := if direct then .buffered else .posted }] })
      fetchBatch qid n (if direct then s
        else
          let s := postFree s 0 qid
          { s with fw := { s.fw with pktTags := s.fw.pktTags ++ [some (qid, p.idx)] } })

/-- Batches of up to 8 while the buffer has room for a whole batch and PKT for its records (R43, R72). -/
def fetchBatches (qid : Nat) : Nat → State → State
  | 0, s => s
  | fuel + 1, s =>
    let q := s.queue qid
    let n := min 8 (q.wSeen - q.fetched).toNat
    if n = 0 ∨ q.scanErr.isSome ∨ 16 < bufferHeld q + n ∨ evDepth 0 < (s.events 0).length + n then s
    else fetchBatches qid fuel (fetchBatch qid n s)

/-- W of a queue, if it can be read. -/
def readW (s : State) (q : Queue) : Option W32 := (hubRead s q.desc.asid.toNat q.desc.wptr.toNat 4).map (BitVec.ofNat 32)

/-- One poll of a queue. -/
def pollQueue (s : State) (qid : Nat) : State :=
  let q := s.queue qid
  let s := s.modCmd (fun c => { c with reads := c.reads + 1, lastQid := qid, late := c.late || q.due + 4 * 132000 < s.time })
  match readW s q with
  | none => settleScanError (s.modQueue qid (fun q => { q with scanErr := some 6 })) qid
  | some w =>
    let s := hubNote s q.desc.asid.toNat q.desc.wptr.toNat 4
    let iv := if w ≠ q.wSeen then poll32 else min (2 * q.interval) (pollCeiling s q)
    let s := s.modQueue qid (fun q => { q with interval := iv, due := s.time + iv, wSeen := w })
    let s := if 2 ^ q.desc.ringLog2 < (w - q.r).toNat then s.modQueue qid (fun q => { q with scanErr := some 2 }) else fetchBatches qid 3 s
    settleScanError s qid

/-- Whether a queue is polled. -/
def polled (q : Queue) : Bool := (q.st = .active || q.st = .waiting) && q.scanErr.isNone

/-- The due queue that the scanner polls next: the first in ascending order after the one it polled last. -/
def dueQueue (s : State) : Option Nat :=
  let due := (s.cmd.queues.filter (fun e => polled e.2 && e.2.due ≤ s.time)).map (·.1)
  ((due.filter (s.cmd.lastQid < ·)).head?).or due.head?

/-- Whether the hub is at work: booted and neither parked nor removed. -/
def hubRuns (s : State) : Bool := s.mod.cond = .running || s.mod.cond = .quiescing

/-- Whether the scanner polls: no quiesce, and a link to the host stands (R17, R35). -/
def scannerRuns (s : State) : Bool := s.cmd.scanEnable && s.mod.cond = .running && !linkDown s

/-- The read slots: 5 in every 24 fc (R49). Which 5 is the model's choice (DESIGN CHOICE, log 60). -/
def pollSlot (s : State) : Bool := [0, 5, 10, 15, 20].contains (s.time / 110 % 24)

/-- A read slot of the scanner (R49). (DESIGN CHOICE, log 60.) -/
def execScannerPoll (s : State) : Out :=
  .next (if !scannerRuns s ∨ !pollSlot s then s
    else match dueQueue s with
      | some q => pollQueue s q
      | none => s)

/-! ## Packets (R51 to R62) -/

/-- Whether every byte from 8 on beyond some mask of each payload word is 0: `used i` is the mask of the bits of word `i` that the command names. -/
def reservedClear (p : Packet) (used : List Nat) : Bool :=
  (List.range 7).all (fun i => p.word (i + 1) % 2 ^ 64 &&& (2 ^ 64 - 1 - (used[i]?).getD 0) == 0)

def addrMask : Nat := 2 ^ 57 - 1
def wordMask : Nat := 2 ^ 64 - 1

/-- The payload rules of R54 and the class rule of R52 for a packet in a queue of a class. -/
def packetOk (cls : Nat) (p : Packet) : Bool :=
  let w1 := p.word 1
  let w2 := p.word 2
  field (p.word 0) 9 23 == 0 && (match p.op with
    | 0 => reservedClear p []
    | 1 => cls ≠ 3 && reservedClear p [addrMask, addrMask, wordMask] && w1 % 256 == 0 && w2 % 8 == 0
    | 2 => cls ≠ 3 && reservedClear p [addrMask, 0xFFFF] && w1 % 64 == 0
    | 3 => reservedClear p [addrMask, addrMask] && w1 % 64 == 0 && w2 % 4 == 0
    | 4 => reservedClear p [addrMask, wordMask, 2 ^ 32 - 1] && w1 % 8 == 0
    | 5 => reservedClear p [addrMask, wordMask, 1] && w1 % 8 == 0
    | 6 => cls ≠ 3 && reservedClear p [2 ^ 32 - 1, addrMask]
    | 7 => cls ≠ 3 && reservedClear p [0xFFF, addrMask] && (field w1 0 4 == 1 || field w1 0 4 == 2) && field w1 4 4 ≤ 3
    | 8 => cls ≤ 1 && reservedClear p [0xF0FFF, wordMask] && field w1 0 12 ≠ 0
    | 9 => reservedClear p [1]
    | _ => false)

/-- The command that a packet starts as: its own, or what KC0 submitted it as (R76); 255 a packet that is rejected. -/
def Packet.command (p : Packet) : Nat :=
  match p.place, p.act with
  | .submitted, 0 => 1
  | .submitted, 1 => 2
  | .submitted, 3 => 255
  | _, _ => p.op

/-- BAR, set or implied (R52). -/
def barred (p : Packet) : Bool := bit (p.word 0) 8 || [5, 6, 8, 9].contains p.command

/-- The packet that R53 allows to start now: the oldest of the queue, handed over or submitted, every packet that its barrier names complete. In a quiesce only
packets already started run on (R35). -/
def startable (s : State) (qid : Nat) : Option Packet :=
  let q := s.queue qid
  match q.buf with
  | p :: _ =>
    if s.mod.cond ≠ .running ∨ q.st ≠ .active ∨ !(p.place = .buffered || p.place = .submitted) then none
    else if barred p ∧ !q.running.all (fun r => pendingDone s r.2) then none
    else some p
  | [] => none

/-- The oldest packet leaves the buffer as it starts: R passes it (R43). -/
def takeHead (s : State) (qid : Nat) : State :=
  let s := s.modQueue qid (fun q => { q with buf := q.buf.drop 1, r := q.r + 1, running := q.running.filter (fun r => !pendingDone s r.2) })
  settleScanError (storeR s qid) qid

def addRunning (s : State) (qid : Nat) (i : W32) (w : Pending) : State := s.modQueue qid (fun q => { q with running := q.running ++ [(i, w)] })

/-- A counter as a `SYSTEM`-scope acquire reads it (R57). -/
def readCounter (s : State) (asid : W16) (cnt : BitVec 57) : Option (Nat × Nat) :=
  match translateHub s asid.toNat cnt.toNat false with
  | .ok pa _ => if poisoned s pa 8 then none else some (pa, physNat s pa 8)
  | _ => none

/-- A packet that starts at once and needs nothing more. -/
def startNop (s : State) (qid : Nat) : State := takeHead s qid

/-- `LAUNCH`: its record goes to the dispatcher, after the launch's own wait (R55, R64, R65). -/
def startLaunch (s : State) (qid : Nat) (p : Packet) : State :=
  let q := s.queue qid
  let kc0 := p.place == .submitted && p.act == 0
  let recAddr : BitVec 57 := if kc0 then p.addr else BitVec.ofNat 57 (p.word 1)
  let wcnt : BitVec 57 := if p.op = 1 then BitVec.ofNat 57 (p.word 2) else 0
  let val : W64 := BitVec.ofNat 64 (p.word 3)
  let l : Launch := { recAddr, asid := q.desc.asid, qid, phase := q.phase, viaKc0 := kc0, direct := !kc0 }
  let go (s : State) (wait : Option QWait) : State :=
    let r := newLaunch (phaseJoin s q.phase) { l with waiting := wait.isSome }
    match wait with
    | none => takeHead (addRunning (toDispatcher r.2 (.launch r.1)) qid p.idx (.launch r.1)) qid
    | some w => takeHead (addRunning r.2 qid p.idx (.launchWait r.1 w)) qid
  if wcnt = 0 then go s none
  else match readCounter s q.desc.asid wcnt with
    | none => enterError s qid 5
    | some (pa, v) =>
      let s := hubNote s q.desc.asid.toNat wcnt.toNat 8
      if val.toNat ≤ v then go s none else go s (some { cnt := wcnt, val, pa, due := s.time + poll32 })

/-- `GRAPH` (R55, R87). -/
def startGraph (s : State) (qid : Nat) (p : Packet) : State :=
  let q := s.queue qid
  let kc0 := p.place == .submitted && p.act == 1
  let desc : BitVec 57 := if kc0 then p.addr else BitVec.ofNat 57 (p.word 1)
  let id := s.disp.nextGraph
  let g : Graph := { qid, asid := q.desc.asid, descAddr := desc, nl := if p.op = 2 then field (p.word 2) 0 16 else 0, phase := q.phase, viaKc0 := kc0 }
  let s := phaseJoin s q.phase
  let s := { s with disp := { s.disp with graphs := tput s.disp.graphs id g, nextGraph := id + 1 } }
  takeHead (addRunning (toDispatcher s (.graph id)) qid p.idx (.graph id)) qid

/-- `COPY` (R56): kinds 2, 3 and 6 are rejected; a descriptor that cannot be read leaves nothing to run. -/
def startCopy (s : State) (qid : Nat) (p : Packet) : State :=
  let q := s.queue qid
  let a : BitVec 57 := BitVec.ofNat 57 (p.word 1)
  match hubBytes s q.desc.asid.toNat a.toNat 64 with
  | none => takeHead s qid
  | some bs =>
    let d := parseDesc bs
    if d.kind = 2 ∨ d.kind = 3 ∨ d.kind = 6 then enterError s qid 1
    else
      let r := hubCopy s qid p.idx q.desc.asid a d (p.word 2)
      takeHead (addRunning r.2 qid p.idx (.copy r.1)) qid

/-- `WAIT` (R57): it starts and leaves the buffer, and the packets behind it start once its condition holds (R53). (DEDUCED, log 50.) -/
def startWait (s : State) (qid : Nat) (p : Packet) : State :=
  let q := s.queue qid
  let cnt : BitVec 57 := BitVec.ofNat 57 (p.word 1)
  let val : W64 := BitVec.ofNat 64 (p.word 2)
  let us := field (p.word 3) 0 32
  match readCounter s q.desc.asid cnt with
  | none => enterError s qid 5
  | some (pa, v) =>
    let s := hubNote s q.desc.asid.toNat cnt.toNat 8
    if val.toNat ≤ v then takeHead s qid
    else
      let w : QWait := { cnt, val, pa, deadline := if us = 0 then none else some (s.time + us * 132000), due := s.time + poll32 }
      let s := takeHead (s.modQueue qid (fun q => { q with st := .waiting, wait := some w })) qid
      if (s.queue qid).st = .waiting then storeStatus s qid else s

/-- Every write of the cores made visible at a scope. -/
def releaseCores (s : State) (scope : Nat) : State := (s.cor.cores.map (·.1)).foldl (fun s k => releaseAt s k scope) s

/-- `SIGNAL` (R58). -/
def startSignal (s : State) (qid : Nat) (p : Packet) : State :=
  let q := s.queue qid
  let val := p.word 2
  let s := releaseAll s
  match hubUpdate s q.desc.asid.toNat (field (p.word 1) 0 57) (fun v => if bit (p.word 3) 0 then (v + val) % 2 ^ 64 else val) with
  | some t => takeHead t qid
  | none => enterError s qid 5

/-- `PHASE` (R59, R89): the queue's phase is closed and another opened. -/
def startPhase (s : State) (qid : Nat) (p : Packet) : State :=
  let q := s.queue qid
  let id := s.disp.nextPhase
  let ph : Phase := { qid, num := BitVec.ofNat 32 (p.word 1), pcnt := BitVec.ofNat 57 (p.word 2), asid := q.desc.asid }
  let s := { s with
    cmd := { s.cmd with phases := tput s.cmd.phases id ph }
    disp := { s.disp with nextPhase := id + 1 } }
  let s := s.modQueue qid (fun q => { q with phase := some id })
  takeHead (closePhase s q.phase) qid

/-- `JOBCTL` that cancels (R60, R91). -/
def startCancel (s : State) (qid : Nat) (p : Packet) : State :=
  takeHead (toDispatcher s (.cancel (some (s.queue qid).desc.asid) (BitVec.ofNat 57 (p.word 2)) (field (p.word 1) 4 4))) qid

/-- `JOBCTL` that sets a priority (R60, R99). -/
def startPrio (s : State) (qid : Nat) (p : Packet) : State :=
  takeHead (toDispatcher s (.prio (some (s.queue qid).desc.asid) (BitVec.ofNat 57 (p.word 2)) (field (p.word 1) 4 4) (field (p.word 1) 8 4))) qid

/-- `PRESENT` (R61). -/
def startPresent (s : State) (qid : Nat) (p : Packet) : State :=
  let asid := (s.queue qid).desc.asid.toNat
  let n := field (p.word 1) 0 12
  if !pubReadable s asid n ∨ (pubEntry s asid n).isNone then enterError s qid 7
  else
    let s := publishEntry (releaseCores s 3) asid n
    let s := (List.range 4).foldl (fun s h =>
      if bit (p.word 1) (16 + h) then s.modHead h (fun d => { d with srcFrame := BitVec.ofNat 64 (p.word 2) }) else s) s
    takeHead s qid

/-- `FENCE` (R62). -/
def startFence (s : State) (qid : Nat) (p : Packet) : State := takeHead (releaseCores s (if bit (p.word 1) 0 then 4 else 3)) qid

/-- The oldest packet started, whatever its command, if R53 allows it; one that is not valid puts the queue into ERROR (R51). -/
def startHead (s : State) (qid : Nat) (which : Packet → Bool) : State :=
  match startable s qid with
  | none => s
  | some p =>
    if !which p then s
    else if p.command = 255 ∨ !packetOk (s.queue qid).desc.cls p then enterError s qid 1
    else match p.command with
      | 0 => startNop s qid
      | 1 => startLaunch s qid p
      | 2 => startGraph s qid p
      | 3 => startCopy s qid p
      | 4 => startWait s qid p
      | 5 => startSignal s qid p
      | 6 => startPhase s qid p
      | 7 => if field (p.word 1) 0 4 = 1 then startCancel s qid p else startPrio s qid p
      | 8 => startPresent s qid p
      | 9 => startFence s qid p
      | _ => enterError s qid 1

/-- `NOP`; a packet that no command names, or that KC0 has rejected, ends here too. -/
def execPktNop (qid : Nat) (s : State) : Out := .next (startHead s qid (fun p => p.command = 0 || 9 < p.command))
def execPktLaunch (qid : Nat) (s : State) : Out := .next (startHead s qid (fun p => p.command = 1))
def execPktGraph (qid : Nat) (s : State) : Out := .next (startHead s qid (fun p => p.command = 2))
def execPktCopy (qid : Nat) (s : State) : Out := .next (startHead s qid (fun p => p.command = 3))
def execPktWait (qid : Nat) (s : State) : Out := .next (startHead s qid (fun p => p.command = 4))
def execPktSignal (qid : Nat) (s : State) : Out := .next (startHead s qid (fun p => p.command = 5))
def execPktPhase (qid : Nat) (s : State) : Out := .next (startHead s qid (fun p => p.command = 6))
/-- `JOBCTL` with any ACT but 2: one that is neither 1 nor 2 is rejected. -/
def execPktJobctlCancel (qid : Nat) (s : State) : Out := .next (startHead s qid (fun p => p.command = 7 && field (p.word 1) 0 4 ≠ 2))
def execPktJobctlSetPriority (qid : Nat) (s : State) : Out := .next (startHead s qid (fun p => p.command = 7 && field (p.word 1) 0 4 = 2))
def execPktPresent (qid : Nat) (s : State) : Out := .next (startHead s qid (fun p => p.command = 8))
def execPktFence (qid : Nat) (s : State) : Out := .next (startHead s qid (fun p => p.command = 9))

/-! ## Waits (R57) -/

/-- The next re-read of a wait whose condition is false. -/
def QWait.again (now ceil : Nat) (w : QWait) : QWait :=
  { w with interval := min (2 * w.interval) ceil, due := now + min (2 * w.interval) ceil }

/-- The re-read of the counter of a launch's own wait; a read that fails puts the queue into ERROR with R at that packet (R46, R47). -/
def recheckLaunch (s : State) (qid : Nat) (i : W32) (id : Nat) (w : QWait) : State :=
  let put (s : State) (p : Pending) : State :=
    s.modQueue qid (fun q => { q with running := q.running.map (fun e => if e = (i, .launchWait id w) then (i, p) else e) })
  let q := s.queue qid
  let asid := (s.launch id).asid
  match readCounter s asid w.cnt with
  | none =>
    let s := endUnread s id .cancelled
    if q.st = .active ∨ q.st = .waiting then
      let s := storeR (s.modQueue qid (fun q => { q with r := i })) qid
      if (s.queue qid).st = .error then s else enterError s qid 5
    else s
  | some (pa, v) =>
    let s := hubNote s asid.toNat w.cnt.toNat 8
    if w.val.toNat ≤ v then toDispatcher ((put s (.launch id)).modLaunch id (fun l => { l with waiting := false })) (.launch id)
    else put s (.launchWait id ({ w with pa }.again s.time (pollCeiling s q)))

/-- A `WAIT` in force fails: R holds it again (R46, R57). (DEDUCED, log 50.) -/
def failWait (s : State) (qid code : Nat) : State :=
  let s := storeR (s.modQueue qid (fun q => { q with r := q.r - 1 })) qid
  if (s.queue qid).st = .waiting then enterError s qid code else s

def execWaitRecheck (qid : Nat) (s : State) : Out :=
  let q := s.queue qid
  let s := match q.wait with
    | some w =>
      if q.st ≠ .waiting ∨ s.time < w.due then s
      else match readCounter s q.desc.asid w.cnt with
        | none => failWait s qid 5
        | some (pa, v) =>
          let s := hubNote s q.desc.asid.toNat w.cnt.toNat 8
          if w.val.toNat ≤ v then storeStatus (s.modQueue qid (fun q => { q with st := .active, wait := none })) qid
          else s.modQueue qid (fun q => { q with wait := some ({ w with pa }.again s.time (pollCeiling s q)) })
    | none => s
  .next (q.running.foldl (fun s r => match r.2 with
    | .launchWait id w => if s.time < w.due ∨ (s.launch id).ended.isSome then s else recheckLaunch s qid r.1 id w
    | _ => s) s)

def execWaitTimeout (qid : Nat) (s : State) : Out :=
  let q := s.queue qid
  .next (match q.wait.bind (·.deadline) with
    | some t => if q.st = .waiting ∧ t ≤ s.time then failWait s qid 4 else s
    | none => s)

/-! ## What KC0 submits (R76) -/

/-- The oldest packet of a queue that KC0 holds. -/
def oldestHeld (q : Queue) : Option Packet := q.buf.find? (fun p => p.place = .held)

/-- A write of DSP_SUBMIT_Q completes the command at DSP_SUBMIT: the packet leaves KC0, and starts at once if R53 allows it. A write with bits 15 to 12
or 63 to 48 not 0 is ignored and sets BADIO; R76 does not say what it does. (DEDUCED, log 36.) -/
def submit (s : State) (val : W64) (act : Nat) : State :=
  let v := val.toNat
  let qid := field v 0 12
  let cmd := s.fw.submit.toNat
  if field cmd 57 4 ≠ act then s
  else if field v 12 4 ≠ 0 ∨ field v 48 16 ≠ 0 then setBadIo s 0
  else match oldestHeld (s.queue qid) with
    | none => setBadIo s 0
    | some p =>
      if p.idx.toNat ≠ field v 16 32 then setBadIo s 0
      else
        let s := s.modQueue qid (fun q => { q with
          buf := q.buf.map (fun b => if b.idx = p.idx then { b with place := .submitted, act, addr := BitVec.ofNat 57 cmd } else b) })
        startHead s qid (fun b => b.idx = p.idx)

def execDspSubmitLaunch (val : W64) (s : State) : Out := .next (submit s val 0)
def execDspSubmitGraph (val : W64) (s : State) : Out := .next (submit s val 1)
def execDspSubmitPerform (val : W64) (s : State) : Out := .next (submit s val 2)
def execDspSubmitReject (val : W64) (s : State) : Out := .next (submit s val 3)

end Sys2Proof.Machine
end

