-- ==== Sys2Proof/Machine/Glaze.lean ====
section
/-! DEFINITION. A glaze core between bundles: results in flight and how they land (R406, R407), counting flags (R437), aborted bands (R183,
R293), the scratchpad of a rank, and reads of a source by a head (R171). -/
namespace Sys2Proof.Machine

def State.gl (s : State) (k : Nat) : Glaze := tgetD s.dpy.glaze k {}
def State.modGl (s : State) (k : Nat) (f : Glaze → Glaze) : State :=
  { s with dpy := { s.dpy with glaze := tmod s.dpy.glaze k {} f } }

/-- A record of KC3's HEADEV queue (R72): the values it names stand in the low bytes of the payload, whose other bits are free (log 3, log 10). -/
def postHeadev (s : State) (kind unit : Nat) (named : List Nat) : State :=
  let p := setField (Config.freePayload s.free).toNat 0 (8 * named.length) (leNat (named.map (BitVec.ofNat 8)))
  { postEvent s 6 (evRec 6 kind unit (BitVec.ofNat 96 p)) with free := s.free + 1 }

/-- A band aborted (R183): it runs no more, its results in flight drain, and KC3's record names the core and the cause by trap code (R293). The kind of
the record is not stated and is free. -/
def abortBand (s : State) (k code : Nat) : State :=
  let g := s.gl k
  if g.phase = .running then
    let s := s.modGl k (fun g => { g with phase := .draining, inSync := false })
    let s := s.modHead g.ctx.head (fun h => { h with abort := true, abortedBands := h.abortedBands + 1 })
    postHeadev s (Config.freeKind s.free).toNat k [code]
  else s

/-! ## Results in flight -/

/-- A result that lands at the end of the vc reached `lat` - 1 from now (R406). -/
def flyG (s : State) (k slot lat : Nat) (r : GRes) : State :=
  s.modGl k (fun g => { g with flight := g.flight ++ [{ at_ := g.vc + lat - 1, slot, res := r }] })

/-- Write ports that a result takes (R407). -/
def portsOf (r : GRes) : Nat := match r with | .w _ regs _ => regs.length | _ => 0

/-- The order in which results land: the priority of their slots, with results of one slot as they are listed. -/
def bySlot (l : List InFlight) : List InFlight := (List.range 10).flatMap (fun i => l.filter (fun f => f.slot = i))

/-- Whether two vector results of one slot land together: which comes first is then free (log 3). -/
def slotTie (l : List InFlight) : Bool :=
  (List.range 10).any (fun i => 2 ≤ (l.filter (fun f => f.slot = i && portsOf f.res ≠ 0)).length)

/-- The vector results that fit in three write ports, by priority, and whether one was dropped (R407). -/
def fitPorts : Nat → List InFlight → List InFlight × Bool
  | _, [] => ([], false)
  | n, f :: t =>
    if portsOf f.res ≤ n then let r := fitPorts (n - portsOf f.res) t; (f :: r.1, r.2)
    else ((fitPorts n t).1, true)

/-- Registers of a group written under a mask. -/
def landW (w : Tab (BitVec 4096)) : Nat → List (BitVec 4096) → List (BitVec 4096) → Tab (BitVec 4096)
  | _, [], _ => w
  | n, v :: vs, ms =>
    let m := (ms.head?).getD 0
    landW (tput w n ((tgetD w n 0 &&& ~~~m) ||| (v &&& m))) (n + 1) vs (ms.drop 1)

/-- Bytes of a scratchpad written, those given. -/
def landSp (sp : Cells) : Nat → List (Option Byte) → Cells
  | _, [] => sp
  | a, b :: t => landSp (match b with | some v => cellPut sp a v | none => sp) (a + 1) t

/-- A flag after an increment (R437). -/
def flagUp (f : Tab W16) (n k : Nat) : Tab W16 := tput f n (BitVec.ofNat 16 (min 0xFFFF ((tgetD f n 0).toNat + k)))

/-- Poisoned units of 8 bytes after a write of a scratchpad: those that it replaces whole are sound (R27). -/
def spSound (bad : List Nat) (a : Nat) (bytes : List (Option Byte)) : List Nat :=
  bad.filter (fun u => !(List.range 8).all (fun i => decide (a ≤ 8 * u + i) && ((bytes[8 * u + i - a]?).join).isSome))

/-- The registers, by kind and number, that a result replaces whole: an error in one of them is gone (R27). -/
def wholeRegs (r : GRes) : List (Nat × Nat) :=
  match r with
  | .w n regs mask => (List.range regs.length).filterMap (fun i => if (mask[i]?).getD 0 = BitVec.allOnes 4096 then some (0, n + i) else none)
  | .a n _ => [(1, n)]
  | .p n _ m => if m = BitVec.allOnes 512 then [(2, n)] else []
  | .q n _ => [(3, n)]
  | .ps n lanes => if lanes.all (·.isSome) then [(4, n)] else []
  | .latch n _ _ => [(5, n)]
  | .six _ => [(6, 0)]
  | _ => []

/-- A result landed on its own core. -/
def landRes (g : Glaze) (r : GRes) : Glaze :=
  let g := { g with regBad := g.regBad.filter (fun e => !(wholeRegs r).contains e) }
  match r with
  | .a n v => { g with a := tput g.a n v }
  | .w n regs mask => { g with w := landW g.w n regs mask }
  | .p n v m => { g with p := tput g.p n ((tgetD g.p n 0 &&& ~~~m) ||| (v &&& m)) }
  | .q n v => { g with q := tput g.q n v }
  | .ps n lanes =>
    { g with ps := tput g.ps n ((List.range lanes.length).foldl (fun t j => match (lanes[j]?).join with | some v => tput t j v | none => t) (tgetD g.ps n [])) }
  | .latch n fp8 codes => { g with latch := tput g.latch n (fp8, codes) }
  | .sp a bytes => { g with sp := landSp g.sp a bytes, spBad := spSound g.spBad a bytes }
  | .flag n k => { g with f := flagUp g.f n k }
  | .clr n => { g with f := tdel g.f n }
  | .sub n k => { g with f := tput g.f n (BitVec.ofNat 16 ((tgetD g.f n 0).toNat - k)) }
  | .six st => { g with sparse := st, gq := [] }

/-- The core of a rank of the row of a core's band: those that its round began with, though one of them has left since (R160). -/
def Glaze.rankCore (g : Glaze) (r : Nat) : Option Nat := g.ctx.cores[r]?

/-- A result landed: a store to the scratchpad of rank r stands at addresses from 2^20 × (r + 1), and is served there last in this dc (R186, R430). -/
def landOne (s : State) (k : Nat) (f : InFlight) : State :=
  match f.res with
  | .sp a bytes =>
    if a < 2 ^ 20 then s.modGl k (fun g => landRes g f.res)
    else match (s.gl k).rankCore (a / 2 ^ 20 - 1) with
      | some c => s.modGl c (fun g => { g with inbound := g.inbound ++ [(a % 2 ^ 20, bytes)] })
      | none => s
  | _ => s.modGl k (fun g => landRes g f.res)

/-- The stores of other cores of the row land once a core's own accesses of the dc have been served (R186, R430, R439). -/
def landInbound (s : State) (k : Nat) : State :=
  if (s.gl k).inbound.isEmpty then s
  else s.modGl k (fun g => { g.inbound.foldl (fun g e => landRes g (.sp e.1 e.2)) g with inbound := [] })

/-- Counting-flag effects of a vc in the order of R437: clears, subtractions, increments. -/
def flagRank (r : GRes) : Nat := match r with | .clr _ => 1 | .sub _ _ => 2 | .flag _ _ => 3 | _ => 0

/-- Whether a scalar slot's `PRED` and a vector slot's comparison write one predicate: the spec orders them not at all. -/
def predTie (l : List InFlight) : Bool :=
  l.any (fun f => f.slot ≤ 2 && (match f.res with | .p n _ _ => l.any (fun e => 3 ≤ e.slot && (match e.res with | .p m _ _ => m == n | _ => false)) | _ => false))

/-- The end of a vc: what is due lands, lower priority first, within three write ports (R406, R407); a dropped result aborts a running band. -/
def endVc (s : State) (k : Nat) : State :=
  let g := s.gl k
  let due := g.flight.filter (fun f => f.at_ ≤ g.vc)
  let s := s.modGl k (fun g => { g with flight := g.flight.filter (fun f => g.vc < f.at_) })
  let tie := slotTie due || predTie due
  let sorted := bySlot (if tie && Config.freeChoice s.free then due.reverse else due)
  let order := if tie && Config.freeChoice (s.free + 1) && predTie due then sorted.filter (fun f => 3 ≤ f.slot) ++ sorted.filter (fun f => f.slot < 3) else sorted
  let s := if tie then { s with free := s.free + 2 } else s
  let fit := fitPorts 3 order
  let s := ([0, 1, 2, 3].flatMap (fun r => fit.1.reverse.filter (fun f => flagRank f.res = r))).foldl (fun s f => landOne s k f) s
  let s := if fit.2 then abortBand (s.modHead g.ctx.head (fun h => { h with wportOvf := true })) k tILLEGAL_INSN else s
  s.modGl k (fun g => { g with vc := g.vc + 1, vcTime := some s.time })

/-! ## Scratchpad and sources -/

/-- Where a memory slot's address stands: 0 the own scratchpad, r + 1 that of rank r; none where the band is aborted (R430). -/
def spWindow (g : Glaze) (remote : Bool) (ea size : Nat) : Option Nat :=
  let w := ea / 2 ^ 20
  if 2 ^ 20 < ea % 2 ^ 20 + size ∨ 16 ≤ w then none
  else if w = 0 then some 0
  else if remote && w ≤ g.ctx.members then some w
  else none

/-- Bytes of the scratchpad of the own core or of a rank. -/
def spBytes (s : State) (k w off n : Nat) : List Byte :=
  if w = 0 then cellsBytes (s.gl k).sp off n
  else match (s.gl k).rankCore (w - 1) with
    | some c => cellsBytes (s.gl c).sp off n
    | none => List.replicate n 0

/-- Whether an uncorrectable error stands in bytes of a core's scratchpad, or of a rank's (R27, R183). -/
def spPoisoned (s : State) (k w off n : Nat) : Bool :=
  if w = 0 then anyBad (s.gl k).spBad off n
  else match (s.gl k).rankCore (w - 1) with
    | some c => anyBad (s.gl c).spBad off n
    | none => false

/-! ## Banks (R186) -/

/-- The banks that a range of a scratchpad meets. -/
def banksOf (a n : Nat) : List Nat := if n = 0 then [] else (List.range ((a + n - 1) / 65536 - a / 65536 + 1)).map (· + a / 65536)
/-- Whether a bank of a range has served an access in this dc. -/
def bankUsed (s : State) (g : Glaze) (a n : Nat) : Bool := (banksOf a n).any (fun b => tget g.bankAt b == some s.time)
/-- The banks of a range serve an access in this dc. -/
def useBanks (s : State) (k a n : Nat) : State := s.modGl k (fun g => { g with bankAt := (banksOf a n).foldl (fun t b => tput t b s.time) g.bankAt })

/-- Whether a `BANKLOCK` in force holds back accesses from outside the slots to a range (R186). -/
def bankLocked (g : Glaze) (a n : Nat) : Bool :=
  g.lockLeft ≠ 0 && (List.range ((a + n - 1) / 65536 - a / 65536 + 1)).any (fun i => g.lockSet.getLsbD ((a / 65536 + i) % 16))

/-- The translation of an address of a source read by a head or a `FETCH`: `shift` is that of the entry where backing 1 was sampled and the address stands
on it, else 0. A read of backing 1 is an access to the page of the buffer, whose entry and range are checked, and is sent to a page that must carry PUB = 0
(R171, R264, R265). -/
def sourceTr (s : State) (asid a shift : Nat) : TR :=
  let at_ (x : Nat) : TR := translate s (lookHub s asid) asid (x % 2 ^ 57) false false (.given false)
  if shift = 0 then at_ a
  else
    let va := (a + (2 ^ 57 - shift)) % 2 ^ 57
    let own : TR := match lookHub s asid (va / 4096) with
      | .hit l => if leafPub l = 0 then at_ a else at_ va
      | _ => at_ a
    match own, at_ a with
    | .ok _ _, .ok pa leaf => if leafPub leaf = 0 then .ok pa leaf else .bad
    | .ok _ _, r => r
    | r, _ => r

/-- Bytes of an address space as a head or a `FETCH` reads them, on the sampled backing of a publishable page: the bytes, or the trap code that names the
failure (R171, R265, R293). -/
def sourceBytes (s : State) (asid shift a : Nat) : Nat → Except Nat (List Byte)
  | 0 => .ok []
  | n + 1 =>
    match sourceTr s asid a shift with
    | .ok pa _ =>
      if poisoned s pa 1 then .error tMACHINE_CHECK
      else match sourceBytes s asid shift (a + 1) n with
        | .ok t => .ok (physGet s pa :: t)
        | .error e => .error e
    | .miss _ => .error tPAGE_FAULT
    | _ => .error tACCESS_VIOLATION

end Sys2Proof.Machine
end

