-- ==== Sys2Proof/Machine/Swevar.lean ====
section
/-! DEFINITION. Swevar slot operations (R417 to R437), and the scalar slots that kiln bundles share (R421, R422). An operation reads its sources as they
stand at the start of its vc; what it writes is a result in flight (R406). -/
namespace Sys2Proof.Machine

/-- An operation of a slot of a glaze core's bundle; nothing happens where no bundle of a glaze core executes. (DESIGN CHOICE, log 11.) -/
def onGlaze (s : State) (f : Nat → Nat → Glaze → State) : State :=
  match s.cur with
  | .glaze k slot => f k slot (s.gl k)
  | _ => s

/-! ## Sequencer field (R420) -/

def Glaze.qN (g : Glaze) (n : BitVec 4) : Nat := (tgetD g.q n.toNat 0).toNat
def seqNextIs (s : State) (k n : Nat) : State := s.modGl k (fun g => { g with seqNext := n })
/-- The conditions of `SQBR` (R398). -/
def sqCond (cond : Nat) (q : Nat) : Bool :=
  match cond with | 0 => true | 1 => q == 0 | 2 => q != 0 | 3 => 2 ^ 31 ≤ q | _ => q < 2 ^ 31

/-- What a sequencer field does to a `q` register and to the bundle number: the register and its new value, and the target of a taken branch. -/
def seqEffect (i : Instr) (q : BitVec 4 → Nat) : Option (Nat × W32) × Option Nat :=
  match i with
  | .sqloop n t =>
    let v := wrap ((q n : Int) - 1) 32
    (some (n.toNat, BitVec.ofNat 32 v), if v = 0 then none else some t.toNat)
  | .sqbr n cond t => (none, if sqCond cond.toNat (q n) then some t.toNat else none)
  | .sqset n imm => (some (n.toNat, imm.signExtend 32), none)
  | .sqadd n imm => (some (n.toNat, BitVec.ofNat 32 (q n) + imm.signExtend 32), none)
  | _ => (none, none)

/-- A sequencer operation on a core's own copy of the sequencer (R163, R420). -/
def execSeqField (i : Instr) (s : State) : State :=
  onGlaze s (fun k slot g =>
    let e := seqEffect i g.qN
    let s := seqNextIs s k (e.2.getD (g.seqNext + 1))
    match e.1 with
    | some (n, v) => flyG s k slot 1 (.q n v)
    | none => s)

def execSqnop (s : State) : Out := .next (onGlaze s (fun k _ g => seqNextIs s k (g.seqNext + 1)))
def execSqloop (q : BitVec 4) (t : W16) (s : State) : Out := .next (execSeqField (.sqloop q t) s)
def execSqbr (q : BitVec 4) (cond : BitVec 3) (t : W16) (s : State) : Out := .next (execSeqField (.sqbr q cond t) s)
def execSqset (q : BitVec 4) (imm : W16) (s : State) : Out := .next (execSeqField (.sqset q imm) s)
def execSqadd (q : BitVec 4) (imm : W16) (s : State) : Out := .next (execSeqField (.sqadd q imm) s)
/-- `SYNC`: the core has reached one more, and freezes until the row has (R167). -/
def execSwSync (s : State) : Out :=
  .next (onGlaze s (fun k _ g => (seqNextIs s k (g.seqNext + 1)).modGl k (fun g => { g with inSync := true, syncs := g.syncs + 1 })))
/-- `BANKLOCK` replaces the lock in force; a count of 0 releases it (R186). -/
def execBanklock (n : BitVec 4) (banks : W16) (s : State) : Out :=
  .next (onGlaze s (fun k _ g => (seqNextIs s k (g.seqNext + 1)).modGl k (fun g =>
    { g with lockSet := if n = 0 then 0 else banks, lockLeft := n.toNat })))
/-- `BANDEND`: the band ends and the core drains (R168). -/
def execBandend (s : State) : Out :=
  .next (onGlaze s (fun k _ g => (seqNextIs s k (g.seqNext + 1)).modGl k (fun g => { g with phase := if g.phase = .running then .draining else g.phase })))

/-! ## Scalar slots (R421, R422) -/

/-- A scalar register of the core that executes. -/
def scalarReg (s : State) (n : BitVec 5) : Nat :=
  match s.cur with
  | .glaze k _ => (tgetD (s.gl k).a n.toNat 0).toNat
  | .kiln k _ => (tgetD (tgetD s.fw.kilns k {}).a n.toNat 0).toNat
  | _ => 0

/-- A scalar result at latency 1: in flight on a glaze core, a pending write of a kiln bundle (R406, R414). -/
def scalarPut (s : State) (d : BitVec 5) (v : Nat) : State :=
  match s.cur with
  | .glaze k slot => flyG s k slot 1 (.a d.toNat (BitVec.ofNat 32 v))
  | .kiln _ _ => { s with kwrites := s.kwrites ++ [(0, d.toNat, BitVec.ofNat 32 v)] }
  | _ => s

def immS (imm : W16) : Int := imm.toInt
def scalarAlu (f : Nat → Nat → Nat) (d a : BitVec 5) (b : Nat) (s : State) : State := scalarPut s d (f (scalarReg s a) b)
def addW (a b : Nat) : Nat := (a + b) % 2 ^ 32
def subW (a b : Nat) : Nat := wrap ((a : Int) - b) 32
def mulW (a b : Nat) : Nat := a * b % 2 ^ 32
def andW (a b : Nat) : Nat := a &&& b
def orW (a b : Nat) : Nat := a ||| b
def xorW (a b : Nat) : Nat := a ^^^ b
def shlW (a b : Nat) : Nat := a * 2 ^ (b % 32) % 2 ^ 32
def shrW (a b : Nat) : Nat := a / 2 ^ (b % 32)
def sarW (a b : Nat) : Nat := wrap ((sext a 32).fdiv (2 ^ (b % 32))) 32

def execSwScalarNop (s : State) : Out := .next s
def execSwAddReg (d a b : BitVec 5) (s : State) : Out := .next (scalarAlu addW d a (scalarReg s b) s)
def execSwAddImm (d a : BitVec 5) (imm : W16) (s : State) : Out := .next (scalarAlu addW d a (wrap (immS imm) 32) s)
def execSwSubReg (d a b : BitVec 5) (s : State) : Out := .next (scalarAlu subW d a (scalarReg s b) s)
def execSwSubImm (d a : BitVec 5) (imm : W16) (s : State) : Out := .next (scalarAlu subW d a (wrap (immS imm) 32) s)
def execSwMulReg (d a b : BitVec 5) (s : State) : Out := .next (scalarAlu mulW d a (scalarReg s b) s)
def execSwMulImm (d a : BitVec 5) (imm : W16) (s : State) : Out := .next (scalarAlu mulW d a (wrap (immS imm) 32) s)
def execSwAndReg (d a b : BitVec 5) (s : State) : Out := .next (scalarAlu andW d a (scalarReg s b) s)
def execSwAndImm (d a : BitVec 5) (imm : W16) (s : State) : Out := .next (scalarAlu andW d a imm.toNat s)
def execSwOrReg (d a b : BitVec 5) (s : State) : Out := .next (scalarAlu orW d a (scalarReg s b) s)
def execSwOrImm (d a : BitVec 5) (imm : W16) (s : State) : Out := .next (scalarAlu orW d a imm.toNat s)
def execSwXorReg (d a b : BitVec 5) (s : State) : Out := .next (scalarAlu xorW d a (scalarReg s b) s)
def execSwXorImm (d a : BitVec 5) (imm : W16) (s : State) : Out := .next (scalarAlu xorW d a imm.toNat s)
def execSwShlReg (d a b : BitVec 5) (s : State) : Out := .next (scalarAlu shlW d a (scalarReg s b) s)
def execSwShlImm (d a : BitVec 5) (imm : W16) (s : State) : Out := .next (scalarAlu shlW d a imm.toNat s)
def execSwShrReg (d a b : BitVec 5) (s : State) : Out := .next (scalarAlu shrW d a (scalarReg s b) s)
def execSwShrImm (d a : BitVec 5) (imm : W16) (s : State) : Out := .next (scalarAlu shrW d a imm.toNat s)
def execSwSarReg (d a b : BitVec 5) (s : State) : Out := .next (scalarAlu sarW d a (scalarReg s b) s)
def execSwSarImm (d a : BitVec 5) (imm : W16) (s : State) : Out := .next (scalarAlu sarW d a imm.toNat s)
def execSwMovi (d : BitVec 5) (imm : W16) (s : State) : Out := .next (scalarPut s d (wrap (immS imm) 32))
def execSwMovh (d : BitVec 5) (imm : W16) (s : State) : Out := .next (scalarPut s d (imm.toNat * 2 ^ 16))

/-- The conditions of `CMP` on signed values (R399). -/
def scalarCond (cond : Nat) (a b : Int) : Bool :=
  match cond with | 0 => a == b | 1 => a != b | 2 => a < b | 3 => a ≤ b | 4 => a > b | _ => a ≥ b
def scalarCmp (d a : BitVec 5) (cond : BitVec 3) (b : Int) (s : State) : State :=
  scalarPut s d (if scalarCond cond.toNat (sext (scalarReg s a) 32) b then 1 else 0)

def execSwCmpReg (d a : BitVec 5) (cond : BitVec 3) (b : BitVec 5) (s : State) : Out := .next (scalarCmp d a cond (sext (scalarReg s b) 32) s)
def execSwCmpImm (d a : BitVec 5) (cond : BitVec 3) (imm : BitVec 13) (s : State) : Out := .next (scalarCmp d a cond imm.toInt s)
def execSwSel (d a c b : BitVec 5) (s : State) : Out :=
  .next (scalarPut s d (if scalarReg s c ≠ 0 then scalarReg s a else scalarReg s b))

/-- The address of `LDS` and `STS`, its low two bits ignored (R422). -/
def scalarEa (s : State) (a : BitVec 5) (imm : W16) : Nat := wrap ((scalarReg s a : Int) + immS imm) 32 / 4 * 4

/-- The band-context window (R422). -/
def ctxWord (c : BandCtx) (off : Nat) : Nat :=
  match off with
  | 0x00 => c.rank
  | 0x04 => c.head
  | 0x08 => c.band
  | 0x0C => c.line0
  | 0x10 => c.nlines
  | 0x14 => c.gen.toNat % 2 ^ 32
  | 0x18 => c.gen.toNat / 2 ^ 32
  | 0x1C => c.srcbase.toNat % 2 ^ 32
  | 0x20 => c.srcbase.toNat / 2 ^ 32
  | 0x24 => c.members
  | 0x28 => c.frame % 2 ^ 32
  | _ => 0

def execLds (d a : BitVec 5) (imm : W16) (s : State) : Out :=
  let x := scalarEa s a imm
  .next (match s.cur with
    | .kiln k _ => scalarPut s d (leNat (cellsBytes (tgetD s.fw.kilns k {}).data (x % 2 ^ 18) 4))
    | .glaze k _ =>
      if x < 2 ^ 20 then (if spPoisoned s k 0 x 4 then abortBand s k tMACHINE_CHECK else scalarPut s d (leNat (cellsBytes (s.gl k).sp x 4)))
      else if 0xFFFFFF00 ≤ x then scalarPut s d (ctxWord (s.gl k).ctx (x - 0xFFFFFF00))
      else abortBand s k tACCESS_VIOLATION
    | _ => s)

def execSts (d a : BitVec 5) (imm : W16) (s : State) : Out :=
  let x := scalarEa s a imm
  let v := scalarReg s d
  .next (match s.cur with
    | .kiln _ _ => { s with kwrites := s.kwrites ++ [(1, x % 2 ^ 18, BitVec.ofNat 32 v)] }
    | .glaze k slot =>
      if x < 2 ^ 20 then flyG s k slot 1 (.sp x ((leBytes 4 v).map some))
      else if 0xFFFFFF00 ≤ x then s
      else abortBand s k tACCESS_VIOLATION
    | _ => s)

/-- The 512 bits of a repeated 16-bit pattern (R421). -/
def predPattern (imm : W16) : BitVec 512 := BitVec.ofNat 512 ((List.range 32).foldl (fun n i => n + imm.toNat * 2 ^ (16 * i)) 0)

def execPred (p : BitVec 3) (imm : W16) (s : State) : Out :=
  .next (onGlaze s (fun k slot _ => flyG s k slot 1 (.p p.toNat (predPattern imm) (BitVec.allOnes 512))))

/-! ## Vector elements (R400, R418, R419) -/

/-- The format of a floating-point TYPE. -/
def typeFmt (ty : Nat) : Nat := match ty with | 6 => 10 | 7 => 8 | 8 => 9 | 9 => 3 | _ => 4
def typeSigned (ty : Nat) : Bool := ty == 0 || ty == 2 || ty == 4 || ty == 11
/-- An element read as an integer. -/
def typeVal (ty v : Nat) : Int := if typeSigned ty then sext v (typeBits ty) else (v : Int)
/-- The range of an integer type of `b` bits. -/
def clampInt (signed : Bool) (b : Nat) (v : Int) : Int :=
  if signed then max (-(2 ^ (b - 1))) (min (2 ^ (b - 1) - 1) v) else max 0 (min (2 ^ b - 1) v)
/-- An integer result: clamped with SAT, else modulo 2^b (R423). -/
def intResult (signed sat : Bool) (b : Nat) (v : Int) : Nat := wrap (if sat then clampInt signed b v else v) b
/-- The value of an element of any type. -/
def typeX (ty v : Nat) : XR := if typeInt ty then xOfQ (qInt (typeVal ty v)) else valueOf (typeFmt ty) v

def Glaze.wN (g : Glaze) (n : BitVec 6) : Nat := (tgetD g.w n.toNat 0).toNat
/-- Element `i` of a register by the width of its type. -/
def elemOf (w b i : Nat) : Nat := field w (b * i) b
/-- Whether element `i` is enabled by PRED (R418). -/
def enabledAt (g : Glaze) (pred : BitVec 4) (b i : Nat) : Bool :=
  if 8 ≤ pred.toNat then true else (tgetD g.p pred.toNat 0).getLsbD (b * i / 8)

/-- Result elements of width `b` packed into a group of `k` registers: element i to register i mod k, position ⌊i/k⌋ (R419). -/
def packReg (b k j : Nat) (items : List (Nat × Nat)) : BitVec 4096 × BitVec 4096 :=
  let r := items.foldl (fun (p : Nat × Nat) e =>
    if e.1 % k = j then (p.1 + e.2 % 2 ^ b * 2 ^ (b * (e.1 / k)), p.2 + (2 ^ b - 1) * 2 ^ (b * (e.1 / k))) else p) (0, 0)
  (BitVec.ofNat 4096 r.1, BitVec.ofNat 4096 r.2)

/-- A vector result in flight: the elements named, of width `b`, into `k` registers from D. -/
def flyW (s : State) (kk slot lat : Nat) (d : BitVec 6) (b k : Nat) (items : List (Nat × Nat)) : State :=
  let regs := (List.range k).map (fun j => packReg b k j items)
  flyG s kk slot lat (.w d.toNat (regs.map (·.1)) (regs.map (·.2)))

/-- V2 of a bundle within 3 vc of an `MXM` is not performed (R406). -/
def v2Busy (g : Glaze) (slot : Nat) : Bool := slot == 5 && g.vc < g.mxmUntil

/-- An operation per enabled element: the elements of width `be` of its sources, results of width `b`. -/
def vecOp (x : VOp) (lat be b k : Nat) (f : Glaze → Nat → Nat) (s : State) : State :=
  onGlaze s (fun kk slot g =>
    if v2Busy g slot then s
    else
      let els := (List.range (4096 / be)).filter (enabledAt g x.pred be)
      flyW s kk slot lat x.d b k (els.map (fun i => (i, f g i))))

/-! ## Vector slots (R423 to R425) -/

/-- Arithmetic: the exact result of an element, narrowed (R423). -/
def arithResult (ty fn : Nat) (wide : Bool) (int : Int) (flt : XR) : Nat :=
  let b := typeBits ty
  if typeInt ty then (if wide then wrap int (2 * b) else intResult (typeSigned ty) (bit fn 2) b int)
  else (narrow (if wide then 10 else typeFmt ty) flt (fn % 4) false 0).1

def vecArith (x : VOp) (lat : Nat) (fi : Int → Int → Int → Int) (fx : XR → XR → XR → XR) (s : State) : State :=
  let ty := x.ty.toNat
  let b := typeBits ty
  let wide := bit x.fn.toNat 3
  vecOp x lat b (if wide then 2 * b else b) (if wide then 2 else 1) (fun g i =>
    let e (r : BitVec 6) := elemOf (g.wN r) b i
    if typeInt ty then arithResult ty x.fn.toNat wide (fi (typeVal ty (e x.a)) (typeVal ty (e x.b)) (typeVal ty (e x.c))) (.zero false)
    else arithResult ty x.fn.toNat wide 0 (fx (typeX ty (e x.a)) (typeX ty (e x.b)) (typeX ty (e x.c)))) s

def execSwVectorNop (s : State) : Out := .next s
def execVadd (x : VOp) (s : State) : Out := .next (vecArith x 2 (fun a b _ => a + b) (fun a b _ => (xAdd a b).1) s)
def execVsub (x : VOp) (s : State) : Out := .next (vecArith x 2 (fun a b _ => a - b) (fun a b _ => (xAdd a (xNegate b)).1) s)
def execVmul (x : VOp) (s : State) : Out := .next (vecArith x 4 (fun a b _ => a * b) (fun a b _ => (xMul a b).1) s)
def execVfma (x : VOp) (s : State) : Out := .next (vecArith x 4 (fun a b c => a * b + c) (fun a b c => (xFma a b c).1) s)

/-- `VMIN` and `VMAX` (R236, R423). -/
def vecMinMax (x : VOp) (max : Bool) (s : State) : State :=
  let ty := x.ty.toNat
  let b := typeBits ty
  vecOp x 2 b b 1 (fun g i =>
    let va := elemOf (g.wN x.a) b i
    let vb := elemOf (g.wN x.b) b i
    if typeInt ty then (if (typeVal ty va < typeVal ty vb) != max then va else vb)
    else (minMaxCode (typeFmt ty) max va vb).1) s

def execVmin (x : VOp) (s : State) : Out := .next (vecMinMax x false s)
def execVmax (x : VOp) (s : State) : Out := .next (vecMinMax x true s)

def vecLogic (x : VOp) (f : Nat → Nat → Nat) (s : State) : State :=
  let b := typeBits x.ty.toNat
  vecOp x 2 b b 1 (fun g i => f (elemOf (g.wN x.a) b i) (elemOf (g.wN x.b) b i)) s

def execVand (x : VOp) (s : State) : Out := .next (vecLogic x andW s)
def execVor (x : VOp) (s : State) : Out := .next (vecLogic x orW s)
def execVxor (x : VOp) (s : State) : Out := .next (vecLogic x xorW s)

/-- The conditions of `VCMP` (R424). -/
def vecCond (ty cond va vb : Nat) : Bool :=
  if typeInt ty then scalarCond cond (typeVal ty va) (typeVal ty vb)
  else
    let a := typeX ty va
    let b := typeX ty vb
    if xIsNan a || xIsNan b then cond == 1 || cond == 6
    else cond != 6 && scalarCond cond (xCmp a b) 0

def execVcmp (x : VOp) (s : State) : Out :=
  let ty := x.ty.toNat
  let b := typeBits ty
  .next (onGlaze s (fun kk slot g =>
    if v2Busy g slot then s
    else
      let els := (List.range (4096 / b)).filter (enabledAt g x.pred b)
      let r := els.foldl (fun (p : Nat × Nat) i =>
        let m := (2 ^ (b / 8) - 1) * 2 ^ (b / 8 * i)
        (if vecCond ty x.fn.toNat (elemOf (g.wN x.a) b i) (elemOf (g.wN x.b) b i) then p.1 + m else p.1, p.2 + m)) (0, 0)
      flyG s kk slot 2 (.p (x.d.toNat % 8) (BitVec.ofNat 512 r.1) (BitVec.ofNat 512 r.2))))

def execVshl (x : VOp) (s : State) : Out :=
  let b := typeBits x.ty.toNat
  .next (vecOp x 2 b b 1 (fun g i => elemOf (g.wN x.a) b i * 2 ^ (x.fn.toNat % 32) % 2 ^ b) s)

/-- `VSHR`; with FN[5] the top bit of every type is copied (R424). (DEDUCED, log 20.) -/
def execVshr (x : VOp) (s : State) : Out :=
  let b := typeBits x.ty.toNat
  let n := x.fn.toNat % 32
  .next (vecOp x 2 b b 1 (fun g i =>
    let v := elemOf (g.wN x.a) b i
    if bit x.fn.toNat 5 then wrap ((sext v b).fdiv (2 ^ n)) b else v / 2 ^ n) s)

def execVsel (x : VOp) (s : State) : Out :=
  let b := typeBits x.ty.toNat
  .next (vecOp x 2 b b 1 (fun g i => if elemOf (g.wN x.c) b i ≠ 0 then elemOf (g.wN x.a) b i else elemOf (g.wN x.b) b i) s)

/-- The value of an element converted (R425). -/
def vcvtValue (src dst rm : Nat) (sat : Bool) (v : Nat) : Nat :=
  if typeInt dst then
    if typeInt src then intResult (typeSigned dst) sat (typeBits dst) (typeVal src v)
    else
      let lo := clampInt (typeSigned dst) (typeBits dst) (-(2 ^ 200))
      let hi := clampInt (typeSigned dst) (typeBits dst) (2 ^ 200)
      match typeX src v with
      | .nan _ => 0
      | .inf neg => wrap (if neg then lo else hi) (typeBits dst)
      | .zero _ => 0
      | .fin q => wrap (max lo (min hi (if rm = 0 then qRne q else qRtz q))) (typeBits dst)
  else (narrow (typeFmt dst) (typeX src v) rm sat 0).1

/-- `VCVT`, enabled by the elements of its destination type (R424). (DEDUCED, log 20.) -/
def execVcvt (x : VOp) (s : State) : Out :=
  let dst := x.ty.toNat
  let src := x.fn.toNat % 16
  let bs := typeBits src
  let bd := typeBits dst
  let value (g : Glaze) (i : Nat) := vcvtValue src dst (x.fn.toNat / 16 % 4) (bit x.fn.toNat 6) (elemOf (g.wN x.a) bs i)
  .next (
    if bs ≤ bd then vecOp x 2 bs bd (bd / bs) value s
    else onGlaze s (fun kk slot g =>
      if v2Busy g slot then s
      else
        let n := 4096 / bs
        let els := (List.range n).filter (enabledAt g x.pred bd)
        flyW s kk slot 2 x.d bd 1 (els.map (fun i => (i, value g i)) ++ (List.range (4096 / bd - n)).map (fun i => (n + i, 0)))))

def execVperm (x : VOp) (s : State) : Out :=
  let b := typeBits x.ty.toNat
  .next (vecOp x 2 b b 1 (fun g i => elemOf (g.wN x.a) b (elemOf (g.wN x.b) b i % (4096 / b))) s)

def execVbcast (x : VOp) (s : State) : Out :=
  let b := typeBits x.ty.toNat
  .next (vecOp x 2 b b 1 (fun g _ => (tgetD g.a (x.a.toNat % 32) 0).toNat % 2 ^ b) s)

/-! ## The matrix array (R426, R427) -/

/-- An exact sum rounded once: NaN, then infinities, then the sum (R427, R429). -/
def sumOnce (fmt : Nat) (ps : List XR) : Nat :=
  let pos := ps.any (fun p => p == .inf false)
  let neg := ps.any (fun p => p == .inf true)
  if ps.any xIsNan || (pos && neg) then qnan fmt
  else if pos || neg then infCode fmt neg
  else (narrow fmt (xOfQ (ps.foldl (fun q p => qAdd q (xQ p)) ⟨0, 1⟩)) 0 false 0).1

/-- The rows, element format and result format of an `MXM` by TYPE. -/
def mxmShape (ty : Nat) : Nat × Nat × Nat := if ty = 7 then (4, 8, 10) else (8, typeFmt ty, 8)

def execMxm (x : VOp) (s : State) : Out :=
  .next (onGlaze s (fun kk slot g =>
    if v2Busy g slot then s
    else
      let ty := x.ty.toNat
      let sh := mxmShape ty
      let l := tgetD g.latch (x.fn.toNat % 4) (false, [])
      let a := (List.range (sh.1 * 64)).map (fun i => valueOf sh.2.1 (elemOf (g.wN x.a) (fmtBits sh.2.1) i))
      let y (i : Nat) : Nat :=
        if l.1 != (ty != 7) then qnan sh.2.2
        else sumOnce sh.2.2 ((List.range 64).map (fun k =>
          mulX ((a[i / 64 * 64 + k]?).getD (.zero false)) (valueOf sh.2.1 ((l.2[64 * k + i % 64]?).getD 0).toNat)))
      let s := s.modGl kk (fun g => { g with mxmUntil := g.vc + 4 })
      flyW s kk slot 12 x.d (fmtBits sh.2.2) 2 ((List.range (sh.1 * 64)).map (fun i => (i, y i)))))

/-! ## SF slot (R428, R429) -/

def sfFn (fn : SFn) (x : FOp) (s : State) : State :=
  let c := typeFmt x.ty.toNat
  let b := typeBits x.ty.toNat
  onGlaze s (fun kk slot g =>
    let els := (List.range (4096 / b)).filter (enabledAt g x.pred b)
    flyW s kk slot 8 x.d b 1 (els.map (fun i => (i, (special fn c (elemOf (g.wN x.a) b i) 0 0).1))))

def execSwSfNop (s : State) : Out := .next s
def execVrcp (x : FOp) (s : State) : Out := .next (sfFn .rcp x s)
def execVrsq (x : FOp) (s : State) : Out := .next (sfFn .rsq x s)
def execVexp2 (x : FOp) (s : State) : Out := .next (sfFn .exp2 x s)
def execVlog2 (x : FOp) (s : State) : Out := .next (sfFn .log2 x s)

/-- The smaller (or larger) of two values that are no NaN, with −0 below +0 (R429). -/
def xPick (max : Bool) (a b : XR) : XR :=
  let c := xCmp a b
  let aFirst := if c = 0 then xNeg a || !xNeg b else decide (c < 0)
  if aFirst != max then a else b

/-- A lane of `RED` over the values it combines (R429). -/
def redLane (op : Nat) (xs : List XR) : Nat :=
  if op = 0 then sumOnce 10 xs
  else if xs.any xIsSig then qnan 10
  else match xs.filter (fun v => !xIsNan v) with
    | [] => qnan 10
    | v :: t => (narrow 10 (t.foldl (xPick (op == 2)) v) 0 false 0).1

def execSwRed (x : FOp) (s : State) : Out :=
  let ty := x.ty.toNat
  let b := typeBits ty
  let fn := x.fn.toNat
  let grp := 2 ^ (fn / 4 % 8)
  let acc := bit fn 5
  let m := 4096 / b / grp
  .next (onGlaze s (fun kk slot g =>
    let old := tgetD g.ps (x.d.toNat % 4) []
    let lane (j : Nat) : Option W32 :=
      if j < m then
        let els := ((List.range grp).map (fun i => j * grp + i)).filter (enabledAt g x.pred b)
        let xs := els.map (fun i => typeX ty (elemOf (g.wN x.a) b i)) ++ (if acc then [valueOf 10 (tgetD old j 0).toNat] else [])
        some (BitVec.ofNat 32 (if xs.isEmpty then 0 else redLane (fn % 4) xs))
      else if acc then none else some 0
    flyG s kk slot 6 (.ps (x.d.toNat % 4) ((List.range 128).map lane))))

def execPsmov (x : FOp) (s : State) : Out :=
  .next (onGlaze s (fun kk slot g =>
    let els := (List.range 128).filter (enabledAt g x.pred 32)
    flyW s kk slot 8 x.d 32 1 (els.map (fun i => (i, (tgetD (tgetD g.ps (x.a.toNat % 4) []) i 0).toNat)))))

/-! ## Memory slots (R430 to R436) -/

/-- The address of a memory slot, its low `lo` bits ignored (R430). -/
def memEa (g : Glaze) (x : MOp) (lo : Nat) : Nat := ((tgetD g.a x.a.toNat 0).toNat + x.imm.toNat) % 2 ^ 32 / 2 ^ lo * 2 ^ lo

/-- A memory slot's access of a scratchpad: the band is aborted where its address reaches none. -/
def withSp (s : State) (k : Nat) (remote : Bool) (ea size : Nat) (f : Nat → Nat → State) : State :=
  match spWindow (s.gl k) remote ea size with
  | some w => f w (ea % 2 ^ 20)
  | none => abortBand s k tACCESS_VIOLATION

/-- A read of a scratchpad by a memory slot: an uncorrectable error in what it reads aborts the band too (R183, R293). -/
def readSp (s : State) (k : Nat) (remote : Bool) (ea size : Nat) (f : Nat → Nat → State) : State :=
  withSp s k remote ea size (fun w off => if spPoisoned s k w off size then abortBand s k tMACHINE_CHECK else f w off)

/-- Bytes enabled by PRED as a mask over 512 bytes. -/
def byteMask (g : Glaze) (pred : BitVec 4) : BitVec 4096 := (packReg 8 1 0 (((List.range 512).filter (enabledAt g pred 8)).map (fun i => (i, 0)))).2

def execSwMemoryNop (s : State) : Out := .next s

def execSpld (x : MOp) (s : State) : Out :=
  .next (onGlaze s (fun k slot g => readSp s k true (memEa g x 6) 512 (fun w off =>
    flyG s k slot 3 (.w x.d.toNat [BitVec.ofNat 4096 (leNat (spBytes s k w off 512))] [byteMask g x.pred]))))

def execSpst (x : MOp) (s : State) : Out :=
  .next (onGlaze s (fun k slot g => withSp s k true (memEa g x 6) 512 (fun w off =>
    flyG s k slot 1 (.sp (w * 2 ^ 20 + off) ((List.range 512).map (fun i =>
      if enabledAt g x.pred 8 i then some (BitVec.ofNat 8 (elemOf (g.wN x.d) 8 i)) else none))))))

/-- Whether a `GATH` waits for its queue (R436). -/
def gathWaits (g : Glaze) : Bool := g.gq.length < 32 && g.sparse.left ≠ 0

def execGath (x : MOp) (s : State) : Out :=
  .next (onGlaze s (fun k slot g =>
    if gathWaits g then s
    else withSp s k false (memEa g x 4) 0 (fun _ base =>
      let offs := g.gq.take 32
      if offs.any (fun o => 2 ^ 20 < base + 16 * o.toNat + 16) then abortBand s k tACCESS_VIOLATION
      else if offs.any (fun o => spPoisoned s k 0 (base + 16 * o.toNat) 16) then abortBand s k tMACHINE_CHECK
      else
        let bytes := offs.flatMap (fun o => cellsBytes g.sp (base + 16 * o.toNat) 16)
        let s := s.modGl k (fun g => { g with gq := g.gq.drop 32 })
        flyG s k slot 6 (.w x.d.toNat [BitVec.ofNat 4096 (leNat bytes)] [byteMask g x.pred]))))

/-- Whether a slot stands in M1: 8 of the bundle's ten. -/
def inM1 (slot : Nat) : Bool := slot == 8

def execFetch (x : MOp) (s : State) : Out :=
  .next (onGlaze s (fun k slot g =>
    if 16 ≤ g.fetches.length then s
    else
      let dst := (tgetD g.a x.a.toNat 0).toNat / 32 * 32
      withSp s k false dst x.imm.toNat (fun _ off =>
        let f : Fetch :=
          { m1 := inM1 slot, src := g.ctx.srcbase.toNat + (tgetD g.a (x.d.toNat % 32) 0).toNat, dst := off, len := x.imm.toNat, zeros := g.ctx.gen == 0,
            asid := g.ctx.asid, shift := g.ctx.shift, frame := g.roundFrame, round := g.round, left := List.range ((x.imm.toNat + 31) / 32),
            due := s.time + 55 * (1 + Config.fetchDelay s.free) }
        { s.modGl k (fun g => { g with fetches := g.fetches ++ [f] }) with free := s.free + 1 })))

/-- The band of a head's frame. -/
def Head.bandOf (h : Head) (frame band : Nat) : Option Band := h.bands.find? (fun b => b.frame = frame && b.band = band)
def Head.modBand (h : Head) (frame band : Nat) (f : Band → Band) : Head :=
  { h with bands := h.bands.map (fun b => if b.frame = frame ∧ b.band = band then f b else b) }

/-- Whether a `LINEOUT` waits: the line FIFO is full, or its banks are locked (R186, R433). -/
def lineWaits (s : State) (g : Glaze) (off : Nat) : Bool :=
  160 ≤ (s.head g.ctx.head).fifo.length || bankLocked g off (8 * (s.head g.ctx.head).timing.hactive.toNat)

/-- A line delivered to the head: it counts if the band's deadline has not passed, else it is late (R178). -/
def deliverLine (s : State) (c : BandCtx) (line : Nat) (px : List W64) : State :=
  s.modHead c.head (fun h =>
    match h.bandOf c.frame c.band with
    | some b =>
      if b.deadline then { h with lateLines := h.lateLines + 1 }
      else { h.modBand c.frame c.band (fun b => { b with delivered := b.delivered ++ [line] }) with fifo := h.fifo ++ [(c.frame, c.band, line, px)] }
    | none => { h with lateLines := h.lateLines + 1 })

/-- Words of 8 bytes. -/
def words64 : Nat → List Byte → List W64
  | 0, _ => []
  | n + 1, bs => BitVec.ofNat 64 (leNat (bs.take 8)) :: words64 n (bs.drop 8)

def execLineout (x : MOp) (s : State) : Out :=
  .next (onGlaze s (fun k _ g =>
    let line := (tgetD g.a (x.d.toNat % 32) 0).toNat
    let n := (s.head g.ctx.head).timing.hactive.toNat
    withSp s k false (memEa g x 6) (8 * n) (fun _ off =>
      if line ≠ g.nextLine ∨ g.ctx.line0 + g.ctx.nlines ≤ line then abortBand s k tILLEGAL_INSN
      else if lineWaits s g off then s
      else if spPoisoned s k 0 off (8 * n) then abortBand s k tMACHINE_CHECK
      else
        let s := s.modGl k (fun g => { g with nextLine := g.nextLine + 1 })
        deliverLine s g.ctx line (words64 n (cellsBytes g.sp off (8 * n))))))

/-- The latched pose of the band that a core runs (R177). -/
def bandPose (s : State) (g : Glaze) : Option (List Byte) := ((s.head g.ctx.head).bandOf g.ctx.frame g.ctx.band).bind (·.pose)

def execPoseget (x : MOp) (s : State) : Out :=
  .next (onGlaze s (fun k slot g =>
    match bandPose s g with
    | some p => flyG s k slot 3 (.w x.d.toNat [BitVec.ofNat 4096 (leNat (p.take 64))] [BitVec.allOnes 4096])
    | none => s))

def execSrcgen (x : MOp) (s : State) : Out :=
  .next (onGlaze s (fun k slot g =>
    let d := x.d.toNat % 32
    flyG (flyG s k slot 1 (.a d (BitVec.ofNat 32 g.ctx.gen.toNat))) k slot 1 (.a (d + 1) (BitVec.ofNat 32 (g.ctx.gen.toNat / 2 ^ 32)))))

def execMxl (x : MOp) (s : State) : Out :=
  let fp8 := bit x.d.toNat 2
  let e := if fp8 then 1 else 2
  .next (onGlaze s (fun k slot g => readSp s k false (memEa g x 6) (4096 * e) (fun _ off =>
    flyG s k slot 4 (.latch (x.d.toNat % 4) fp8 ((List.range 4096).map (fun i => BitVec.ofNat 16 (leNat (cellsBytes g.sp (off + e * i) e))))))))

/-- The stream that a descriptor in the scratchpad starts. -/
def streamOf (g : Glaze) (x : MOp) (off : Nat) : Sparse :=
  let d := leNat (cellsBytes g.sp off 16)
  { meta_ := field d 0 20, rle := bit d 20, left := field d 32 32, base := BitVec.ofNat 16 (field d 64 16), rate := 2 ^ (x.d.toNat % 4) }

def execSixcfg (x : MOp) (s : State) : Out :=
  .next (onGlaze s (fun k slot g => readSp s k false (memEa g x 4) 16 (fun _ off => flyG s k slot 1 (.six (streamOf g x off)))))

/-- `SIXCFG` in the bundle of a `GATH` that is frozen: the GQ is cleared and the new stream feeds the `GATH` (R439). -/
def sixNow (s : State) (k : Nat) (x : MOp) : State :=
  readSp (s.modGl k (fun g => { g with sixDone := true })) k false (memEa (s.gl k) x 4) 16 (fun _ off => s.modGl k (fun g => { landRes g (.six (streamOf g x off)) with sixDone := true }))

/-! ## SYNC field (R403, R437) -/

def execSwSyncNop (s : State) : Out := .next s
/-- `FWAIT` subtracts once its test has passed; until then the whole bundle waits (R437). -/
def execFwait (n : BitVec 2) (f : BitVec 4) (s : State) : Out :=
  .next (onGlaze s (fun k slot g =>
    if (tgetD g.f f.toNat 0).toNat < n.toNat + 1 then s else flyG s k slot 1 (.sub f.toNat (n.toNat + 1))))
def execFpost (n : BitVec 2) (f : BitVec 4) (s : State) : Out := .next (onGlaze s (fun k slot _ => flyG s k slot 1 (.flag f.toNat (n.toNat + 1))))
def execFclr (f : BitVec 4) (s : State) : Out := .next (onGlaze s (fun k slot _ => flyG s k slot 1 (.clr f.toNat)))

end Sys2Proof.Machine
end

