-- ==== Sys2Proof/Machine/Display.lean ====
section
/-! DEFINITION. The display heads, their rows and the bisque path: timelines, rounds, bands, poses, deadlines, scan-out, mode setting and kernel loading
(R160 to R193, R409, R432, R435). Times of a head are in 1/256 of a tick of 1/132 GHz: a dc is 55 ticks, LINE_TIME counts 1/256 dc. -/
namespace Sys2Proof.Machine

/-! ## Timelines (R161, R162) -/

/-- A head is on when it has an interface and a line time. -/
def Head.on (h : Head) : Bool := h.timing.iface ≠ 0 && h.timing.lt ≠ 0
/-- A line time in 1/256 tick. -/
def Head.unit (h : Head) : Int := h.timing.lt.toNat * 55
/-- When line `l` of frame `f` begins. -/
def Head.lineAt (h : Head) (f : Nat) (l : Int) : Int := h.frameStart + ((f : Int) - h.frame) * h.timing.vtotal.toNat * h.unit + l * h.unit
/-- Whether a moment of a head's timeline has come. -/
def reached (s : State) (t : Int) : Bool := t ≤ s.time * 256
/-- Whether a moment falls in the present dc or before it. -/
def reachedDc (s : State) (t : Int) : Bool := t < (s.time + 55) * 256
/-- BAND_CFG and SKEW in force for a frame: the latest adopted for it or an earlier one (R191). -/
def Head.cfgFor (h : Head) (f : Nat) : BandCfg := (((h.cfgs.filter (fun e => e.1 ≤ f)).getLast?).map (·.2)).getD {}
def Head.nbands (h : Head) (f : Nat) : Nat := (h.timing.vactive.toNat + (h.cfgFor f).bandLines - 1) / (h.cfgFor f).bandLines
def Head.line0 (h : Head) (f b : Nat) : Nat := b * (h.cfgFor f).bandLines
def Head.nlines (h : Head) (f b : Nat) : Nat := min (h.line0 f (b + 1)) h.timing.vactive.toNat - h.line0 f b
/-- The deadline of a band (R178). -/
def Head.deadlineAt (h : Head) (f b : Nat) : Int := h.lineAt f ((h.line0 f b : Int) - (h.cfgFor f).guard)
/-- When the pose of a band is latched (R177). -/
def Head.latchAt (h : Head) (f b : Nat) : Int := h.lineAt f ((h.line0 f b : Int) - (h.cfgFor f).poseLead)
/-- When the round that begins with a band is due (R163). -/
def Head.dueAt (h : Head) (f b : Nat) : Int := h.lineAt f ((h.line0 f b : Int) - (h.cfgFor f).leadLines)

/-- A band's record made if there is none. -/
def Head.touch (h : Head) (f b : Nat) : Head := if (h.bandOf f b).isSome then h else { h with bands := h.bands ++ [{ frame := f, band := b }] }

/-- A display request of some bytes deducted from the credit of its channel while that credit is positive; the last may drive it negative (R12). -/
def chargeDisplay (s : State) (pa n : Nat) : State :=
  if inDevice pa 1 then { s with mod := { s.mod with chans := tmod s.mod.chans (chanOf pa) {} (fun c => { c with credit := if 0 < c.credit then c.credit - n else c.credit }) } }
  else s

/-- The display requests of a read of a source: one to each page that it meets, which recalls the owners of its lines at their home (R12, R262). -/
def chargeSource (s : State) (asid shift va n : Nat) : State :=
  (List.range (if n = 0 then 0 else (va + n - 1) / 4096 - va / 4096 + 1)).foldl (fun s i =>
    let a := max va ((va / 4096 + i) * 4096)
    let m := min (va + n) ((va / 4096 + i + 1) * 4096) - a
    match sourceTr s asid a shift with
    | .ok pa _ => if inDevice pa 1 then recallLines (chargeDisplay s pa m) 192 pa m else s
    | _ => s) s

/-! ## Sampling (R171 to R173) -/

/-- What a head samples of an entry: the generation and the base of a backing, and SHIFT where it is backing 1; all 0 where there is no source (R171). -/
structure Sampled where
  gen : BitVec 48 := 0
  srcbase : W64 := 0
  shift : Nat := 0
  deriving DecidableEq, Repr, Inhabited

/-- The sample of a backing; 0 where nothing has been published. -/
def backingOf (e : PubEntry) (gen : Nat) (active : Bool) : Sampled :=
  if gen = 0 then {}
  else
    let shift := if active then e.shift else 0
    { gen := BitVec.ofNat 48 gen, srcbase := BitVec.ofNat 64 ((e.vbase + shift) % 2 ^ 57), shift }

/-- What a head samples now, by the newest publish; 0 where R171 says so. -/
def sampleNow (s : State) (src : SrcCfg) : Sampled :=
  let asid := src.asid.toNat
  let n := src.pub.toNat
  if n = 0 ∨ !pubReadable s asid n then {}
  else match pubEntry s asid n with
    | some e => backingOf e e.gen e.active
    | none => {}

/-- The sample of a band: a publish of the last 256 dc may be seen or not (R172), and generations of a head never decrease (R171). (DESIGN CHOICE, log 43.) -/
def sampleSource (s : State) (h : Nat) : Sampled × State :=
  let d := s.head h
  let asid := d.src.asid.toNat
  let n := d.src.pub.toNat
  let now := sampleNow s d.src
  let last := if d.lastGen.1 = asid ∧ d.lastGen.2.1 = n then d.lastGen.2.2 else 0
  let past := s.xlat.pubPast.find? (fun p => p.asid = asid && p.entry = n && s.time < p.at_ + 256 * 55)
  let r : Sampled × State := match past, pubEntry s asid n with
    | some p, some e =>
      if now.gen = 0 ∨ p.gen < last then (now, s)
      else ((if Config.freeChoice s.free then backingOf e p.gen p.active else now), { s with free := s.free + 1 })
    | _, _ => (now, s)
  (r.1, r.2.modHead h (fun d => { d with lastGen := (asid, n, r.1.gen.toNat) }))

/-- SRC_INUSE (R173). (DEDUCED, log 37.) -/
def srcInUse (s : State) (h : Nat) : Nat :=
  let d := s.head h
  let gens := (d.bands.filter (fun b => (b.started || b.deadline) && b.scanned < d.nlines b.frame b.band)).map (·.gen.toNat)
  match gens with
  | g :: t => t.foldl min g
  | [] => (sampleNow s d.src).gen.toNat

/-! ## Rounds (R160, R163, R166 to R169) -/

/-- The cores that DISP_ROW_MAP gives to a head. -/
def mappedCores (s : State) (h : Nat) : List Nat :=
  (List.range 16).filter (fun i => s.dpy.member.getLsbD i && field s.dpy.headSel.toNat (2 * i) 2 == h)

/-- Whether a core has left every row: no row counts it and its last band has ended and drained. -/
def coreFree (s : State) (k : Nat) : Bool := (List.range 4).all (fun h => !(s.head h).row.members.contains k) && (s.gl k).phase = .idle

/-- A core joins a row, or its head's SYNTH_EN is set: all of its state is cleared (R165). -/
def freshCore (h : Nat) : Glaze := { row := some h }

/-- A member as its head's SYNTH_EN is set: cleared at once, or, with a band in flight, as that band has finished (R165, R184). -/
def clearCore (h : Nat) (g : Glaze) : Glaze := if g.phase = .idle then freshCore h else { g with row := some h, clearNext := true }

/-- Of the bundles in a FIFO, those of the band in flight: a band that has not begun will not be run (R160, R184). -/
def bandOnly (g : Glaze) : Glaze :=
  { g with fifo := if g.phase = .running then g.fifo.filter (fun e => e.frame = g.roundFrame && e.round = g.round) else [] }

/-- Membership and SYNTH_EN as written come into force at a round start: a core that leaves, and every core of a head whose SYNTH_EN is cleared, runs no band
but the one in flight (R160, R184). -/
def adoptMap (s : State) (h : Nat) : State :=
  let want := mappedCores s h
  let old := (s.head h).row.members
  let stay := old.filter want.contains
  let on := s.dpy.synthEn.getLsbD h
  let s := (old.filter (fun k => !want.contains k)).foldl (fun s k => s.modGl k (fun g => { bandOnly g with row := none })) s
  let s := if on then s else stay.foldl (fun s k => s.modGl k bandOnly) s
  let s := s.modHead h (fun d => { d with row := { d.row with members := stay } })
  let join := want.filter (fun k => !old.contains k && coreFree s k)
  let rising := on && !(s.head h).synth
  let members := want.filter (fun k => stay.contains k || join.contains k)
  let s := (if rising then members else join).foldl (fun s k => s.modGl k (clearCore h)) s
  s.modHead h (fun d => { d with synth := on, row := { d.row with members, q := if rising || stay.isEmpty then [] else d.row.q } })

/-- How many bands a round of a row holds; a head without a row counts one band to a round. (DEDUCED, log 37.) -/
def roundSize (d : Head) : Nat := if d.synth ∧ d.row.members ≠ [] then d.row.members.length else 1

/-- The row's next round: after the last of a frame, round 0 of the next. -/
def Head.nextRound (d : Head) (first : Nat) : Head :=
  if d.nbands d.row.frame ≤ first then { d with row := { d.row with frame := d.row.frame + 1, first := 0 } }
  else { d with row := { d.row with first } }

/-- A round ended: when, and what comes next. -/
def endRound (s : State) (h : Nat) : State :=
  s.modHead h (fun d => { d with row := { d.row with active := false, syncWait := false, endAt := s.time } }.nextRound (d.row.first + roundSize d))

/-- Whether a new timing takes the place of the present one at the end of the frame: one is pending, and the link trains with it (R192, R193). -/
def Head.modeComes (d : Head) : Bool := d.mode.isSome && d.trains

/-- A round start: what was written takes effect, and a row with members begins to issue its kernel. -/
def execRoundStart (head : Nat) (s : State) : Out :=
  let d := s.head head
  .next (if !displayRuns s ∨ !d.on ∨ d.row.active ∨ d.row.stopped ∨ (d.row.first = 0 ∧ d.modeComes) ∨ !reached s (d.dueAt d.row.frame d.row.first) then s
    else
      let s := adoptMap s head
      let s := s.modHead head (fun d =>
        if d.row.first ≠ 0 then d
        else
          { d with
            cfgs := (d.cfgs.filter (fun e => d.frame ≤ e.1 + 8)).filter (fun e => e.1 ≠ d.row.frame) ++ [(d.row.frame, d.cfg)]
            row := { d.row with kernel := d.kernel.getD d.row.kernel }
            kernel := none })
      let d := s.head head
      let n := roundSize d
      let first := (d.row.first + n - 1) / n * n
      if first ≠ d.row.first then s.modHead head (fun d => d.nextRound first)
      else if !d.synth ∨ d.row.members.isEmpty then endRound s head
      else
        s.modHead head (fun d =>
          let d := { d with
            roundLate := d.roundLate || decide (d.dueAt d.row.frame first < (d.row.endAt : Int) * 256)
            row := { d.row with active := true, first, bundle := 0, syncWait := false, syncNo := 0, startAt := s.time } }
          ((List.range n).filter (fun k => first + k < d.nbands d.row.frame)).foldl (fun d k =>
            (d.touch d.row.frame (first + k)).modBand d.row.frame (first + k) (fun b => { b with core := d.row.members[k]? })) d))

/-- Halfword `i` of an index stream, and whether it holds an uncorrectable error. -/
def streamHalf (s : State) (k : GlazeKernel) (i : Nat) : Nat := physNat s (k.istream + 2 * i) 2

/-- Where bundle `n` begins in the stream, from halfword `i` on; none beyond the end (R408). -/
def bundlePos (s : State) (k : GlazeKernel) : Nat → Nat → Option Nat
  | n, i =>
    if k.nidx ≤ i then none
    else
      let size := if streamHalf s k i = 0xFFFF then 25 else 1
      if k.nidx < i + size then none
      else match n with
        | 0 => some i
        | m + 1 => bundlePos s k m (i + size)

/-- Bundle `n` of a kernel as it is delivered (R408, R409). -/
def kernelBundle (s : State) (k : GlazeKernel) (n : Nat) : FifoEntry :=
  match bundlePos s k n 0 with
  | none => { bundle := some 0 }
  | some i =>
    let h := streamHalf s k i
    if h = 0xFFFF then
      let hs := (List.range 24).map (fun j => BitVec.ofNat 16 (streamHalf s k (i + 1 + j)))
      { bundle := some (bundleOfHalfwords hs), bad := poisoned s (k.istream + 2 * i) 50 }
    else if h ≥ 0x1000 then { bundle := none, bad := poisoned s (k.istream + 2 * i) 2 }
    else { bundle := some (if h < k.ndict then tgetD k.dict h 0 else 0), bad := poisoned s (k.istream + 2 * i) 2 || k.dictBad.contains h }

/-- Bundles that have reached a core's FIFO. -/
def fifoCount (s : State) (h k : Nat) : Nat := ((s.gl k).fifo.filter (fun e => e.due ≤ (s.head h).row.time)).length
def rowFull (s : State) (h : Nat) : Bool := (s.head h).row.members.any (fun k => 2048 ≤ fifoCount s h k)

/-- One bundle issued: the sequencer's own field acts, and every rank of the round has it delivered SKEW later. -/
def issueBundle (s : State) (h : Nat) : State :=
  let d := s.head h
  let e := { kernelBundle s d.row.kernel d.row.bundle with num := d.row.bundle, frame := d.row.frame, round := d.row.first, cores := d.row.members }
  let skew := (d.cfgFor d.row.frame).skew
  let ranks := (List.range d.row.members.length).filter (fun k => d.row.first + k < d.nbands d.row.frame)
  let s := ranks.foldl (fun s k => s.modGl ((d.row.members[k]?).getD 0) (fun g =>
    { g with fifo := g.fifo ++ [{ e with due := d.row.time + tgetD skew k 0 }] })) s
  let seq := (e.bundle.bind (fun b => decodeSeq (b.toNat % 2 ^ 32))).getD .sqnop
  let q (n : BitVec 4) : Nat := (tgetD d.row.q n.toNat 0).toNat
  let f := seqEffect seq q
  let s := s.modHead h (fun d => { d with row := { d.row with
    bundle := f.2.getD (d.row.bundle + 1), q := match f.1 with | some (n, v) => tput d.row.q n v | none => d.row.q } })
  match seq with
  | .swSync => s.modHead h (fun d => { d with row := { d.row with syncWait := true } })
  | .bandend => endRound s h
  | _ => s

/-- One row time passes: the sequencer issues a bundle unless it waits at a `SYNC` or between rounds. -/
def execRowBundleIssue (head : Nat) (s : State) : Out :=
  let d := s.head head
  .next (if d.row.stopped ∨ rowFull s head then s
    else
      let s := s.modHead head (fun d => { d with row := { d.row with time := d.row.time + 1 } })
      if d.row.active ∧ !d.row.syncWait then issueBundle s head else s)

def execRowStop (head : Nat) (s : State) : Out :=
  .next (if !(s.head head).row.stopped ∧ rowFull s head then
      s.modHead head (fun d => { d with overrun := true, row := { d.row with stopped := true } })
    else s)

def execRowResume (head : Nat) (s : State) : Out :=
  .next (if (s.head head).row.stopped ∧ !rowFull s head then s.modHead head (fun d => { d with row := { d.row with stopped := false } }) else s)

/-- Whether a member has reached the `SYNC` that the row waits at, or counts as arrived: idle for the round, or its band ended or aborted (R167). -/
def syncArrived (s : State) (h rank k : Nat) : Bool :=
  let d := s.head h
  let g := s.gl k
  d.nbands d.row.frame ≤ d.row.first + rank
    || (g.begun && g.roundFrame == d.row.frame && g.round == d.row.first && (g.phase ≠ .running || (g.inSync && d.row.syncNo < g.syncs)))

def execSyncRelease (head : Nat) (s : State) : Out :=
  let d := s.head head
  .next (if d.row.syncWait ∧ (List.range d.row.members.length).all (fun r => syncArrived s head r ((d.row.members[r]?).getD 0)) then
      let s := d.row.members.foldl (fun s k => s.modGl k (fun g => { g with inSync := false })) s
      s.modHead head (fun d => { d with row := { d.row with syncWait := false, syncNo := d.row.syncNo + 1 } })
    else s)

/-! ## Bands (R163, R164, R168, R169, R183) -/

/-- Entries at the head of a FIFO that belong to a round the core has left are discarded. -/
def dropStale (g : Glaze) : Glaze :=
  if g.phase = .running ∨ !g.begun then g else { g with fifo := g.fifo.dropWhile (fun e => e.frame = g.roundFrame && e.round = g.round) }

/-- A band start: the first bundle of a round has arrived and the band before it has ended and drained. -/
def execBandStart (core : Nat) (s : State) : Out :=
  let s := s.modGl core dropStale
  let g := s.gl core
  .next (match g.row, g.fifo with
    | some h, e :: _ =>
      let d := s.head h
      match e.cores.findIdx? (· = core) with
      | some rank =>
        if g.phase ≠ .idle ∨ d.row.time < e.due then s
        else
          let b := e.round + rank
          let r := sampleSource s h
          let c : BandCtx :=
            { rank, head := h, band := b, line0 := d.line0 e.frame b, nlines := d.nlines e.frame b, gen := r.1.gen, srcbase := r.1.srcbase,
              shift := r.1.shift, members := e.cores.length, cores := e.cores, frame := e.frame, asid := d.src.asid }
          let s := r.2.modGl core (fun g =>
            let g := if g.clearNext then { freshCore h with fifo := g.fifo, vc := g.vc } else g
            { g with ctx := c, phase := .running, syncs := 0, inSync := false, nextLine := c.line0, seqNext := 0,
                     round := e.round, roundFrame := e.frame, begun := true, served := 0, sixDone := false })
          s.modHead h (fun d => (d.touch e.frame b).modBand e.frame b (fun x =>
            if x.deadline then { x with started := true, core := some core }
            else { x with started := true, core := some core, gen := c.gen, srcbase := c.srcbase, shift := c.shift, src := d.src }))
      | none => s
    | _, _ => s)

/-- Every result in flight has landed: the drain ends. -/
def execBandDrainEnd (core : Nat) (s : State) : Out :=
  .next (if (s.gl core).phase = .draining ∧ (s.gl core).flight.isEmpty then s.modGl core (fun g => { g with phase := .idle }) else s)

/-- A member whose band of a round has not ended has it aborted, and its bundles of the round go; one that has not started it never will (R169). -/
def dropRound (s : State) (h k : Nat) : State :=
  let d := s.head h
  let g := s.gl k
  let s := if g.begun ∧ g.roundFrame = d.row.frame ∧ g.round = d.row.first then abortBand s k tWATCHDOG
    else
      let s := s.modHead h (fun d => { d with abort := true, abortedBands := d.abortedBands + 1 })
      postHeadev s (Config.freeKind s.free).toNat k [tWATCHDOG]
  s.modGl k (fun g => { g with fifo := g.fifo.filter (fun e => !(e.frame = d.row.frame && e.round = d.row.first)) })

/-- The round in force given up. -/
def abandonRound (s : State) (h : Nat) : State :=
  let d := s.head h
  if !d.row.active then s
  else
    let ranks := (List.range d.row.members.length).filter (fun k => d.row.first + k < d.nbands d.row.frame)
    endRound (ranks.foldl (fun s r => dropRound s h ((d.row.members[r]?).getD 0)) s) h

/-- The deadline of the last band of a round that any rank runs: in the dc in which it falls the sequencer issues nothing more of the round (R169). A round
that starts after that deadline is run (R178). (DEDUCED, log 37.) -/
def execRoundTimeout (head : Nat) (s : State) : Out :=
  let d := s.head head
  let at_ := d.deadlineAt d.row.frame (min (d.row.first + d.row.members.length) (d.nbands d.row.frame) - 1)
  .next (if d.row.active ∧ (d.row.startAt : Int) * 256 ≤ at_ ∧ reachedDc s at_ then abandonRound s head else s)

/-! ## Poses (R175 to R177) -/

/-- A write of a mailbox's sequence word. -/
def execPoseSnapshot (head : Nat) (seq : W64) (s : State) : Out := .next (if head < 4 then snapshotPose s head (leBytes 8 seq.toNat) else s)

/-- Frames of a head's timeline that can have a moment now: the present one and those after it whose lead has come. -/
def framesAhead (d : Head) : List Nat := (List.range (1023 / max 1 d.timing.vtotal.toNat + 2)).map (· + d.frame)

/-- Whether a band of a frame has not scanned out yet. -/
def Head.awaits (d : Head) (f b : Nat) : Bool := b < d.nbands f && (d.frame < f || (d.frame == f && d.line < d.line0 f (b + 1))) && (f = d.frame || !d.modeComes)

/-! ## The homography (R181) -/

/-- Finite FP32 words as exact numbers. -/
def finite32 (w : Nat) : Option Q := match valueOf 10 w with | .fin q => some q | .zero _ => some ⟨0, 1⟩ | _ => none

def allFinite (ws : List Nat) : Option (List Q) :=
  let r := ws.map finite32
  if r.all (·.isSome) then some (r.filterMap id) else none

/-- Entry (i, j) of a matrix of three rows given row by row. -/
def m3 (m : List Q) (i j : Nat) : Q := (m[3 * i + j]?).getD ⟨0, 1⟩
def mat3 (f : Nat → Nat → Q) : List Q := (List.range 9).map (fun n => f (n / 3) (n % 3))
def matMul (a b : List Q) : List Q := mat3 (fun i j => qAdd (qAdd (qMul (m3 a i 0) (m3 b 0 j)) (qMul (m3 a i 1) (m3 b 1 j))) (qMul (m3 a i 2) (m3 b 2 j)))
def matT (a : List Q) : List Q := mat3 (fun i j => m3 a j i)
def matVec (a v : List Q) : List Q :=
  (List.range 3).map (fun i => qAdd (qAdd (qMul (m3 a i 0) ((v[0]?).getD ⟨0, 1⟩)) (qMul (m3 a i 1) ((v[1]?).getD ⟨0, 1⟩))) (qMul (m3 a i 2) ((v[2]?).getD ⟨0, 1⟩)))

/-- The floats of a pose record: nine of the rotation, three of the position. -/
def poseFloats (bs : List Byte) : List Nat := (List.range 12).map (fun i => leNat ((bs.drop (4 * i)).take 4))

/-- M from the two poses and the intrinsics: none where a pixel takes BORDER_COLOUR. -/
def homography (src dst : List Byte) (c : SrcCfg) : Option (List W32) :=
  match allFinite (poseFloats src), allFinite (poseFloats dst), allFinite [c.focalX.toNat, c.focalY.toNat, c.centreX.toNat, c.centreY.toNat, c.depth.toNat] with
  | some p0, some p1, some [fx, fy, cx, cy, dep] =>
    if fx.num = 0 ∨ fy.num = 0 then none
    else
      let z : Q := ⟨0, 1⟩
      let one : Q := ⟨1, 1⟩
      let k : List Q := [fx, z, cx, z, fy, cy, z, z, one]
      let ki : List Q := [qDiv one fx, z, qNeg (qDiv cx fx), z, qDiv one fy, qNeg (qDiv cy fy), z, z, one]
      let r0t := matT (p0.take 9)
      let a := (matMul (matMul r0t (p1.take 9)) ki).map (qMul dep)
      let dt := (List.range 3).map (fun i => qSub ((p1[9 + i]?).getD z) ((p0[9 + i]?).getD z))
      let v := matVec r0t dt
      let n := matMul k (mat3 (fun i j => if j = 2 then qAdd (m3 a i j) ((v[i]?).getD z) else m3 a i j))
      let m := n.map (fun q => (narrow 10 (xOfQ q) 0 false 0).1)
      if m.all (fun w => (finite32 w).isSome) then some (m.map (BitVec.ofNat 32)) else none
  | _, _, _ => none

/-- The homography of a band at its deadline, once its pose is latched; a source pose that cannot be read is reported to KC3. (DEDUCED, log 38.) -/
def formHomography (s : State) (h f b : Nat) : State :=
  match (s.head h).bandOf f b with
  | some x =>
    match x.pose with
    | some p =>
      if !x.deadline ∨ x.gen = 0 ∨ x.src.w = 0 ∨ x.src.h = 0 then s
      else
        let s := chargeSource s x.src.asid.toNat x.shift x.srcbase.toNat 64
        match sourceBytes s x.src.asid.toNat x.shift x.srcbase.toNat 64 with
        | .ok bs => s.modHead h (fun d => d.modBand f b (fun x => { x with homography := homography bs p x.src }))
        | .error _ => postHeadev s (Config.freeKind s.free).toNat h []
    | none => s
  | none => s

/-- The pose of a band latched in the dc of its moment, from the buffer as it stood at the start of that dc, in the first frame that has not had it (R177). -/
def execPoseLatch (head band : Nat) (s : State) : Out :=
  let d := s.head head
  .next (if !d.on then s
    else match (framesAhead d).find? (fun f => d.awaits f band && ((d.bandOf f band).bind (·.pose)).isNone) with
      | some f =>
        if !reachedDc s (d.latchAt f band) then s
        else
          let s := s.modHead head (fun d => (d.touch f band).modBand f band (fun x => { x with pose := some (poseAtStart s d) }))
          formHomography s head f band
      | none => s)

/-- The deadline of a band, in the dc in which it falls: what comes later is late, and the bisque path prepares; it samples the source of a band that has not started, while a started
one keeps its backing (R171, R179). -/
def execBandDeadline (head band : Nat) (s : State) : Out :=
  let d := s.head head
  .next (if !d.on then s
    else match (framesAhead d).find? (fun f => d.awaits f band && !(match d.bandOf f band with | some x => x.deadline | none => false)) with
      | some f =>
        if !reachedDc s (d.deadlineAt f band) then s
        else
          let s := s.modHead head (fun d => d.touch f band)
          let started := ((d.bandOf f band).map (·.started)).getD false
          let s := if started then s
            else
              let r := sampleSource s head
              r.2.modHead head (fun d => d.modBand f band (fun x => { x with gen := r.1.gen, srcbase := r.1.srcbase, shift := r.1.shift, src := d.src }))
          formHomography (s.modHead head (fun d => d.modBand f band (fun x => { x with deadline := true }))) head f band
      | none => s)

/-! ## Lines (R179, R180, R182) -/

/-- Channels of a `C4F16` word. -/
def chans16 (w : W64) : List Nat := (List.range 4).map (fun i => field w.toNat (16 * i) 16)
def word16 (cs : List Nat) : W64 := BitVec.ofNat 64 (leNat (cs.flatMap (leBytes 2)))

/-- A texel, and 1 where its read failed. -/
def texel (s : State) (x : Band) (i j : Int) : W64 × Nat :=
  if i < 0 ∨ j < 0 ∨ (x.src.w.toNat : Int) ≤ i ∨ (x.src.h.toNat : Int) ≤ j then (x.src.border, 0)
  else match sourceBytes s x.src.asid.toNat x.shift (x.srcbase.toNat + 0x1000 + 8 * (j.toNat * x.src.w.toNat + i.toNat)) 8 with
    | .ok bs => (BitVec.ofNat 64 (leNat bs), 0)
    | .error _ => (x.src.border, 1)

/-- A sum of three products rounded once to FP32. -/
def homRow (m : List W32) (i : Nat) (px py : Q) : XR :=
  let e (j : Nat) : Q := (finite32 ((m[3 * i + j]?).getD 0).toNat).getD ⟨0, 1⟩
  valueOf 10 (narrow 10 (xOfQ (qAdd (qAdd (qMul (e 0) px) (qMul (e 1) py)) (e 2))) 0 false 0).1

/-- A coordinate: hx / hw rounded to FP32, less one half; none where it is not finite. -/
def homCoord (n d : XR) : Option Q :=
  match valueOf 10 (narrow 10 (xDiv n d).1 0 false 0).1 with
  | .fin q => some (qSub q ⟨1, 2⟩)
  | .zero _ => some ⟨-1, 2⟩
  | _ => none

/-- Whole part and weight in 256ths. -/
def splitCoord (u : Q) : Int × Nat :=
  let i := qFloor u
  let q := (qRne (qMul (qSub u (qInt i)) (qInt 256))).toNat
  if q = 256 then (i + 1, 0) else (i, q)

/-- The terms of a pixel of the bisque path: texel and weight, those of weight 0 omitted; none where the pixel takes BORDER_COLOUR (R182). -/
def pixelTerms (x : Band) (px py : Nat) : Option (List (Int × Int × Nat)) :=
  match x.homography with
  | none => none
  | some m =>
    let cx : Q := ⟨2 * px + 1, 2⟩
    let cy : Q := ⟨2 * py + 1, 2⟩
    let hw := homRow m 2 cx cy
    let positive := match hw with | .fin q => decide (0 < q.num) | .inf n => !n | _ => false
    if !positive then none
    else match homCoord (homRow m 0 cx cy) hw, homCoord (homRow m 1 cx cy) hw with
      | some u, some v =>
        let (i, qa) := splitCoord u
        let (j, qb) := splitCoord v
        some ([(i, j, (256 - qa) * (256 - qb)), (i + 1, j, qa * (256 - qb)), (i, j + 1, (256 - qa) * qb), (i + 1, j + 1, qa * qb)].filter (fun t => t.2.2 ≠ 0))
      | _, _ => none

/-- One pixel of the bisque path, and how many of its reads failed (R182). -/
def bisquePixel (s : State) (x : Band) (px py : Nat) : W64 × Nat :=
  match pixelTerms x px py with
  | some taps =>
    let terms := taps.map (fun t => (t.2.2, texel s x t.1 t.2.1))
    let chan (n : Nat) : Nat :=
      let sum := terms.foldl (fun a t => (xAdd a (xMul (.fin ⟨t.1, 65536⟩) (valueOf 9 (field t.2.1.toNat (16 * n) 16))).1).1) (.zero false)
      (narrow 9 sum 0 false 0).1
    (word16 [chan 0, chan 1, chan 2, chan 3], (terms.map (·.2.2)).foldl (· + ·) 0)
  | none => (x.src.border, 0)

/-- The display requests of a line of the bisque path: each texel of the source that it reads, once, of 8 bytes (R12). (DESIGN CHOICE, log 37.) -/
def chargeLine (s : State) (x : Band) (line n : Nat) : State :=
  let taps := (List.range n).flatMap (fun i => ((pixelTerms x i line).getD []).map (fun t => (t.1, t.2.1)))
  let inside := taps.filter (fun t => decide (0 ≤ t.1 ∧ 0 ≤ t.2 ∧ t.1 < (x.src.w.toNat : Int) ∧ t.2 < (x.src.h.toNat : Int)))
  inside.eraseDups.foldl (fun s t => chargeSource s x.src.asid.toNat x.shift (x.srcbase.toNat + 0x1000 + 8 * (t.2.toNat * x.src.w.toNat + t.1.toNat)) 8) s

/-- A line of the bisque path. -/
def bisqueLine (s : State) (x : Band) (line n : Nat) : List W64 × Nat :=
  let px := (List.range n).map (fun i => bisquePixel s x i line)
  (px.map (·.1), (px.map (·.2)).foldl (· + ·) 0)

/-- A colour of an interface head: clamped, scaled to OUT_BITS and rounded to nearest even; a NaN is 0. -/
def linkColour (bits c : Nat) : Nat :=
  let top := 2 ^ bits - 1
  match valueOf 9 c with
  | .fin q => if q.num < 0 then 0 else if qLe ⟨1, 1⟩ q then top else (qRne (qMul q (qInt top))).toNat
  | .inf false => top
  | _ => 0

def linkPixel (bits : Nat) (w : W64) : Nat × Nat × Nat :=
  (linkColour bits (field w.toNat 0 16), linkColour bits (field w.toNat 16 16), linkColour bits (field w.toNat 32 16))

/-- Words written to device memory one after the other. -/
def mhWords (s : State) (a : Nat) : List W64 → State
  | [] => s
  | w :: ws => mhWords (if inDevice a 8 then chargeDisplay (deviceWrite s 192 a (leBytes 8 w.toNat)) a 8 else s) (a + 8) ws

/-- A write to device memory by a memory head: the sectors that it replaces whole are sound (R27). -/
def mhWrite (s : State) (a : Nat) (ws : List W64) : State := clearWhole (mhWords s a ws) a (8 * ws.length)

def up4096 (n : Nat) : Nat := (n + 4095) / 4096 * 4096

/-- Where a memory head writes the present frame (R180). -/
def mhSlot (d : Head) : Nat :=
  d.mhBase.toNat * 4096 + d.frame % 2 ^ d.mhSlots.toNat * (0x1000 + up4096 (8 * d.timing.hactive.toNat * d.timing.vactive.toNat))

/-- Steps 1 and 2 of R180 for one line, as it scans out. -/
def memoryLine (s : State) (d : Head) (px : List W64) : State :=
  let a := mhSlot d
  mhWrite (if d.line = 0 then mhWrite s a [0] else s) (a + 0x1000 + 8 * d.timing.hactive.toNat * d.line) px

/-- Step 3 of R180, once the last line has scanned out. -/
def memoryEnd (s : State) (d : Head) : State :=
  if d.timing.iface = 3 ∧ d.line + 1 = d.timing.vactive.toNat then mhWrite s (mhSlot d) [BitVec.ofNat 64 (d.frame + 1)] else s

/-- HEADEV events of failed reads. -/
def reportReads (s : State) (h : Nat) : Nat → State
  | 0 => s
  | n + 1 => reportReads (postHeadev s (Config.freeKind s.free).toNat h []) h n

/-- Whether a band that has not started may still start: its round has not ended, or bundles of its round stand in its core's FIFO. -/
def Head.mayStart (d : Head) (gl : Nat → Glaze) (x : Band) : Bool :=
  d.row.frame < x.frame || (d.row.frame == x.frame && d.row.first ≤ x.band)
    || (match x.core with
      | some k => (gl k).fifo.any (fun e => e.frame == x.frame && e.round ≤ x.band && x.band < e.round + e.cores.length)
      | none => false)

/-- The record of a band that has scanned out goes, once no core runs it or may start it (R173, R178). -/
def Head.prune (d : Head) (gl : Nat → Glaze) : Head :=
  { d with bands := d.bands.filter (fun x =>
      x.scanned < d.nlines x.frame x.band || (if x.started then
        (match x.core with
          | some k => (gl k).phase = .running && (gl k).ctx.frame == x.frame && (gl k).ctx.band == x.band
          | none => false)
        else d.mayStart gl x)) }

/-- The next line begins to scan out, from the FIFO or from the bisque path (R162, R179, R180). -/
def beginLine (s : State) (head : Nat) (x : Band) : State :=
  let d := s.head head
  let n := d.timing.hactive.toNat
  let px : List W64 × State := match d.fifo.find? (fun e => e.1 = d.frame && e.2.2.1 = d.line) with
    | some e => (e.2.2.2, s)
    | none =>
      let r := bisqueLine s x d.line n
      let s := s.modHead head (fun d => { d with bisque := d.bisque + 1 })
      (r.1, reportReads (chargeLine s x d.line n) head r.2)
  let s := if d.timing.iface = 3 then memoryLine px.2 d px.1 else px.2
  s.modHead head (fun d => { d with
    fifo := d.fifo.filter (fun e => !(e.1 = d.frame && e.2.2.1 = d.line)), scanning := true, blank := false
    shown := if d.timing.iface = 3 then d.shown else some (d.frame, d.line, px.1.map (linkPixel d.timing.outBits.toNat)) })

/-- A line has scanned out: its band has one less in flight, and after the last line a memory head releases the frame (R173, R180). -/
def endLine (s : State) (head : Nat) : State :=
  let d := s.head head
  (memoryEnd s d).modHead head (fun e =>
    { (e.modBand d.frame (d.line / (d.cfgFor d.frame).bandLines) (fun x => { x with scanned := x.scanned + 1 })) with line := d.line + 1, scanning := false }.prune s.gl)

/-- A line that is scanning out ends when the next line's time has come; else the next line begins at its own, once the deadline of its band has passed. -/
def execLineScanout (head : Nat) (s : State) : Out :=
  let d := s.head head
  .next (if !displayRuns s ∨ !d.on then s
    else if d.scanning then (if reached s (d.lineAt d.frame (d.line + 1)) then endLine s head else s)
    else if d.timing.vactive.toNat ≤ d.line ∨ !reached s (d.lineAt d.frame d.line) then s
    else match d.bandOf d.frame (d.line / (d.cfgFor d.frame).bandLines) with
      | some x => if x.deadline then beginLine s head x else s
      | none => s)

/-! ## Mode setting and kernel loading (R192, R193) -/

/-- The words of a 64-byte record in host or device memory; none where it cannot be read. -/
def readReq (s : State) (a : Nat) : Option (List Nat) :=
  if !(inDevice a 64 || inHost a 64) ∨ poisoned s a 64 then none
  else some ((List.range 8).map (fun i => physNat s (a + 8 * i) 8))

/-- Raw rate of a link in kbit/s; none for a memory head. (DEDUCED, log 39.) -/
def linkRate (iface rate lanes tmds : Nat) : Option Nat :=
  match iface with
  | 1 => some ((match rate with | 0 => 10000000 | 1 => 13500000 | _ => 20000000) * lanes)
  | 2 => if rate = 0 then some (tmds * 30) else some ((match rate with | 1 => 3000000 | 2 => 6000000 | 3 => 8000000 | 4 => 10000000 | _ => 12000000) * lanes)
  | _ => none

/-- The checks of a MODE_SET record: the timing, or a refusal code. -/
def checkMode (w : List Nat) : Except Nat Timing :=
  let v (i : Nat) : Nat := (w[i]?).getD 0
  let t : Timing :=
    { hactive := BitVec.ofNat 13 (v 0), vactive := BitVec.ofNat 13 (field (v 0) 13 13), vtotal := BitVec.ofNat 14 (field (v 0) 26 14),
      iface := BitVec.ofNat 2 (field (v 0) 40 2), outBits := BitVec.ofNat 4 (field (v 0) 42 4), lt := BitVec.ofNat 32 (v 1),
      link := BitVec.ofNat 64 (field (v 2) 0 18 + field (v 3) 0 32 * 2 ^ 32) }
  let htotal := field (v 1) 32 13
  let rate := field (v 2) 0 3
  let lanes := field (v 2) 3 3
  let dsc := bit (v 2) 6
  let vrr := bit (v 2) 7
  let bpp := field (v 2) 8 10
  let tmds := field (v 3) 0 32
  let iface := t.iface.toNat
  let ob := t.outBits.toNat
  let lt := t.lt.toNat
  let linkBad : Bool := match iface with
    | 1 => 2 < rate || !(lanes == 1 || lanes == 2 || lanes == 4) || tmds ≠ 0
    | 2 => 5 < rate || (if rate = 0 then lanes ≠ 0 else (!(lanes == 3 || lanes == 4) || tmds ≠ 0))
    | _ => rate ≠ 0 || lanes ≠ 0 || tmds ≠ 0
  let pix := htotal * 2400 * 256
  if field (v 0) 46 18 ≠ 0 ∨ field (v 1) 45 19 ≠ 0 ∨ field (v 2) 18 46 ≠ 0 ∨ field (v 3) 32 32 ≠ 0 ∨ v 4 ≠ 0 ∨ v 5 ≠ 0 ∨ v 6 ≠ 0 ∨ v 7 ≠ 0
      ∨ t.hactive = 0 ∨ 7680 < t.hactive.toNat ∨ t.vactive = 0 ∨ 4320 < t.vactive.toNat ∨ t.vtotal.toNat < t.vactive.toNat ∨ iface = 0
      ∨ !(ob == 8 || ob == 10 || ob == 12) ∨ lt = 0 ∨ htotal < t.hactive.toNat ∨ linkBad ∨ (!dsc ∧ bpp ≠ 0) then .error 1
  else if 4500 * lt < pix then .error 2
  else
    let bits16 := if dsc then bpp else 48 * ob
    let data := pix * bits16 * 1000 / (16 * lt)
    if (iface = 2 ∧ rate = 0 ∧ 600000 < tmds) ∨ (iface = 3 ∧ (dsc ∨ vrr)) then .error 3
    else match linkRate iface rate lanes tmds with
      | some r => if r < data ∨ !Config.linkFits iface t.link data then .error 3 else .ok t
      | none => .ok t

/-- The entries of a dictionary in device memory. -/
def readDict (s : State) (a n : Nat) : Tab (BitVec 384) := (List.range n).map (fun i => (i, BitVec.ofNat 384 (physNat s (a + 48 * i) 48)))

/-- The checks of a KERNEL_LOAD record and of its dictionary: the kernel, or a refusal code and the entry it names (R192, R405, R409). -/
def checkKernel (s : State) (w : List Nat) : Except (Nat × Nat) GlazeKernel :=
  let v (i : Nat) : Nat := (w[i]?).getD 0
  let dict := field (v 0) 0 52
  let n := field (v 1) 0 13
  let ist := field (v 2) 0 52
  let nidx := field (v 3) 0 32
  if field (v 0) 52 12 ≠ 0 ∨ field (v 1) 13 51 ≠ 0 ∨ field (v 2) 52 12 ≠ 0 ∨ field (v 3) 32 32 ≠ 0 ∨ v 4 ≠ 0 ∨ v 5 ≠ 0 ∨ v 6 ≠ 0 ∨ v 7 ≠ 0
      ∨ n = 0 ∨ 4096 < n ∨ nidx = 0 ∨ dict % 64 ≠ 0 ∨ ist % 8 ≠ 0 ∨ !inDevice ist (2 * nidx) ∨ inHost dict 1 then .error (1, 0)
  else if !inDevice dict (48 * n) ∨ poisoned s dict (48 * n) then .error (7, 0)
  else
    let d := readDict s dict n
    match d.find? (fun e => (decodeBundle e.2).isNone) with
    | some e => .error (5, e.1)
    | none => .ok { dict := d, ndict := n, istream := ist, nidx }

def setResult (s : State) (h code : Nat) : State := s.modHead h (fun d => { d with result := some code })

/-- Whether a head's link comes up with a new timing: it trains again only if its settings have changed (R192, R193). -/
def linkComes (h : Nat) (d : Head) (t : Timing) : Bool :=
  (t.iface == d.timing.iface && t.link == d.timing.link) || t.iface == 3 || Config.linkTrains h t.link

/-- The first command of a head begun: what it reads is checked; a new timing and OFF act at the end of the frame. -/
def beginCmd (s : State) (h : Nat) : State :=
  match (s.head h).cmds with
  | c :: _ =>
    match c.cmd with
    | 1 => match readReq s c.recd with
      | none => setResult s h 7
      | some w => match checkMode w with
        | .error e => setResult s h e
        | .ok t => s.modHead h (fun d => { d with mode := some t, trains := linkComes h d t })
    | 2 => match readReq s c.recd with
      | none => setResult s h 7
      | some w => match checkKernel s w with
        | .error e => setResult (s.modHead h (fun d => { d with badEntry := BitVec.ofNat 12 e.2 })) h e.1
        | .ok k => setResult (s.modHead h (fun d => { d with kernel := some k })) h 0
    | 3 => s.modHead h (fun d => { d with offPending := true })
    | _ => setResult s h c.code
  | [] => s

/-- A write of HEAD_CMD with a command number: one that answers no pending request is refused to KC3. -/
def headCmd (val : W64) (cmd : Nat) (s : State) : State :=
  let v := val.toNat
  let h := field v 3 2
  let req := bit v 5
  if field v 0 3 ≠ cmd then s
  else if req ∧ (s.head h).hreqState ≠ 1 then setBadIo s 3
  else
    let c : HeadCmd := { cmd, hostReq := req, recd := field v 6 46 * 64, code := field v 52 4 }
    let idle := (s.head h).cmds.isEmpty
    let s := s.modHead h (fun d => { d with cmds := d.cmds ++ [c] })
    if idle then beginCmd s h else s

def execHeadCmdSetTiming (val : W64) (s : State) : Out := .next (headCmd val 1 s)
def execHeadCmdLoadKernel (val : W64) (s : State) : Out := .next (headCmd val 2 s)
def execHeadCmdOff (val : W64) (s : State) : Out := .next (headCmd val 3 s)
def execHeadCmdRefuse (val : W64) (s : State) : Out := .next (headCmd val 4 s)

/-- A command whose result stands completes: the event of kind 0x11, and HREQ_STAT for a host request; the next command begins. -/
def execHeadCmdComplete (head : Nat) (s : State) : Out :=
  let d := s.head head
  .next (match d.cmds, d.result with
    | c :: rest, some r =>
      let named := if r = 5 then [c.cmd, r, d.badEntry.toNat % 256, d.badEntry.toNat / 256] else [c.cmd, r]
      let s := postHeadev s 0x11 head named
      let s := s.modHead head (fun d =>
        let d := { d with cmds := rest, result := none }
        if c.hostReq then
          { d with hreqState := if r = 0 then 2 else 3, hreqCode := BitVec.ofNat 4 r, hreqEntry := if r = 5 then d.badEntry else 0 }
        else d)
      beginCmd s head
    | _, _ => s)

/-- The host posts a request (R192). -/
def postRequest (s : State) (h op : Nat) : State :=
  if (s.head h).hreqState = 1 then s.modHead h (fun d => { d with hreqBusy := true })
  else postHeadev (s.modHead h (fun d => { d with hreqState := 1, hreqOp := op })) 0x10 h [op]

def execHreqModeSet (head : Nat) (s : State) : Out := .next (postRequest s head 1)
def execHreqKernelLoad (head : Nat) (s : State) : Out := .next (postRequest s head 2)
def execHreqHeadOff (head : Nat) (s : State) : Out := .next (postRequest s head 3)

/-- What is left of the frames that a head no longer shows goes: the round in force is given up, bands that have not begun are not run, and one in flight
keeps its pose, or takes the present one, while none of its lines is shown. -/
def clearFrames (s : State) (h : Nat) : State :=
  let s := abandonRound s h
  let d := s.head h
  let s := d.row.members.foldl (fun s k => s.modGl k bandOnly) s
  let pose := poseAtStart s d
  s.modHead h (fun d => { d with
    bands := (d.bands.filter (fun x => x.started && (match x.core with
      | some k => (s.gl k).phase = .running && (s.gl k).ctx.frame == x.frame && (s.gl k).ctx.band == x.band
      | none => false))).map (fun x => { x with pose := some (x.pose.getD pose), deadline := true, scanned := 64 })
    fifo := [], shown := none, blank := true, scanning := false })

/-- A new timing at the end of a frame, where the link comes up with it; the first frame starts as far ahead as its first round and pose need, under the
BAND_CFG and SKEW written by then; a head's frames count from 0. One whose link does not train changes nothing on the head (R192). (DEDUCED, log 39.) -/
def applyMode (s : State) (h : Nat) (t : Timing) : State :=
  let d := s.head h
  if !d.trains then setResult (s.modHead h (fun d => { d with mode := none })) h 4
  else
    let s := clearFrames s h
    let f := if d.timing.lt = 0 then 0 else max d.frame d.row.frame + 1
    let lead := max d.cfg.leadLines d.cfg.poseLead
    setResult (s.modHead h (fun d => { d with
      mode := none, timing := t, frame := f, line := 0, frameStart := s.time * 256 + lead * t.lt.toNat * 55,
      cfgs := d.cfgs.filter (fun e => e.1 < f) ++ [(f, d.cfg)],
      row := { d.row with frame := f, first := 0 } })) h 0

/-- The end of a frame; where a head is off, a new timing applies at once. -/
def execHeadFrameEnd (head : Nat) (s : State) : Out :=
  let d := s.head head
  .next (if !d.on then
      (match d.mode with
        | some t => applyMode s head t
        | none => if d.offPending then setResult (s.modHead head (fun d => { d with offPending := false })) head 0 else s)
    else if d.line < d.timing.vactive.toNat ∨ !reached s (d.lineAt (d.frame + 1) 0) then s
    else
      let s := s.modHead head (fun d => { d with frameStart := (d.lineAt (d.frame + 1) 0).toNat, frame := d.frame + 1, line := 0 })
      match d.mode with
      | some t => applyMode s head t
      | none =>
        if d.offPending then
          setResult ((clearFrames s head).modHead head (fun d => { d with offPending := false, timing := { d.timing with iface := 0 } })) head 0
        else s)

/-! ## Register writes (R190, R191) -/

/-- A write of DISP_ROW_MAP: one that changes the row of a head whose SYNTH_EN stays 1 is ignored (R160). -/
def execDispRowMapWrite (val : W64) (s : State) : Out :=
  let v := val.toNat
  let sel : W32 := BitVec.ofNat 32 v
  let mem : W16 := BitVec.ofNat 16 (field v 32 16)
  let syn : BitVec 4 := BitVec.ofNat 4 (field v 48 4)
  let t := { s with dpy := { s.dpy with headSel := sel, member := mem, synthEn := syn } }
  let bad := (List.range 4).any (fun h => s.dpy.synthEn.getLsbD h && syn.getLsbD h && mappedCores s h ≠ mappedCores t h)
  let keep := s.dpy.mapBad && !bit v 52
  .next (if bad then { s with dpy := { s.dpy with mapBad := true } } else { t with dpy := { t.dpy with mapBad := keep } })

def execDispCacheCtlWrite (val : W32) (s : State) : Out :=
  let w := val.toNat % 16
  let bad := s.dpy.waysBad && !val.getLsbD 4
  .next { s with dpy := { s.dpy with waysBad := bad || 8 < w, ways := if 8 < w then s.dpy.ways else BitVec.ofNat 4 w } }

/-- A write of BAND_CFG: one field out of range makes it ignored whole. -/
def execBandCfgWrite (head : Nat) (val : W32) (s : State) : Out :=
  let v := val.toNat
  let bl := field v 0 7
  let pl := field v 11 10
  let ll := field v 21 10
  .next (s.modHead head (fun d =>
    let d := { d with cfgBad := d.cfgBad && !bit v 31 }
    if bl = 0 ∨ 64 < bl ∨ pl < 8 ∨ ll = 0 then { d with cfgBad := true }
    else { d with cfg := { d.cfg with bandLines := bl, guard := field v 7 4, poseLead := pl, leadLines := ll } }))

def execMemheadWrite (head : Nat) (val : W64) (s : State) : Out :=
  let v := val.toNat
  .next (s.modHead head (fun d => { d with mhBase := BitVec.ofNat 40 (field v 12 40), mhSlots := BitVec.ofNat 4 (min 4 (field v 52 4)) }))

/-! ## Fetches and offsets (R432, R435, R186, R188) -/

/-- The bytes of piece `i` of a `FETCH`. -/
def Fetch.pieceLen (f : Fetch) (i : Nat) : Nat := min 32 (f.len - 32 * i)

/-- A piece of a `FETCH` whose bytes have been read lands in the scratchpad where its bank can serve it in this dc; which piece comes next and when is free. A
source that fails ends the `FETCH` and aborts its band (R186, R432). (DESIGN CHOICE, log 70.) -/
def landPiece (s : State) (k : Nat) (f : Fetch) : State :=
  let g := s.gl k
  match f.left[Config.fetchPiece s.free % f.left.length]? with
  | none => s
  | some i =>
    let n := f.pieceLen i
    let at_ := f.dst + 32 * i
    if s.time < f.due ∨ bankLocked g at_ n ∨ bankUsed s g at_ n then s
    else
      let bs : Except Nat (List Byte) := if f.zeros then .ok (List.replicate n 0) else sourceBytes s f.asid.toNat f.shift (f.src + 32 * i) n
      match bs with
      | .ok bs =>
        let s := if f.zeros then s else chargeSource s f.asid.toNat f.shift (f.src + 32 * i) n
        let f' := { f with left := f.left.erase i, due := s.time + 55 * (1 + Config.fetchDelay s.free) }
        let s := (useBanks s k at_ n).modGl k (fun g => { g with fetches := g.fetches.replace f f', sp := cellsWrite g.sp at_ bs, spBad := spSound g.spBad at_ (bs.map some) })
        { s with free := s.free + 1 }
      | .error e =>
        let s := s.modGl k (fun g => { g with fetches := g.fetches.erase f })
        if g.roundFrame = f.frame ∧ g.round = f.round then abortBand s k e else s

/-- A dc of a core's `FETCH`es: of each a piece lands, where it may (R432). -/
def fetchTurn (k : Nat) (s : State) : State := ((s.gl k).fetches).foldl (fun s f => landPiece s k f) s

/-- The oldest `FETCH` of a slot completes once its last piece has landed: f14 or f15 gains 1. -/
def execFetchComplete (core : Nat) (m1 : Bool) (s : State) : Out :=
  .next (match (s.gl core).fetches.find? (fun f => f.m1 = m1) with
    | some f =>
      if f.left.isEmpty then s.modGl core (fun g => { g with fetches := g.fetches.erase f, f := flagUp g.f (if m1 then 15 else 14) 1 })
      else s
    | none => s)

/-- The stream ended by a metadata address beyond the scratchpad. -/
def sparseOut (s : State) (k : Nat) : State := abortBand (s.modGl k (fun g => { g with sparse := { g.sparse with left := 0 } })) k tACCESS_VIOLATION

/-- The next set bit of a bitmap at or after a position; none beyond the scratchpad. -/
def nextBit (sp : Cells) (meta_ : Nat) : Nat → Nat → Option Nat
  | 0, _ => none
  | fuel + 1, i =>
    if 2 ^ 20 ≤ meta_ + i / 8 then none
    else if bit (cellGet sp (meta_ + i / 8)).toNat (i % 8) then some i
    else nextBit sp meta_ fuel (i + 1)

/-- The next pair of a run-length stream with a run: the stream moved to it; none beyond the scratchpad. -/
def nextRun (sp : Cells) : Nat → Sparse → Option Sparse
  | 0, _ => none
  | fuel + 1, x =>
    if 0 < x.run then some x
    else
      let a := x.meta_ + x.at_
      if 2 ^ 20 < a + 4 then none
      else
        let w := leNat (cellsBytes sp a 4)
        nextRun sp fuel { x with at_ := x.at_ + 4, pos := x.pos + w % 65536, run := w / 65536 }

/-- One offset of a stream: the offset and the stream after it. -/
def nextOffset (sp : Cells) (x : Sparse) : Option (W16 × Sparse) :=
  if x.rle then
    (nextRun sp (2 ^ 18 + 1) x).map (fun y =>
      (x.base + BitVec.ofNat 16 y.pos, { y with pos := y.pos + 1, run := y.run - 1, left := y.left - 1 }))
  else
    (nextBit sp x.meta_ (2 ^ 23 + 1) x.pos).map (fun i => (x.base + BitVec.ofNat 16 i, { x with pos := i + 1, left := x.left - 1 }))

/-- The metadata byte that a stream reads next. -/
def metaAt (x : Sparse) : Nat := x.meta_ + (if x.rle then x.at_ else x.pos / 8)

/-- Up to the declared rate of offsets pushed in one dc. -/
def pushOffsets (k : Nat) : Nat → State → State
  | 0, s => s
  | n + 1, s =>
    let g := s.gl k
    if g.sparse.left = 0 ∨ 64 ≤ g.gq.length ∨ bankLocked g (metaAt g.sparse) 1 then s
    else match nextOffset g.sp g.sparse with
      | some (o, x) =>
        if anyBad g.spBad (metaAt g.sparse) (metaAt x + 1 - metaAt g.sparse) then
          abortBand (s.modGl k (fun g => { g with sparse := { g.sparse with left := 0 } })) k tMACHINE_CHECK
        else pushOffsets k n (s.modGl k (fun g => { g with gq := g.gq ++ [o], sparse := x }))
      | none => sparseOut s k

/-- A dc of the sparse-index engine; it reads its metadata where the bank has served nothing yet (R186, R435). -/
def execGqPush (core : Nat) (s : State) : Out :=
  let g := s.gl core
  .next (if bankUsed s g (metaAt g.sparse) 1 then s
    else
      let t := pushOffsets core g.sparse.rate s
      if (t.gl core).gq = g.gq then t else useBanks t core (metaAt g.sparse) (min (metaAt (t.gl core).sparse + 1) (2 ^ 20) - metaAt g.sparse))

end Sys2Proof.Machine
end

