-- ==== Sys2Proof/Machine/Graphics.lean ====
section
/-! DEFINITION. Xamal graphics instructions: geometry, fragments, pixels and textures (R131, R347 to R355). -/
namespace Sys2Proof.Machine

/-! ## Geometry (R131, R347, R348) -/

/-- How a geometry instruction finds its pass: none open yet, an open one, one that has ended so that the instruction has no effect, or an illegal one. -/
inductive PassGate where
  | closed
  | open_ (id : Nat)
  | past
  | illegal
  deriving DecidableEq, Repr

/-- The checks of R131 on the coil's PASS and the launch's pass. -/
def passGate (cx : Ctx) (s : State) : PassGate :=
  match passOf s (s.group cx.gid).launch with
  | some (id, p) =>
    if p.code = 3 then .illegal
    else if p.fatal then .past
    else if cx.co.pass.toNat ≠ p.descAddr.toNat then .illegal
    else if p.code ≠ 0 then .past
    else .open_ id
  | none => if cx.co.pass = 0 then .illegal else .closed

/-- A geometry instruction: its own checks, then its pass, opened if the launch has none; `k` performs it. -/
def onPass (cx : Ctx) (s : State) (checks : (Unit → Res) → Res) (k : Nat → State → Res) : Res :=
  match passGate cx s with
  | .past => .done s
  | .illegal => cx.trapAll tILLEGAL_OPERAND
  | .open_ id => checks (fun _ => k id s)
  | .closed => checks (fun _ =>
      match openPass s (s.group cx.gid).launch cx.co.pass.toNat with
      | none => .stall
      | some s => match passGate cx s with
        | .open_ id => k id s
        | _ => .trapIn s { code := tILLEGAL_OPERAND, cause := cx.actMask })

/-- Local ranges of lanes that must be 16-byte aligned and lie within local memory (R347). -/
def checkRecords (cx : Ctx) (s : State) (rs : List (Nat × Nat × Nat)) (write : Bool) (k : Unit → Res) : Res :=
  let out := (rs.filter (fun r => localSize s cx.gid < r.2.1 + r.2.2)).map (·.1)
  let mis := (rs.filter (fun r => r.2.1 % 16 ≠ 0)).map (·.1)
  let eas := rs.map (fun r => (r.1, r.2.1))
  if !out.isEmpty then accessTrap tACCESS_VIOLATION write eas out
  else if !mis.isEmpty then accessTrap tMISALIGNED write eas mis
  else k ()

/-- The number of the vector register that a source names. -/
def vregOf (x : Src) : Nat := match x with | .v n _ => n.toNat | _ => 0
def trapBit (x : Src) : Bool := match x with | .v _ t => t | .s _ t => t | _ => false

/-- The record that a lane's `EMITV` writes: its two heads and its attributes. -/
def vertexBytes (cx : Ctx) (l k : Nat) : List Byte :=
  leBytes 16 k ++ leBytes 16 (cx.b .b128 l) ++ leBytes (4 * k) (cx.co.vNat l (vregOf cx.x.b + 4) k)

/-- The number of attributes that an `EMITV` names in C. -/
def emitK (x : XOp) : Nat := (({} : Coil).src x.ext .i32 0 x.c) % 32

def execEmitv (x : XOp) (s : State) : Out :=
  let k := emitK x
  let attrs : List Named := (List.range k).map (fun i => { isS := false, n := vregOf x.b + 4 + i, w := 1, trap := trapBit x.b })
  .next (issueOn x (namedOf x { a := 1, b := 4 } ++ attrs) (fun cx s =>
    onPass cx s (fun go => checkRecords cx s (cx.act.map (fun l => (l, cx.a .i32 l, 32 + 4 * k))) true go)
      (fun _ s => .done (cx.act.foldl (fun s l => localWrite s cx.gid (cx.a .i32 l) (vertexBytes cx l k)) s))) s)

/-- A vertex record in local memory: its k, and the vertex (R347). -/
def readVertex (s : State) (gid off : Nat) : Nat × CVert :=
  let w (i : Nat) : XR := valueOf 10 (localNat s gid (off + 4 * i) 4)
  let k := localNat s gid off 4 % 32
  (k, { x := w 4, y := w 5, z := w 6, w := w 7, attrs := (List.range k).map (fun i => w (8 + i)) })

/-- The three record offsets that a lane's `EMITP` names. -/
def vertexOffs (cx : Ctx) (l : Nat) : List Nat := [0, 8, 16].map (fun b => cx.cc .i32 l + 96 * field (cx.a .i32 l) b 8)

/-- A triangle of a lane as its `EMITP` read it: its vertices, its visible ID and its rate (R348). -/
abbrev LaneTri := Nat × List CVert × W32 × BitVec 3

/-- The triangles of lanes as `EMITP` reads them. -/
def readTris (cx : Ctx) (s : State) : List LaneTri :=
  cx.act.map (fun l => (l, (vertexOffs cx l).map (fun o => (readVertex s cx.gid o).2), BitVec.ofNat 32 (cx.b .i32 l), BitVec.ofNat 3 cx.fn))

/-- Triangles submitted one after another: the state after them, and those that a stall holds back. -/
def submitLanes (id : Nat) : List LaneTri → State → State × List LaneTri
  | [], s => (s, [])
  | t :: rest, s =>
    match t.2.1 with
    | [a, b, c] =>
      let r := submitTri s id a b c t.2.2.1 t.2.2.2
      if r.2 then submitLanes id rest r.1 else (s, t :: rest)
    | _ => submitLanes id rest s

/-- The `EMITP` that the executing lanes left half-way, if they go on with it. -/
def emitLeft (cx : Ctx) : Option Emitting := cx.co.emitting.filter (fun e => e.pc == cx.pc && e.lanes &&& ~~~e.trapped &&& cx.lanes ≠ 0)

/-- Triangles of an `EMITP` submitted in ascending lane order; where one stalls, those before it stay submitted, and the rest wait as they were read (R138,
R348). -/
def submitTris (cx : Ctx) (id : Nat) (s : State) (ts : List LaneTri) : Res :=
  let r := submitLanes id ts s
  if r.2.isEmpty then .done (cx.modCo r.1 (fun co => { co with emitting := none }))
  else if r.2.length = ts.length then .stall
  else .hold (cx.modCo r.1 (fun co => { co with emitting := some { pc := cx.pc, lanes := cx.lanes, left := r.2 } }))

/-- The checks of an `EMITP` that has submitted nothing (R347, R348). -/
def emitChecks (cx : Ctx) (s : State) (go : Unit → Res) : Res :=
  let badA := cx.act.filter (fun l => field (cx.a .i32 l) 24 8 ≠ 0 || cx.b .i32 l == 0)
  if !badA.isEmpty then cx.trapSome tILLEGAL_OPERAND badA
  else checkRecords cx s (cx.act.flatMap (fun l => (vertexOffs cx l).map (fun o => (l, o, 32)))) false (fun _ =>
    readLocal s cx.gid (cx.act.flatMap (fun l => (vertexOffs cx l).map (fun o => (l, o, 32)))) (fun _ =>
    let ks (l : Nat) : List Nat := (vertexOffs cx l).map (fun o => (readVertex s cx.gid o).1)
    let badK := cx.act.filter (fun l => (ks l).any (fun k => 16 < k || some k ≠ (ks l).head?))
    if !badK.isEmpty then cx.trapSome tILLEGAL_OPERAND badK
    else
      let all := cx.act.flatMap (fun l => (vertexOffs cx l).map (fun o => (l, o, 32 + 4 * ((ks l).head?.getD 0))))
      checkRecords cx s all false (fun _ => readLocal s cx.gid all go)))

def execEmitp (x : XOp) (s : State) : Out :=
  .next (issue x { a := 1, b := 1, c := 1 } (fun cx s =>
    match emitLeft cx with
    | some e => onPass cx s (fun go => go ()) (fun id s => submitTris cx id s e.left)
    | none => onPass cx s (emitChecks cx s) (fun id s => submitTris cx id s (readTris cx s))) s)

/-! ## Fragments (R349 to R352) -/

/-- Instructions that act only in a thread of a shading wave. -/
def inWave (cx : Ctx) (k : (Nat → ThreadFrag) → Res) : Res :=
  if cx.act.all (fun l => (cx.co.thread l).frag.isSome) then k (fun l => ((cx.co.thread l).frag).getD default) else cx.trapAll tILLEGAL_OPERAND

/-- The fragment behind a thread's specials. -/
def fragOf (s : State) (f : ThreadFrag) : Option Frag := (tget s.gfx.renders f.render).bind (fun r => r.frags[f.idx]?)

/-- Attribute `a` of a triangle at a point, by a mode: 0 perspective, 1 linear, 2 flat (R349). -/
def attrAt (t : Tri) (a mode : Nat) (px py : Int) : XR × Flags :=
  let (p, q, r) := t.order
  let e (u v : SVert) : XR := xOfQ (qInt (edgeFn u v px py))
  let at_ (v : SVert) : XR := (v.attrs[a]?).getD (.zero false)
  let sum3 (x y z : XR × Flags) : XR × Flags :=
    let s := xAdd x.1 y.1
    let t := xAdd s.1 z.1
    (t.1, x.2 ||| y.2 ||| z.2 ||| s.2 ||| t.2)
  let divBy (x : XR × Flags) (w : XR) : XR × Flags := let d := xDiv x.1 w; (d.1, x.2 ||| d.2)
  let terms := [(e q r, p), (e r p, q), (e p q, r)]
  match mode, terms with
  | 2, _ => ((t.flat[a]?).getD (.zero false), 0)
  | 1, [u, v, w] => divBy (sum3 (xMul u.1 (at_ u.2)) (xMul v.1 (at_ v.2)) (xMul w.1 (at_ w.2))) (.fin (qInt (area2 p q r)))
  | _, [u, v, w] =>
    let den := sum3 (xDiv u.1 u.2.w) (xDiv v.1 v.2.w) (xDiv w.1 w.2.w)
    let num := sum3 (divBy (xMul u.1 (at_ u.2)) u.2.w) (divBy (xMul v.1 (at_ v.2)) v.2.w) (divBy (xMul w.1 (at_ w.2)) w.2.w)
    match den.1 with
    | .zero _ => (.nan false, fIV)
    | d => let x := divBy num d; (x.1, x.2 ||| den.2)
  | _, _ => (.zero false, 0)

def execAttri (x : XOp) (s : State) : Out :=
  .next (issue x { a := 1, b := 1, d := 1 } (fun cx s =>
    inWave cx (fun fr =>
      let bad := cx.act.filter (fun l => 16 ≤ cx.a .i32 l || cx.b .i32 l % 4 == 3)
      if !bad.isEmpty then cx.trapSome tILLEGAL_OPERAND bad
      else
        let val (l : Nat) : Nat × Flags :=
          match fragOf s (fr l) with
          | some f => match f.tri with
            | some t =>
              if t.flat.length ≤ cx.a .i32 l then (0, 0)
              else fNarrow 10 (attrAt t (cx.a .i32 l) (cx.b .i32 l % 4) f.ex f.ey) 0 0
            | none => (0, 0)
          | none => (0, 0)
        perLaneF 1 (fun _ l => val l) cx s)) s)

def execCover (x : XOp) (s : State) : Out :=
  .next (issue x { a := 1, d := 1 } (fun cx s =>
    inWave cx (fun fr =>
      let new (l : Nat) : Nat := ((fr l).info.toNat / 32 % 65536) &&& (cx.a .i32 l % 65536)
      let s := cx.setThreads s (fun l th => { th with frag := th.frag.map (fun f =>
        { f with info := BitVec.ofNat 32 (setField f.info.toNat 5 16 (new l)) }) })
      .done (cx.write s 1 (cx.act.map (fun l => (l, new l)))))) s)

def execKill (x : XOp) (s : State) : Out := .next (issue x {} (fun cx s => inWave cx (fun _ => endBody true cx s)) s)

/-- The pixel that a lane's `TBLD` or `TBST` names. -/
def pixelOf (cx : Ctx) (l : Nat) : Nat × Nat := (field (cx.a .i32 l) 0 16, field (cx.a .i32 l) 16 16)

/-- The checks of R352, and the pixels' accesses. -/
def onPixels (cx : Ctx) (s : State) (write : Bool) (k : Nat → Accesses → Res) : Res :=
  inWave cx (fun fr =>
    let bad := cx.act.filter (fun l =>
      match tget s.gfx.passes (fr l).pass, tget s.gfx.renders (fr l).render with
      | some p, some r =>
        let d := p.desc
        let (px, py) := pixelOf cx l
        !(d.ordered && d.prog) || cx.fn ≠ d.cfmt || d.width ≤ px || d.height ≤ py || py / 64 * tilesX d + px / 64 ≠ r.tile
      | _, _ => true)
    if !bad.isEmpty then cx.trapSome tILLEGAL_OPERAND bad
    else
      let eas := cx.act.map (fun l =>
        let d := ((tget s.gfx.passes (fr l).pass).map (·.desc)).getD {}
        (l, pixelAt d d.target (pixelBytes cx.fn) (pixelOf cx l).1 (pixelOf cx l).2))
      checkGlobal cx s eas (pixelBytes cx.fn) write .active (fun acc => k cx.fn acc))

/-- Four FP32 codes as the words of a quad. -/
def quad (cs : List Nat) : Nat := cs.foldr (fun c a => c + 2 ^ 32 * a) 0

def execTbld (x : XOp) (s : State) : Out :=
  .next (issue x { a := 1, d := 4 } (fun cx s => onPixels cx s false (fun cfmt acc =>
    let n := pixelBytes cfmt
    .done (landLoads cx (acc.foldl (fun t a => loadNote t cx.k a.2.2 3 a.2.1 n) s) 4 (acc.map (fun a =>
      (a.1, quad ((decodePixel cfmt (loadNat s cx.k a.2.2 3 a.2.1 n)).map Ch.fp32), loadBad s cx.k a.2.2 3 a.2.1 n)))))) s)

def execTbst (x : XOp) (s : State) : Out :=
  .next (issue x { a := 1, b := 4 } (fun cx s => onPixels cx s true (fun cfmt acc =>
    .done (acc.foldl (fun s a =>
      let v := cx.b .b128 a.1
      storeBytes s cx.k a.2.2 3 a.2.1 (leBytes (pixelBytes cfmt) (encodePixel cfmt ((List.range 4).map (fun i => field v (32 * i) 32))))) s))) s)

/-! ## Textures (R353 to R355) -/

/-- A texture descriptor (R353). -/
structure Tex where
  base : Nat
  w : Nat
  h : Nat
  fmt : Nat
  wrapU : Nat
  wrapV : Nat
  bilinear : Bool
  lm1 : Nat
  pitch : Nat
  ok : Bool
  deriving DecidableEq, Repr

def parseTex (v : Nat) : Tex :=
  let w1 := field v 64 64
  let w2 := field v 128 64
  let w := field w1 0 14 + 1
  let fmt := field w1 28 3
  let pb := pixelBytes fmt
  let pitch := field w2 0 32
  { base := field v 0 57, w, h := field w1 14 14 + 1, fmt, wrapU := field w1 31 2, wrapV := field w1 33 2, bilinear := bit w1 35, lm1 := field w1 36 4, pitch,
    ok := field v 57 7 == 0 && field w1 40 24 == 0 && field w2 32 32 == 0 && field v 192 64 == 0 && fmt ≤ 5 && field w1 31 2 ≠ 3 && field w1 33 2 ≠ 3
      && field w1 36 4 ≤ 14 && pb * w ≤ pitch && pitch % pb == 0 }

def Tex.levelW (t : Tex) (l : Nat) : Nat := max 1 (t.w / 2 ^ l)
def Tex.levelH (t : Tex) (l : Nat) : Nat := max 1 (t.h / 2 ^ l)
def Tex.rowPitch (t : Tex) (l : Nat) : Nat := if l = 0 then t.pitch else pixelBytes t.fmt * t.levelW l
/-- Where a level starts. (DEDUCED, log 33.) -/
def Tex.levelBase (t : Tex) : Nat → Nat
  | 0 => t.base
  | l + 1 => (t.levelBase l + t.rowPitch l * t.levelH l + 255) / 256 * 256

/-- A coordinate after its wrap, none outside under border. -/
def wrapCoord (mode size : Nat) (i : Int) : Option Nat :=
  if mode = 0 then some (i % size).toNat
  else if mode = 1 then some (max 0 (min i (size - 1))).toNat
  else if i < 0 ∨ i ≥ size then none else some i.toNat

/-- The address of a texel, none for a border. -/
def Tex.addr (t : Tex) (l : Nat) (i j : Int) : Option Nat :=
  match wrapCoord t.wrapU (t.levelW l) i, wrapCoord t.wrapV (t.levelH l) j with
  | some x, some y => some (t.levelBase l + y * t.rowPitch l + x * pixelBytes t.fmt)
  | _, _ => none

/-- A finite coordinate as a rational. -/
def coordOf (v : Nat) : Option Q := match valueOf 10 v with | .fin q => some q | .zero _ => some ⟨0, 1⟩ | _ => none

/-- The bilinear footprint at a level: i, j and the two fractions in 1/256 (R354). -/
def footprint (t : Tex) (l : Nat) (u v : Q) : Int × Int × Nat × Nat :=
  let axis (c : Q) (size : Nat) : Int × Nat :=
    let x := qSub (qMul c (qInt size)) ⟨1, 2⟩
    let i := qFloor x
    let q := (qRne (qMul (qSub x (qInt i)) (qInt 256))).toNat
    if q = 256 then (i + 1, 0) else (i, q)
  let a := axis u (t.levelW l)
  let b := axis v (t.levelH l)
  (a.1, b.1, a.2, b.2)

/-- The texels that a sample reads with their weights over 65,536; none where a coordinate is not finite. -/
def sampleTaps (t : Tex) (l : Nat) (bilinear : Bool) (u v : Nat) : Option (List (Nat × Option Nat)) :=
  match coordOf u, coordOf v with
  | some u, some v =>
    if !bilinear then some [(65536, t.addr l (qFloor (qMul u (qInt (t.levelW l)))) (qFloor (qMul v (qInt (t.levelH l)))))]
    else
      let (i, j, qa, qb) := footprint t l u v
      some [((256 - qa) * (256 - qb), t.addr l i j), (qa * (256 - qb), t.addr l (i + 1) j), ((256 - qa) * qb, t.addr l i (j + 1)), (qa * qb, t.addr l (i + 1) (j + 1))]
  | _, _ => none

/-- A lane's taps: the texture, and the texels that it reads. -/
structure LaneTaps where
  lane : Nat
  fmt : Nat
  taps : Option (List (Nat × Option Nat))

/-- The descriptors of the lanes, read as `RLX` loads at `GROUP` scope, then their texels (R353). -/
def onTexels (cx : Ctx) (s : State) (taps : Nat → Tex → LaneTaps) (k : List LaneTaps → (Nat → Nat → Nat) → (Nat → Nat → Bool) → State → Res) : Res :=
  checkGlobal cx s (cx.act.map (fun l => (l, cx.a .i64 l))) 32 false .active (fun acc =>
    let poison := (acc.filter (fun a => loadBad s cx.k a.2.2 1 a.2.1 32)).map (·.1)
    let texs := acc.map (fun a => (a.1, parseTex (loadNat s cx.k a.2.2 1 a.2.1 32)))
    let bad := (texs.filter (fun t => !t.2.ok)).map (·.1)
    if !poison.isEmpty then cx.trapSome tMACHINE_CHECK poison
    else if !bad.isEmpty then cx.trapSome tILLEGAL_OPERAND bad
    else
      let s := acc.foldl (fun s a => loadNote s cx.k a.2.2 1 a.2.1 32) s
      let ts := texs.map (fun t => taps t.1 t.2)
      let one (n : Nat) : List (Nat × Nat) := ts.flatMap (fun t => if pixelBytes t.fmt ≠ n then [] else
        ((t.taps.getD []).filterMap (fun p => if p.1 = 0 then none else p.2.map (fun a => (t.lane, a)))))
      checkGlobal cx s (one 4) 4 false .active (fun a4 => checkGlobal cx s (one 8) 8 false .active (fun a8 =>
        checkGlobal cx s (one 16) 16 false .active (fun a16 =>
          let all : List ((Nat × Nat) × Nat × Nat) := [(4, one 4, a4), (8, one 8, a8), (16, one 16, a16)].flatMap (fun e =>
            (e.2.1.zip e.2.2).map (fun p => ((e.1, p.1.2), p.2.2.1, p.2.2.2)))
          let find (n va : Nat) : Option (Nat × Nat) := (all.find? (fun e => e.1.1 = n && e.1.2 = va)).map (·.2)
          let s := all.foldl (fun s e => loadNote s cx.k e.2.2 1 e.2.1 e.1.1) s
          k ts (fun n va => match find n va with | some e => loadNat s cx.k e.2 1 e.1 n | none => 0)
            (fun n va => match find n va with | some e => loadBad s cx.k e.2 1 e.1 n | none => false) s))))

/-- The decoded channels of a tap: zero on a border. -/
def tapColour (fmt : Nat) (texel : Nat → Nat) (a : Option Nat) : List Ch :=
  match a with | some va => decodePixel fmt (texel va) | none => List.replicate 4 (.x (.zero false))

/-- Whether an uncorrectable error stands in a texel that a lane reads. -/
def tapsBad (t : LaneTaps) (bad : Nat → Nat → Bool) : Bool := (t.taps.getD []).any (fun p => p.1 ≠ 0 && (p.2.map (bad (pixelBytes t.fmt))).getD false)

/-- The colour that a sample returns (R354). -/
def sampleValue (t : LaneTaps) (texel : Nat → Nat) : Nat :=
  match t.taps with
  | none => 0
  | some [(65536, a)] => quad ((tapColour t.fmt texel a).map Ch.fp32)
  | some taps =>
    let cols := taps.map (fun p => (p.1, tapColour t.fmt texel p.2))
    quad ((List.range 4).map (fun i => filterCh (cols.map (fun c => (c.1, (c.2[i]?).getD (.x (.zero false)))))))

/-- `TEXS` and `TEXL`; `level` gives the level that a lane asks for. -/
def sampleBody (level : Ctx → Nat → Nat) (cx : Ctx) (s : State) : Res :=
  onTexels cx s (fun l t => ⟨l, t.fmt, sampleTaps t (min (level cx l) t.lm1) t.bilinear (field (cx.b .i64 l) 0 32) (field (cx.b .i64 l) 32 32)⟩)
    (fun ts texel bad s => .done (landLoads cx s 4 (ts.map (fun t => (t.lane, sampleValue t (texel (pixelBytes t.fmt)), tapsBad t bad)))))

def execTexs (x : XOp) (s : State) : Out := .next (issue x { a := 2, b := 2, d := 4 } (sampleBody (fun _ _ => 0)) s)
def execTexl (x : XOp) (s : State) : Out := .next (issue x { a := 2, b := 2, c := 1, d := 4 } (sampleBody (fun cx l => cx.cc .i32 l)) s)

/-- `TEXG` reads the four texels of the footprint at level 0, each in full weight (R355). -/
def execTexg (x : XOp) (s : State) : Out :=
  .next (issue x { a := 2, b := 2, c := 1, d := 4 } (fun cx s =>
    onTexels cx s (fun l t =>
        ⟨l, t.fmt, (sampleTaps t 0 true (field (cx.b .i64 l) 0 32) (field (cx.b .i64 l) 32 32)).map (fun ps => ps.map (fun p => (65536, p.2)))⟩)
      (fun ts texel bad s => .done (landLoads cx s 4 (ts.map (fun t =>
        (t.lane, quad (((t.taps.getD []).map (fun p => (((tapColour t.fmt (texel (pixelBytes t.fmt)) p.2)[cx.cc .i32 t.lane % 4]?).map Ch.fp32).getD 0))), tapsBad t bad)))))) s)

end Sys2Proof.Machine
end

