-- ==== Sys2Proof/Machine/Registers.lean ====
section
/-! DEFINITION. The registers of the hub control window and of the heads' windows as they read, what a write of each does, who may write them (R5, R13,
R34 to R37, R66, R79, R103, R120, R190, R191, R268, R294), and the accesses of the companion processor (R16, R24, R35). -/
namespace Sys2Proof.Machine

/-- The state that a meaning goes on with. -/
def goesTo (s : State) (o : Out) : State := match o with | .next t => t | _ => s

def bitN (b : Bool) (i : Nat) : Nat := if b then 2 ^ i else 0

/-! ## Reading -/

/-- A register of the command interface, the firmware complex, the dispatcher, memory control, or the task units: its value and whether it is 64 bits
wide. -/
def readLow (s : State) (o : Nat) : Option (Nat × Bool) :=
  let c := s.cmd
  let f := s.fw
  let d := s.disp
  let m := s.mod
  if o = 0x1000 then some (c.qtab.toNat * 2 ^ 18, true)
  else if o = 0x1008 then some (0, false)
  else if o = 0x100C then some (bitN c.mapBusy 0 + bitN c.mapErr 1, false)
  else if o = 0x1010 then some (c.qmax.toNat + bitN c.scanBadWr 4 + bitN c.scanEnable 9, false)
  else if o = 0x1014 then some ((c.queues.filter (fun e => e.2.st ≠ .unmapped)).length + bitN c.late 13, false)
  else if o = 0x1018 then some (c.qerrQid.toNat + c.qerrErr.toNat * 2 ^ 12 + bitN c.qerrValid 16 + bitN c.qerrLost 17, false)
  else if o = 0x1020 then some (c.reads.toNat, true)
  else if o = 0x2000 then some (bitN f.booted 0 + bitN f.slot 1 + f.secver.toNat * 4, false)
  else if 0x2010 ≤ o ∧ o < 0x2020 then
    let k := tgetD f.kilns ((o - 0x2010) / 4) {}
    some (k.slip.toNat + k.restarts.toNat * 2 ^ 16 + bitN k.clamp 24 + bitN k.badIo 25, false)
  else if o = 0x2040 then some (f.updAddr.toNat, true)
  else if o = 0x2048 then some (f.updLen.toNat, false)
  else if o = 0x204C then some (0, false)
  else if o = 0x2050 then some (f.updState.toNat + f.updCode.toNat * 8 + bitN f.updBusyWr 7, false)
  else if o = 0x2060 then some (f.ageLost.toNat + f.headevLost.toNat * 2 ^ 16, false)
  else if 0x3000 ≤ o ∧ o < 0x3010 then
    let n := (o - 0x3000) / 4
    some ((tgetD d.ways n 0xFFFF).toNat + bitN (d.waysBad.contains n) 16, false)
  else if 0x3010 ≤ o ∧ o < 0x3020 then
    let n := (o - 0x3010) / 4
    some ((tgetD d.bw n 16).toNat + bitN (d.bwBad.contains n) 7, false)
  else if o = 0x3020 then
    let top := (candidates s).head?
    let resv := match d.resv with | some (_, r) => 1 + r * 2 | none => 0
    let excl := match top with | some t => bitN (ageHard ≤ s.time - t.2.2) 6 + t.1 * 2 ^ 8 | none => 0
    some (resv + excl, false)
  else if o = 0x3024 then some (d.discards.toNat, false)
  else if o = 0x3040 then some (0, true)
  else if o = 0x3048 then some (d.preState.toNat + d.preErr.toNat * 4 + bitN d.preErrSet 5 + d.preGroups.toNat * 2 ^ 16, false)
  else if o = 0x3050 then some (d.poolBase.toNat * 2 ^ 16, true)
  else if o = 0x3058 then some (d.poolUnits.toNat + bitN d.poolBad 16, false)
  else if o = 0x4000 then some (m.dispBw.toNat + bitN m.badWr 7 + bitN m.borrow 8, false)
  else if 0x4100 ≤ o ∧ o < 0x4200 then
    let k := s.chan ((o - 0x4100) / 4)
    some (k.st.toNat + bitN k.crcErr 2 + k.ceCount.toNat * 2 ^ 16, false)
  else if 0x5000 ≤ o ∧ o < 0x50C0 ∧ o % 8 = 0 then
    let l := (s.region ((o - 0x5000) / 8)).faults
    some ((match l with | e :: _ => e.1.toNat | [] => 0) + min l.length 63 * 2 ^ 57 + bitN (64 ≤ l.length) 63, true)
  else if o = 0x50C0 then some (0, false)
  else if o = 0x50C4 then some (bitN s.cor.taskBad 0 + bitN s.cor.overdec 1, false)
  else none

/-- A register of the display-wide, translation or service windows. -/
def readMid (s : State) (o : Nat) : Option (Nat × Bool) :=
  let m := s.mod
  let x := s.xlat
  if o = 0x6000 then
    some (s.dpy.headSel.toNat + s.dpy.member.toNat * 2 ^ 32 + s.dpy.synthEn.toNat * 2 ^ 48 + bitN s.dpy.mapBad 52, true)
  else if o = 0x6008 then some (s.dpy.ways.toNat + bitN s.dpy.waysBad 4, false)
  else if o = 0x7000 then some (x.asTab.toNat * 2 ^ 20, true)
  else if o = 0x7008 then some (x.tlbiVa.toNat * 2 ^ 12, true)
  else if o = 0x7010 then some (x.tlbiAsid.toNat + x.tlbiPages.toNat * 2 ^ 16 + bitN x.tlbiAllVa 26 + bitN x.tlbiAllAsid 27, false)
  else if o = 0x7014 then some (bitN x.busy 0 + bitN x.badWr 1 + x.mfull.toNat * 2 ^ 16, false)
  else if o = 0x8000 then some (m.svcBase.toNat * 2 ^ 12 + m.svcSlots.toNat * 2 ^ 52, true)
  else if o = 0x8008 then some (m.svcW.toNat, false)
  else if o = 0x800C then some (m.svcR.toNat, false)
  else if o = 0x8010 then some (bitN m.svcBadWr 0 + m.svcLost.toNat * 2 ^ 16, false)
  else if o = 0x8018 then some (m.svcCe.toNat, true)
  else if o = 0x8020 then some (m.svcUe.toNat, false)
  else if o = 0x8030 then some (0, false)
  else if o = 0x8034 then some (m.modState.toNat + bitN m.modBadWr 2, false)
  else if o = 0x8038 then some (0, false)
  else if o = 0x8040 then some (m.attAddr.toNat * 2 ^ 12, true)
  else if o = 0x8048 then some (0, false)
  else if o = 0x804C then some (m.attState.toNat + bitN m.attBusyWr 2 + m.attLen.toNat * 2 ^ 16, false)
  else if 0x8100 ≤ o ∧ o < 0x8400 then
    let g := (o - 0x8100) / 4
    some ((((tget m.corePhys g).map (·.toNat)).getD (g % 8)) + bitN (!m.coreGone.contains g) 4, false)
  else if 0x8400 ≤ o ∧ o < 0x8600 then
    let n := (o - 0x8400) / 4
    some (physSlice s n + bitN (m.sliceShared.contains n) 6, false)
  else if o = 0x8800 then some (m.iftSelf.toNat, false)
  else if o = 0x8808 then some (m.iftPeer.toNat * 2 ^ 21, true)
  else if o = 0x8810 then some (m.iftFab.toNat * 2 ^ 14, true)
  else if o = 0x8818 then some (m.iftRto.toNat + bitN m.iftBadWr 16, false)
  else none

/-- A register of a head's window. -/
def readHead (s : State) (h o : Nat) : Option (Nat × Bool) :=
  let d := s.head h
  let t := d.timing
  if o = 0x00 then
    some (t.hactive.toNat + t.vactive.toNat * 2 ^ 13 + t.vtotal.toNat * 2 ^ 26 + t.iface.toNat * 2 ^ 40 + t.outBits.toNat * 2 ^ 42, true)
  else if o = 0x08 then some (t.lt.toNat, false)
  else if o = 0x10 then some (d.cfg.bandLines + d.cfg.guard * 2 ^ 7 + d.cfg.poseLead * 2 ^ 11 + d.cfg.leadLines * 2 ^ 21 + bitN d.cfgBad 31, false)
  else if o = 0x18 then some (d.src.pub.toNat + d.src.w.toNat * 2 ^ 12 + d.src.h.toNat * 2 ^ 27 + d.src.asid.toNat * 2 ^ 42, true)
  else if o = 0x20 then some (d.src.focalX.toNat + d.src.focalY.toNat * 2 ^ 32, true)
  else if o = 0x28 then some (d.src.centreX.toNat + d.src.centreY.toNat * 2 ^ 32, true)
  else if o = 0x30 then some (d.src.depth.toNat, true)
  else if o = 0x38 then some (d.src.border.toNat, true)
  else if o = 0x40 then some (d.srcFrame.toNat, true)
  else if o = 0x48 then some (srcInUse s h, true)
  else if o = 0x50 then some (bitN d.overrun 0 + bitN d.wportOvf 1 + bitN d.roundLate 2 + bitN d.abort 3, false)
  else if o = 0x58 then some (d.bisque.toNat + d.abortedBands.toNat * 2 ^ 32, true)
  else if o = 0x60 then some (d.lateLines.toNat, false)
  else if o = 0x68 then some (d.mhBase.toNat * 2 ^ 12 + d.mhSlots.toNat * 2 ^ 52, true)
  else if o = 0x70 then some (d.hreqAddr.toNat * 2 ^ 6, true)
  else if o = 0x78 then some (0, false)
  else if o = 0x7C then some (d.hreqState.toNat + d.hreqCode.toNat * 4 + bitN d.hreqBusy 6 + d.hreqEntry.toNat * 2 ^ 8, false)
  else if 0x100 ≤ o ∧ o < 0x140 then some (tgetD d.cfg.skew ((o - 0x100) / 4) 0, false)
  else none

/-- The register that begins at an offset of the module's MMIO windows. -/
def readHub (s : State) (off : Nat) : Option (Nat × Bool) :=
  if off % 4 ≠ 0 then none
  else if off < 0x6000 then readLow s off
  else if off < 0x1000000 then readMid s off
  else if off < 0x1040000 then readHead s ((off - 0x1000000) / 0x10000) ((off - 0x1000000) % 0x10000)
  else none

/-- A word of 4 bytes of the windows: a 32-bit register, or half of a 64-bit one; 0 where there is none. -/
def readHalf (s : State) (off : Nat) : Nat :=
  match readHub s off with
  | some (v, _) => v % 2 ^ 32
  | none => match readHub s (off - 4) with
    | some (v, true) => if 4 ≤ off then v / 2 ^ 32 else 0
    | _ => 0

/-! ## Writing -/

/-- RW1C of a bit: 1 clears it (R5). -/
def w1c (b : Bool) (v i : Nat) : Bool := b && !bit v i
/-- RW1C of a 16-bit count: each bit written 1 is cleared, so that all ones clear it (R5, R34, R79). -/
def w1cCount (n : W16) (v lo : Nat) : W16 := n &&& ~~~(BitVec.ofNat 16 (field v lo 16))

/-- A QMAP operation (R66): ignored while another is in progress. -/
def writeQmap (s : State) (v : Nat) : State :=
  let qid := field v 0 12
  if s.cmd.mapBusy then mapError s
  else match field v 12 3 with
  | 1 => goesTo s (execQmapMap qid s)
  | 2 => goesTo s (execQmapUnmap qid s)
  | 3 => goesTo s (execQmapRestart qid s)
  | 4 => goesTo s (execQmapReload qid s)
  | _ => mapError s

/-- A pre-emption request (R294). -/
def writePreempt (s : State) (v : Nat) : State :=
  let l : BitVec 57 := BitVec.ofNat 57 v
  match field v 57 2 with
  | 1 => goesTo s (execPreemptSuspend l s)
  | 2 => goesTo s (execPreemptRequeue l s)
  | 3 => goesTo s (execPreemptResume l s)
  | _ => s

/-- A decision of KC1 (R119, R120). -/
def writeDecide (s : State) (v : Nat) : State :=
  let r := field v 0 5
  match field v 5 2 with
  | 1 => goesTo s (execTaskDecideRetry r s)
  | 2 => goesTo s (execTaskDecideCancelSubgraph r s)
  | 3 => goesTo s (execTaskDecideLeave r s)
  | _ => s

/-- A request of the host to KC3 (R192). -/
def writeHreq (s : State) (h v : Nat) : State :=
  if !bit v 2 then s
  else match field v 0 2 with
    | 1 => goesTo s (execHreqModeSet h s)
    | 2 => goesTo s (execHreqKernelLoad h s)
    | 3 => goesTo s (execHreqHeadOff h s)
    | _ => s

/-- A register below the display windows written whole. -/
def writeLow (s : State) (by_ : Writer) (o : Nat) (val : W64) : State :=
  let v := val.toNat
  let w : W32 := val.setWidth 32
  if o = 0x1000 then goesTo s (execQtabBaseWrite val s)
  else if o = 0x1008 then writeQmap s v
  else if o = 0x100C then s.modCmd (fun c => { c with mapErr := w1c c.mapErr v 1 })
  else if o = 0x1010 then goesTo s (execScanCtlWrite w s)
  else if o = 0x1014 then s.modCmd (fun c => { c with late := w1c c.late v 13 })
  else if o = 0x1018 then s.modCmd (fun c => { c with qerrValid := w1c c.qerrValid v 16, qerrLost := w1c c.qerrLost v 17 })
  else if 0x2010 ≤ o ∧ o < 0x2020 then
    s.modKiln ((o - 0x2010) / 4) (fun k => { k with clamp := w1c k.clamp v 24, badIo := w1c k.badIo v 25 })
  else if o = 0x2040 then s.modFw (fun f => { f with updAddr := BitVec.ofNat 52 v })
  else if o = 0x2048 then s.modFw (fun f => { f with updLen := BitVec.ofNat 25 v })
  else if o = 0x204C then (if bit v 0 then goesTo s (execFwUpdGo s) else s)
  else if o = 0x2050 then s.modFw (fun f => { f with updBusyWr := w1c f.updBusyWr v 7 })
  else if o = 0x2060 then s.modFw (fun f => { f with ageLost := w1cCount f.ageLost v 0, headevLost := w1cCount f.headevLost v 16 })
  else if 0x3000 ≤ o ∧ o < 0x3010 then goesTo s (execWaysClassWrite ((o - 0x3000) / 4) w s)
  else if 0x3010 ≤ o ∧ o < 0x3020 then goesTo s (execBwClassWrite ((o - 0x3010) / 4) w s)
  else if o = 0x3040 then writePreempt s v
  else if o = 0x3048 then { s with disp := { s.disp with preErrSet := w1c s.disp.preErrSet v 5 } }
  else if o = 0x3050 then goesTo s (execSavePoolWrite false val s)
  else if o = 0x3058 then goesTo s (execSavePoolWrite true val s)
  else if o = 0x4000 then goesTo s (execMemRsvCtlWrite by_ w s)
  else if 0x4100 ≤ o ∧ o < 0x4200 then
    let n := (o - 0x4100) / 4
    let s := s.modChan n (fun c => { c with crcErr := w1c c.crcErr v 2 })
    if bit v 3 then goesTo s (execEvacDone n s) else s
  else if o = 0x50C0 then writeDecide s v
  else if o = 0x50C4 then { s with cor := { s.cor with taskBad := w1c s.cor.taskBad v 0, overdec := w1c s.cor.overdec v 1 } }
  else s

/-- A register of the display-wide, translation or service windows written whole. -/
def writeMid (s : State) (o : Nat) (val : W64) : State :=
  let v := val.toNat
  let w : W32 := val.setWidth 32
  if o = 0x6000 then goesTo s (execDispRowMapWrite val s)
  else if o = 0x6008 then goesTo s (execDispCacheCtlWrite w s)
  else if o = 0x7000 then goesTo s (execAsTabBaseWrite val s)
  else if o = 0x7008 then
    { s with xlat := if s.xlat.busy then { s.xlat with badWr := true } else { s.xlat with tlbiVa := BitVec.ofNat 45 (field v 12 45) } }
  else if o = 0x7010 then goesTo s (execTlbiGo w s)
  else if o = 0x7014 then { s with xlat := { s.xlat with badWr := w1c s.xlat.badWr v 1 } }
  else if o = 0x8000 then goesTo s (execSvcRingWrite val s)
  else if o = 0x800C then goesTo s (execSvcRidxWrite w s)
  else if o = 0x8010 then s.modMod (fun m => { m with svcBadWr := w1c m.svcBadWr v 0, svcLost := w1cCount m.svcLost v 16 })
  else if o = 0x8030 then (if bit v 0 then goesTo s (execModQuiesceGo s) else s)
  else if o = 0x8034 then s.modMod (fun m => { m with modBadWr := w1c m.modBadWr v 2 })
  else if o = 0x8038 then goesTo s (execModResetKey (val.setWidth 16) s)
  else if o = 0x8040 then s.modMod (fun m => { m with attAddr := BitVec.ofNat 40 (field v 12 40) })
  else if o = 0x8048 then (if bit v 0 then goesTo s (execAttCtlGo s) else s)
  else if o = 0x804C then s.modMod (fun m => { m with attBusyWr := w1c m.attBusyWr v 2 })
  else if o = 0x8800 then s.modMod (fun m => { m with iftSelf := BitVec.ofNat 16 v })
  else if o = 0x8808 then s.modMod (fun m => { m with iftPeer := BitVec.ofNat 31 (field v 21 31) })
  else if o = 0x8810 then s.modMod (fun m => { m with iftFab := BitVec.ofNat 38 (field v 14 38) })
  else if o = 0x8818 then goesTo s (execIftRtoWrite w s)
  else s

/-- A register of a head's window written whole. -/
def writeHead (s : State) (h o : Nat) (val : W64) : State :=
  let v := val.toNat
  let lo : W32 := BitVec.ofNat 32 v
  let hi : W32 := BitVec.ofNat 32 (v / 2 ^ 32)
  let src (f : SrcCfg → SrcCfg) : State := s.modHead h (fun d => { d with src := f d.src })
  if o = 0x10 then goesTo s (execBandCfgWrite h lo s)
  else if o = 0x18 then
    src (fun c => { c with pub := BitVec.ofNat 12 v, w := BitVec.ofNat 15 (field v 12 15), h := BitVec.ofNat 15 (field v 27 15), asid := BitVec.ofNat 16 (field v 42 16) })
  else if o = 0x20 then src (fun c => { c with focalX := lo, focalY := hi })
  else if o = 0x28 then src (fun c => { c with centreX := lo, centreY := hi })
  else if o = 0x30 then src (fun c => { c with depth := lo })
  else if o = 0x38 then src (fun c => { c with border := val })
  else if o = 0x50 then
    s.modHead h (fun d => { d with
      overrun := w1c d.overrun v 0, wportOvf := w1c d.wportOvf v 1, roundLate := w1c d.roundLate v 2, abort := w1c d.abort v 3 })
  else if o = 0x68 then goesTo s (execMemheadWrite h val s)
  else if o = 0x70 then s.modHead h (fun d => { d with hreqAddr := BitVec.ofNat 46 (field v 6 46) })
  else if o = 0x78 then writeHreq s h v
  else if o = 0x7C then s.modHead h (fun d => { d with hreqBusy := w1c d.hreqBusy v 6 })
  else if 0x100 ≤ o ∧ o < 0x140 then
    s.modHead h (fun d => { d with cfg := { d.cfg with skew := tput d.cfg.skew ((o - 0x100) / 4) (v % 2 ^ 24) } })
  else s

/-- A register written whole. (DEDUCED, log 24.) -/
def writeHub (s : State) (by_ : Writer) (off : Nat) (val : W64) : State :=
  if off < 0x6000 then writeLow s by_ off val
  else if off < 0x1000000 then writeMid s off val
  else if off < 0x1040000 then writeHead s ((off - 0x1000000) / 0x10000) ((off - 0x1000000) % 0x10000) val
  else s

/-- Whether an agent may write a register: the task units' are KC1's; the dispatcher's, the display's and the service registers the host's, the IFT
registers KC2's too; the translation registers the host's and KC2's. MEM_RSV_CTL refuses a kiln core in its own way (R34, R75, R103, R120, R190, R268). -/
def mayWrite (by_ : Writer) (off : Nat) : Bool :=
  match by_ with
  | .host => !(0x5000 ≤ off && off < 0x6000)
  | .kiln k =>
    if 0x3000 ≤ off ∧ off < 0x4000 then false
    else if 0x5000 ≤ off ∧ off < 0x6000 then k == 1
    else if 0x6000 ≤ off ∧ off < 0x7000 then false
    else if 0x7000 ≤ off ∧ off < 0x8000 then k == 2
    else if 0x8800 ≤ off ∧ off < 0x8900 then k == 2
    else !(0x8000 ≤ off && off < 0x8800)

/-- A write of an existing register by an agent: a kiln core that may not make it has it refused (R76, R103). -/
def writeBy (s : State) (by_ : Writer) (off : Nat) (val : W64) : State :=
  if mayWrite by_ off then writeHub s by_ off val
  else match by_ with | .kiln k => setBadIo s k | .host => s

/-- Whether the companion processor can use the windows: after boot and while the links are not parked (R24, R35). -/
def hostReaches (s : State) : Bool := s.fw.booted && (s.mod.cond = .running || s.mod.cond = .quiescing) && !linkDown s

/-- A write of 4 or 8 bytes at a register. A 64-bit register takes 8 bytes, and a 32-bit one the low 4 of what is written. -/
def execHubRegisterWrite (by_ : Writer) (off : Nat) (wide : Bool) (val : W64) (s : State) : Out :=
  let usable := match by_ with | .host => hostReaches s | .kiln _ => true
  .next (match readHub s off with
    | some (_, w) => if !usable ∨ (w && !wide) then s else writeBy s by_ off val
    | none => s)

/-! ## The companion processor (R16, R175) -/

/-- Bytes of the MMIO windows as the host reads them. -/
def readMmio (s : State) (off n : Nat) : List Byte :=
  (List.range n).map (fun i => BitVec.ofNat 8 (readHalf s ((off + i) / 4 * 4) / 2 ^ (8 * ((off + i) % 4))))

/-- What a read over the ICL returns: device memory with the home's coherent contents, a mailbox, or registers; a parked module answers reads of MOD_STAT
alone. -/
def hostRead (s : State) (pa n : Nat) : Option (List Byte) :=
  if mmioBase ≤ pa ∧ pa < mmioBase + 2 ^ 26 then
    if inMailbox pa then (if hostReaches s then some (physBytes s pa n) else none)
    else if hostReaches s ∨ (s.mod.modState = 2 ∧ pa = mmioBase + 0x8034) then some (readMmio s (pa - mmioBase) n)
    else none
  else if inDevice pa n ∧ hostReaches s ∧ !poisoned s pa n then some (physBytes s pa n)
  else if inHost pa n then some (physBytes s pa n)
  else none


/-- Bytes of a write of the host: units replaced whole are poisoned no more (R27). -/
def hostStore (s : State) (pa : Nat) (bs : List Byte) : State := clearWhole (hostWrite s pa bs) pa bs.length

/-- An `SC` atomic of the host waits for the position of the ICL port that carries it: 212 for port 0 and 213 for port 1 (R255). -/
def queueHostSc (s : State) (pa : Nat) (v : W64) : State :=
  let p := (carrierOf s pa).getD 0
  let o : ScOp := { gid := 0, coil := 0, kind := 4, core := 0, asid := 0, va := pa, size := 8, scope := 4, data := v.toNat, data2 := 0, aop := 0, at_ := 1, sx := false, regs := [] }
  { s with xlat := { s.xlat with scWaiting := tmod s.xlat.scWaiting (212 + p) [] (· ++ [o]) } }

/-- A read, write or atomic of the companion processor: host memory is its own, and needs no link to be written. (DEDUCED, log 24.) -/
def execIclHostAccess (a : HostAccess) (s : State) : Out :=
  .next (match a with
    | .read pa n => match hostRead s pa n with
      | some bs => (if inDevice pa n then recallLines s 192 pa n else s).modMod (fun m => { m with hostData := bs })
      | none => s
    | .write pa bs =>
      if inHost pa bs.length then hostStore s pa bs
      else if !hostReaches s then s
      else if mmioBase ≤ pa ∧ pa < mmioBase + 2 ^ 26 then
        if inMailbox pa then putPhys s pa bs
        else if bs.length = 4 ∨ bs.length = 8 then
          goesTo s (execHubRegisterWrite .host (pa - mmioBase) (bs.length = 8) (BitVec.ofNat 64 (leNat bs)) s)
        else s
      else if inDevice pa bs.length ∧ !unreachable s pa then hostStore s pa bs
      else s
    | .atomicAdd pa v sc =>
      if pa % 8 ≠ 0 ∨ !(inHost pa 8 || (hostReaches s && inDevice pa 8)) ∨ poisoned s pa 8 then s
      else if sc ∧ inDevice pa 8 then queueHostSc s pa v
      else hostAdd s pa v.toNat)

end Sys2Proof.Machine
end

