-- ==== Sys2Proof/Machine/Kiln.lean ====
section
/-! DEFINITION. The kiln cores' control words, their I/O ports, the MEMWIN window and the event queues as firmware pops them (R70 to R76, R413, R414,
R438). A bundle's parts read registers as they stand when it begins; what they write waits in `kwrites` and `knext` for its end. -/
namespace Sys2Proof.Machine

def State.kiln (s : State) (k : Nat) : Kiln := tgetD s.fw.kilns k {}

/-- A control word of a kiln core; nothing happens where no bundle of a kiln core executes. (DESIGN CHOICE, log 11.) -/
def onKiln (s : State) (f : Nat → Kiln → State) : State :=
  match s.cur with
  | .kiln k _ => f k (s.kiln k)
  | _ => s

/-- A register as it stands when the bundle begins. -/
def Kiln.reg (c : Kiln) (n : Nat) : Nat := (tgetD c.a (n % 32) 0).toNat
/-- A register write pending. -/
def kput (s : State) (n v : Nat) : State := { s with kwrites := s.kwrites ++ [(0, n % 32, BitVec.ofNat 32 v)] }
/-- The bundle that follows. -/
def kgo (s : State) (t : BitVec 12) : State := { s with knext := some t }
/-- The fc that a bundle takes, beyond which the core is busy. -/
def kbusy (s : State) (k fc : Nat) : State := s.modKiln k (fun c => { c with busy := s.time + fc * 110 })

/-! ## Transfers -/

def execKcNext (s : State) : Out := .next (onKiln s (fun k _ => kbusy s k 1))
def execKcJmp (t : BitVec 12) (s : State) : Out := .next (onKiln s (fun k _ => kgo (kbusy s k 1) t))
def execKcBrz (a : BitVec 5) (t : BitVec 12) (s : State) : Out :=
  .next (onKiln s (fun k c => if c.reg a.toNat = 0 then kgo (kbusy s k 1) t else kbusy s k 1))
def execKcBrnz (a : BitVec 5) (t : BitVec 12) (s : State) : Out :=
  .next (onKiln s (fun k c => if c.reg a.toNat ≠ 0 then kgo (kbusy s k 1) t else kbusy s k 1))
def execKcCall (a : BitVec 5) (t : BitVec 12) (s : State) : Out :=
  .next (onKiln s (fun k c => kgo (kput (kbusy s k 1) a.toNat (c.pc.toNat + 1)) t))
def execKcRet (a : BitVec 5) (s : State) : Out := .next (onKiln s (fun k c => kgo (kbusy s k 1) (BitVec.ofNat 12 (c.reg a.toNat))))

/-! ## MEMWIN (R76, R438) -/

/-- The physical address that a port of MEMWIN reaches: none where the access is refused. -/
def memwinPa (s : State) (k : Nat) (port : BitVec 10) (write : Bool) : Option Nat :=
  let c := s.kiln k
  let base := c.memwin.toNat / 4096 * 4096 % 2 ^ 57
  let a := base + 8 * (port.toNat - 0x200)
  if c.memwin.getLsbD 0 then (match translateHub s c.memwinAs.toNat a write with | .ok pa _ => some pa | _ => none)
  else if inDevice a 8 || inHost a 8 || (mmioBase ≤ a && a + 8 ≤ mmioBase + 2 ^ 26) then some a
  else none

/-- The eight bytes that a port of MEMWIN reads; none where the read is refused. -/
def memwinRead (s : State) (k : Nat) (port : BitVec 10) : Option Nat :=
  match memwinPa s k port false with
  | some pa =>
    if mmioBase ≤ pa ∧ pa < mmioBase + 2 ^ 26 ∧ !inMailbox pa then some (readHalf s (pa - mmioBase) + readHalf s (pa - mmioBase + 4) * 2 ^ 32)
    else if poisoned s pa 8 then none else some (physNat s pa 8)
  | none => none

/-- What a read through MEMWIN leaves: one of device memory recalls the owner of its line (R262). -/
def memwinNote (s : State) (k : Nat) (port : BitVec 10) : State :=
  match memwinPa s k port false with
  | some pa => if inDevice pa 8 then recallLines s 192 pa 8 else s
  | none => s

/-- Eight bytes written through MEMWIN: none where the write is refused. -/
def memwinWrite (s : State) (k : Nat) (port : BitVec 10) (v : W64) : Option State :=
  match memwinPa s k port true with
  | some pa =>
    if mmioBase ≤ pa ∧ pa < mmioBase + 2 ^ 26 ∧ !inMailbox pa then
      let off := pa - mmioBase
      match readHub s off with
      | some (_, true) => some (writeBy s (.kiln k) off v)
      | some (_, false) =>
        let s := writeBy s (.kiln k) off v
        some (match readHub s (off + 4) with | some (_, false) => writeBy s (.kiln k) (off + 4) (v >>> 32) | _ => s)
      | none => some s
    else if unreachable s pa then none else some (deviceWrite s 192 pa (leBytes 8 v.toNat))
  | none => none

/-- A pair of registers of a kiln core, low word first. -/
def putPair (s : State) (k : Nat) (ra : BitVec 5) (v : Nat) : State :=
  s.modKiln k (fun c => { c with a := tput (tput c.a ra.toNat (BitVec.ofNat 32 v)) ((ra.toNat + 1) % 32) (BitVec.ofNat 32 (v / 2 ^ 32)) })

/-- An access through the window, apart from the bundle that makes it. -/
def execMemwinAccess (k : Nat) (port : BitVec 10) (ra : BitVec 5) (wr : Option W64) (s : State) : Out :=
  .next (if port.toNat < 0x200 ∨ 4 ≤ k then s
    else match wr with
      | none => match memwinRead s k port with
        | some v => putPair (memwinNote s k port) k ra v
        | none => setBadIo (putPair s k ra (2 ^ 64 - 1)) k
      | some v => (memwinWrite s k port v).getD (setBadIo s k))

/-! ## Ports (R76) -/

/-- Kiln cores that a port names; none outside the table. -/
def portCores (port : Nat) : Option (List Nat) :=
  match port with
  | 0x000 | 0x001 | 0x040 | 0x041 | 0x042 => some [0, 1, 2, 3]
  | 0x010 | 0x011 | 0x012 | 0x013 => some [0]
  | 0x020 | 0x021 | 0x022 => some [1]
  | 0x024 => some [1, 2]
  | 0x030 | 0x031 => some [2]
  | 0x050 => some [3]
  | p => if 0x100 ≤ p then some [0, 1, 2, 3] else none

/-- The offset of the hub control window that a port reaches. -/
def hubPort (c : Kiln) (port : Nat) : Nat := c.hubwin.toNat * 1024 + 4 * (port - 0x100)

/-- The value of a port that the core may read, MEMWIN apart. -/
def portValue (s : State) (k port : Nat) : Nat :=
  let c := s.kiln k
  match port with
  | 0x000 => (framePos s).toNat
  | 0x001 => k + bitN s.fw.slot 2
  | 0x020 => s.fw.placeWt.toNat
  | 0x021 => s.fw.ageLimit
  | 0x022 => s.fw.balWindow.toNat + bitN s.fw.balEn 6
  | 0x031 => s.fw.oswdog
  | 0x040 => c.hubwin.toNat * 1024
  | 0x041 => c.memwin.toNat
  | 0x042 => c.memwinAs.toNat
  | p =>
    if p < 0x100 then 0
    else match readHub s (hubPort c p) with
      | some (v, _) => v
      | none => readHalf s (hubPort c p)

/-- `IORD`: a refused port reads 0 and sets BADIO; a refused read of memory returns all ones. -/
def execKcIord (a : BitVec 5) (port : BitVec 10) (s : State) : Out :=
  .next (onKiln s (fun k _ =>
    let put (s : State) (v : Nat) : State := kput (kput s a.toNat v) (a.toNat + 1) (v / 2 ^ 32)
    if 0x200 ≤ port.toNat then
      let s := kbusy s k 256
      match memwinRead s k port with
      | some v => put (memwinNote s k port) v
      | none => setBadIo (put s (2 ^ 64 - 1)) k
    else
      let s := kbusy s k 4
      if ((portCores port.toNat).getD []).contains k then put s (portValue s k port.toNat) else setBadIo (put s 0) k))

/-- A write of DSP_SUBMIT_Q (R76). -/
def writeSubmit (s : State) (v : W64) : State :=
  match field s.fw.submit.toNat 57 4 with
  | 0 => goesTo s (execDspSubmitLaunch v s)
  | 1 => goesTo s (execDspSubmitGraph v s)
  | 2 => goesTo s (execDspSubmitPerform v s)
  | 3 => goesTo s (execDspSubmitReject v s)
  | _ => setBadIo s 0

/-- A write of HEAD_CMD (R193). -/
def writeHeadCmd (s : State) (v : W64) : State :=
  match field v.toNat 0 3 with
  | 1 => goesTo s (execHeadCmdSetTiming v s)
  | 2 => goesTo s (execHeadCmdLoadKernel v s)
  | 3 => goesTo s (execHeadCmdOff v s)
  | 4 => goesTo s (execHeadCmdRefuse v s)
  | _ => setBadIo s 3

/-- A write of a port that the core may write, MEMWIN apart. -/
def portWrite (s : State) (k port : Nat) (v : W64) : State :=
  let n := v.toNat
  match port with
  | 0x010 => if 4 ≤ field n 57 4 then setBadIo s 0 else s.modFw (fun f => { f with submit := v.setWidth 61 })
  | 0x011 => writeSubmit s v
  | 0x012 => goesTo s (execDspCancel v s)
  | 0x013 => goesTo s (execDspPrio v s)
  | 0x020 => s.modFw (fun f => { f with placeWt := v.setWidth 16 })
  | 0x021 => goesTo s (execAgeLimitWrite v s)
  | 0x022 => s.modFw (fun f => { f with balWindow := v.setWidth 6, balEn := bit n 6 })
  | 0x024 => writePreempt s n
  | 0x030 => if bit n 12 then goesTo s (execFqReplayFail (v.setWidth 12) s) else goesTo s (execFqReplay (v.setWidth 12) s)
  | 0x031 => goesTo s (execOswdogWrite v s)
  | 0x040 => s.modKiln k (fun c => { c with hubwin := BitVec.ofNat 14 (field n 10 14) })
  | 0x041 => s.modKiln k (fun c => { c with memwin := BitVec.ofNat 64 (n % 2 + field n 12 45 * 4096) })
  | 0x042 => s.modKiln k (fun c => { c with memwinAs := v.setWidth 16 })
  | 0x050 => writeHeadCmd s v
  | p =>
    if p < 0x100 then s
    else
      let off := hubPort (s.kiln k) p
      match readHub s off with
      | some (_, wide) => writeBy s (.kiln k) off (if wide then v else (v.setWidth 32).setWidth 64)
      | none => match readHub s (off - 4) with
        | some (_, true) => if 4 ≤ off then setBadIo s k else s
        | _ => s

def execKcIowr (a : BitVec 5) (port : BitVec 10) (s : State) : Out :=
  .next (onKiln s (fun k c =>
    let v : W64 := BitVec.ofNat 64 (c.reg a.toNat + c.reg (a.toNat + 1) * 2 ^ 32)
    let s := kbusy s k 2
    if 0x200 ≤ port.toNat then (memwinWrite s k port v).getD (setBadIo s k)
    else if ((portCores port.toNat).getD []).contains k then portWrite s k port.toNat v
    else setBadIo s k))

/-! ## Waits and events -/

/-- When a `WAITCYC` that begins now ends: the first fc after it begins whose position in the minor frame is `off`; none before boot completion for any
other offset than 0. -/
def waitEnd (s : State) (off : Nat) : Option Nat :=
  if s.fw.booted then
    let fc := (s.time - s.fw.bootTime) / 110
    let ahead := (off + 1023 - fc % 1024) % 1024 + 1
    some (s.fw.bootTime + (fc + ahead) * 110)
  else if off = 0 then some (s.time + 110)
  else none

/-- The first slot of a slot table from place `i` of minor frame `f` on, within one major frame (R70). -/
def slotFrom (t : List (List KSlot)) : Nat → Nat → Nat → Option (Nat × Nat × KSlot)
  | 0, _, _ => none
  | fuel + 1, f, i =>
    match ((t[f % 64]?).getD [])[i]? with
    | some x => some (f, i, x)
    | none => slotFrom t fuel (f + 1) 0

/-- The slot that a `WAITCYC` to an offset begins, where its start has come while the slot before it ran (R70): its minor frame, its place, and whether
it is late. A `WAITCYC` that begins in the fc of the slot's start is not. (DESIGN CHOICE, log 5.) -/
def slotDue (s : State) (c : Kiln) (off : BitVec 10) : Option (Nat × Nat × Bool) :=
  if !s.fw.booted ∨ !c.inSlot then none
  else match slotFrom c.slots 65 c.nextMinor c.nextSlot with
    | some (f, i, x) =>
      let at_ := f * 1024 + x.off.toNat
      if x.off = off ∧ at_ ≤ (framePos s).toNat then some (f, i, decide (at_ < (framePos s).toNat)) else none
    | none => none

/-- A kiln core whose `WAITCYC` ends at a time: the next slot of its table is the first that starts later. The spec neither forbids nor orders two slots of a
minor frame that start together, or a table that does not ascend: every slot up to the offset reached counts as begun, so that the second waits for the next
minor frame. (DESIGN CHOICE, log 71.) -/
def waitUntil (s : State) (k t : Nat) : State :=
  s.modKiln k (fun c =>
    let n := (t - s.fw.bootTime) / 110
    { c with
      busy := t, waitcyc := none, inSlot := s.fw.booted, nextMinor := n / 1024
      nextSlot := (((c.slots[n / 1024 % 64]?).getD []).takeWhile (fun x => x.off.toNat ≤ n % 1024)).length })

/-- `WAITCYC`: it ends at the first fc whose position in the minor frame is its offset, and one to a minor-frame boundary is the wait that R71 requires (R438).
One that begins a slot whose start has passed ends with its own fc, since R70 has a late slot start at the end of the slot before it, and a late slot counts
one in SLIP. (DEDUCED, log 5.) -/
def execKcWaitcyc (off : BitVec 10) (s : State) : Out :=
  .next (onKiln s (fun k c =>
    let minor (t : Nat) (s : State) : State := if off = 0 then s.modKiln k (fun c => { c with lastMinor := t }) else s
    match slotDue s c off with
    | some (f, i, late) =>
      minor (s.time + 110) (s.modKiln k (fun c =>
        { c with busy := s.time + 110, nextMinor := f, nextSlot := i + 1, slip := if late then satInc c.slip else c.slip }))
    | none =>
      match waitEnd s off.toNat with
      | some t => minor t (waitUntil s k t)
      | none => s.modKiln k (fun c => { c with waitcyc := some off })))

/-- The kiln core that owns an event queue (R72). -/
def queueOwner (src : Nat) : Nat := match src with | 0 | 1 | 2 => 0 | 3 => 1 | 4 | 5 => 2 | _ => 3

/-- The oldest packet record popped by KC0: the packet it names is held by KC0 (R73, R76). -/
def popPacket (s : State) : State :=
  let tag := (s.fw.pktTags.head?).join
  let s := s.modFw (fun f => { f with pktTags := f.pktTags.drop 1 })
  match tag with
  | some (qid, i) => s.modQueue qid (fun q => { q with buf := q.buf.map (fun p => if p.idx = i ∧ p.place = .posted then { p with place := .held } else p) })
  | none => s

/-- A record that says that a queue is empty: source 0xFF, its other bits free (log 3). -/
def emptyRecord (s : State) : Nat := 0xFF + (Config.freeKind s.free).toNat * 2 ^ 8 + (Config.freePayload s.free).toNat % 2 ^ 16 * 2 ^ 16 + (Config.freePayload (s.free + 1)).toNat * 2 ^ 32

def execKcEvpop (a : BitVec 5) (src : BitVec 3) (s : State) : Out :=
  .next (onKiln s (fun k _ =>
    let q := src.toNat
    let put (s : State) (v : Nat) : State :=
      kput (kput (kput (kput s a.toNat v) (a.toNat + 1) (v / 2 ^ 32)) (a.toNat + 2) (v / 2 ^ 64)) (a.toNat + 3) (v / 2 ^ 96)
    let s := kbusy s k 2
    let none_ (s : State) : State := { put s (emptyRecord s) with free := s.free + 2 }
    if queueOwner q ≠ k then none_ (setBadIo s k)
    else match s.events q with
      | [] => none_ s
      | r :: rest =>
        let s := put (s.setEvents q rest) r.toNat
        let s := if q = 0 then popPacket s else s
        let s := if q = 1 ∧ rest.length + 64 ≤ evDepth 1 then s.modFw (fun f => { f with acctHeld := false }) else s
        if q = 2 then retryEnds s else s))

end Sys2Proof.Machine
end

