-- ==== Sys2Proof/Machine/Dispatch.lean ====
section
/-! DEFINITION. One arm per constructor of `Instr`: the meaning it calls. -/
namespace Sys2Proof.Machine

def exec (i : Instr) (s : State) : Host.Outcome State Fault Refusal :=
  match i with
  | .nop x => Sys2Proof.Machine.execNop x s
  | .bra x => Sys2Proof.Machine.execBra x s
  | .brc x => Sys2Proof.Machine.execBrc x s
  | .brx x => Sys2Proof.Machine.execBrx x s
  | .call x => Sys2Proof.Machine.execCall x s
  | .callx x => Sys2Proof.Machine.execCallx x s
  | .ret x => Sys2Proof.Machine.execRet x s
  | .exit x => Sys2Proof.Machine.execExit x s
  | .trap x => Sys2Proof.Machine.execTrap x s
  | .bkpt x => Sys2Proof.Machine.execBkpt x s
  | .yield x => Sys2Proof.Machine.execYield x s
  | .sleep x => Sys2Proof.Machine.execSleep x s
  | .gets x => Sys2Proof.Machine.execGets x s
  | .sets x => Sys2Proof.Machine.execSets x s
  | .mjoin x => Sys2Proof.Machine.execMjoin x s
  | .mleave x => Sys2Proof.Machine.execMleave x s
  | .mwait x => Sys2Proof.Machine.execMwait x s
  | .mset x => Sys2Proof.Machine.execMset x s
  | .mget x => Sys2Proof.Machine.execMget x s
  | .mbal x => Sys2Proof.Machine.execMbal x s
  | .mlog x => Sys2Proof.Machine.execMlog x s
  | .mpop x => Sys2Proof.Machine.execMpop x s
  | .mfirst x => Sys2Proof.Machine.execMfirst x s
  | .mov x => Sys2Proof.Machine.execMov x s
  | .movi x => Sys2Proof.Machine.execMovi x s
  | .iadd x => Sys2Proof.Machine.execIadd x s
  | .isub x => Sys2Proof.Machine.execIsub x s
  | .imul x => Sys2Proof.Machine.execImul x s
  | .imulh x => Sys2Proof.Machine.execImulh x s
  | .imad x => Sys2Proof.Machine.execImad x s
  | .imin x => Sys2Proof.Machine.execImin x s
  | .imax x => Sys2Proof.Machine.execImax x s
  | .iabs x => Sys2Proof.Machine.execIabs x s
  | .icmp x => Sys2Proof.Machine.execIcmp x s
  | .sel x => Sys2Proof.Machine.execSel x s
  | .and x => Sys2Proof.Machine.execAnd x s
  | .or x => Sys2Proof.Machine.execOr x s
  | .xor x => Sys2Proof.Machine.execXor x s
  | .andn x => Sys2Proof.Machine.execAndn x s
  | .not x => Sys2Proof.Machine.execNot x s
  | .shl x => Sys2Proof.Machine.execShl x s
  | .shr x => Sys2Proof.Machine.execShr x s
  | .sar x => Sys2Proof.Machine.execSar x s
  | .rot x => Sys2Proof.Machine.execRot x s
  | .bfe x => Sys2Proof.Machine.execBfe x s
  | .bfi x => Sys2Proof.Machine.execBfi x s
  | .popc x => Sys2Proof.Machine.execPopc x s
  | .clz x => Sys2Proof.Machine.execClz x s
  | .brev x => Sys2Proof.Machine.execBrev x s
  | .lea x => Sys2Proof.Machine.execLea x s
  | .shfl x => Sys2Proof.Machine.execShfl x s
  | .iscan x => Sys2Proof.Machine.execIscan x s
  | .iredc x => Sys2Proof.Machine.execIredc x s
  | .vtos x => Sys2Proof.Machine.execVtos x s
  | .stov x => Sys2Proof.Machine.execStov x s
  | .fadd x => Sys2Proof.Machine.execFadd x s
  | .fsub x => Sys2Proof.Machine.execFsub x s
  | .fmul x => Sys2Proof.Machine.execFmul x s
  | .ffma x => Sys2Proof.Machine.execFfma x s
  | .fmin x => Sys2Proof.Machine.execFmin x s
  | .fmax x => Sys2Proof.Machine.execFmax x s
  | .fcmp x => Sys2Proof.Machine.execFcmp x s
  | .fclass x => Sys2Proof.Machine.execFclass x s
  | .fredc x => Sys2Proof.Machine.execFredc x s
  | .frcp x => Sys2Proof.Machine.execFrcp x s
  | .frsq x => Sys2Proof.Machine.execFrsq x s
  | .fsqrt x => Sys2Proof.Machine.execFsqrt x s
  | .fdiv x => Sys2Proof.Machine.execFdiv x s
  | .fexp2 x => Sys2Proof.Machine.execFexp2 x s
  | .flog2 x => Sys2Proof.Machine.execFlog2 x s
  | .fsin x => Sys2Proof.Machine.execFsin x s
  | .fcos x => Sys2Proof.Machine.execFcos x s
  | .ftanh x => Sys2Proof.Machine.execFtanh x s
  | .ferf x => Sys2Proof.Machine.execFerf x s
  | .cvt x => Sys2Proof.Machine.execCvt x s
  | .cvti x => Sys2Proof.Machine.execCvti x s
  | .qnt x => Sys2Proof.Machine.execQnt x s
  | .pack x => Sys2Proof.Machine.execPack x s
  | .unpk x => Sys2Proof.Machine.execUnpk x s
  | .attri x => Sys2Proof.Machine.execAttri x s
  | .texs x => Sys2Proof.Machine.execTexs x s
  | .texl x => Sys2Proof.Machine.execTexl x s
  | .texg x => Sys2Proof.Machine.execTexg x s
  | .tbld x => Sys2Proof.Machine.execTbld x s
  | .tbst x => Sys2Proof.Machine.execTbst x s
  | .emitv x => Sys2Proof.Machine.execEmitv x s
  | .emitp x => Sys2Proof.Machine.execEmitp x s
  | .cover x => Sys2Proof.Machine.execCover x s
  | .kill x => Sys2Proof.Machine.execKill x s
  | .ld x => Sys2Proof.Machine.execLd x s
  | .st x => Sys2Proof.Machine.execSt x s
  | .ldu x => Sys2Proof.Machine.execLdu x s
  | .ldl x => Sys2Proof.Machine.execLdl x s
  | .stl x => Sys2Proof.Machine.execStl x s
  | .ldblk x => Sys2Proof.Machine.execLdblk x s
  | .pref x => Sys2Proof.Machine.execPref x s
  | .wbl x => Sys2Proof.Machine.execWbl x s
  | .invl x => Sys2Proof.Machine.execInvl x s
  | .fence x => Sys2Proof.Machine.execFence x s
  | .atom x => Sys2Proof.Machine.execAtom x s
  | .atomf x => Sys2Proof.Machine.execAtomf x s
  | .cas x => Sys2Proof.Machine.execCas x s
  | .red x => Sys2Proof.Machine.execRed x s
  | .atoml x => Sys2Proof.Machine.execAtoml x s
  | .bar x => Sys2Proof.Machine.execBar x s
  | .cbar x => Sys2Proof.Machine.execCbar x s
  | .flaginc x => Sys2Proof.Machine.execFlaginc x s
  | .flagwait x => Sys2Proof.Machine.execFlagwait x s
  | .osenter x => Sys2Proof.Machine.execOsenter x s
  | .osleave x => Sys2Proof.Machine.execOsleave x s
  | .osleaveLast x => Sys2Proof.Machine.execOsleaveLast x s
  | .osskip x => Sys2Proof.Machine.execOsskip x s
  | .osqry x => Sys2Proof.Machine.execOsqry x s
  | .publish x => Sys2Proof.Machine.execPublish x s
  | .ringput x => Sys2Proof.Machine.execRingput x s
  | .ringget x => Sys2Proof.Machine.execRingget x s
  | .ringrel x => Sys2Proof.Machine.execRingrel x s
  | .reggive x => Sys2Proof.Machine.execReggive x s
  | .regclaim x => Sys2Proof.Machine.execRegclaim x s
  | .taskarm x => Sys2Proof.Machine.execTaskarm x s
  | .taskarmDec x => Sys2Proof.Machine.execTaskarmDec x s
  | .taskend x => Sys2Proof.Machine.execTaskend x s
  | .taskendAbort x => Sys2Proof.Machine.execTaskendAbort x s
  | .ckick x => Sys2Proof.Machine.execCkick x s
  | .bowait x => Sys2Proof.Machine.execBowait x s
  | .waitall x => Sys2Proof.Machine.execWaitall x s
  | .waitany x => Sys2Proof.Machine.execWaitany x s
  | .ffready x => Sys2Proof.Machine.execFfready x s
  | .tagclr x => Sys2Proof.Machine.execTagclr x s
  | .launch x => Sys2Proof.Machine.execLaunch x s
  | .mma x => Sys2Proof.Machine.execMma x s
  | .mmas x => Sys2Proof.Machine.execMmas x s
  | .acinit x => Sys2Proof.Machine.execAcinit x s
  | .acnorm x => Sys2Proof.Machine.execAcnorm x s
  | .acdrain x => Sys2Proof.Machine.execAcdrain x s
  | .acload x => Sys2Proof.Machine.execAcload x s
  | .acrd x => Sys2Proof.Machine.execAcrd x s
  | .acguard x => Sys2Proof.Machine.execAcguard x s
  | .zld x => Sys2Proof.Machine.execZld x s
  | .zst x => Sys2Proof.Machine.execZst x s
  | .zmulp2 x => Sys2Proof.Machine.execZmulp2 x s
  | .zmulb x => Sys2Proof.Machine.execZmulb x s
  | .zcvt x => Sys2Proof.Machine.execZcvt x s
  | .zmax x => Sys2Proof.Machine.execZmax x s
  | .ztag x => Sys2Proof.Machine.execZtag x s
  | .zmovR x => Sys2Proof.Machine.execZmovR x s
  | .zmovW x => Sys2Proof.Machine.execZmovW x s
  | .zsave x => Sys2Proof.Machine.execZsave x s
  | .zrest x => Sys2Proof.Machine.execZrest x s
  | .spop x => Sys2Proof.Machine.execSpop x s
  | .sqry x => Sys2Proof.Machine.execSqry x s
  | .sqnop => Sys2Proof.Machine.execSqnop s
  | .sqloop q t => Sys2Proof.Machine.execSqloop q t s
  | .sqbr q cond t => Sys2Proof.Machine.execSqbr q cond t s
  | .sqset q imm => Sys2Proof.Machine.execSqset q imm s
  | .sqadd q imm => Sys2Proof.Machine.execSqadd q imm s
  | .swSync => Sys2Proof.Machine.execSwSync s
  | .banklock n banks => Sys2Proof.Machine.execBanklock n banks s
  | .bandend => Sys2Proof.Machine.execBandend s
  | .swScalarNop => Sys2Proof.Machine.execSwScalarNop s
  | .swAddReg d a b => Sys2Proof.Machine.execSwAddReg d a b s
  | .swAddImm d a imm => Sys2Proof.Machine.execSwAddImm d a imm s
  | .swSubReg d a b => Sys2Proof.Machine.execSwSubReg d a b s
  | .swSubImm d a imm => Sys2Proof.Machine.execSwSubImm d a imm s
  | .swMulReg d a b => Sys2Proof.Machine.execSwMulReg d a b s
  | .swMulImm d a imm => Sys2Proof.Machine.execSwMulImm d a imm s
  | .swAndReg d a b => Sys2Proof.Machine.execSwAndReg d a b s
  | .swAndImm d a imm => Sys2Proof.Machine.execSwAndImm d a imm s
  | .swOrReg d a b => Sys2Proof.Machine.execSwOrReg d a b s
  | .swOrImm d a imm => Sys2Proof.Machine.execSwOrImm d a imm s
  | .swXorReg d a b => Sys2Proof.Machine.execSwXorReg d a b s
  | .swXorImm d a imm => Sys2Proof.Machine.execSwXorImm d a imm s
  | .swShlReg d a b => Sys2Proof.Machine.execSwShlReg d a b s
  | .swShlImm d a imm => Sys2Proof.Machine.execSwShlImm d a imm s
  | .swShrReg d a b => Sys2Proof.Machine.execSwShrReg d a b s
  | .swShrImm d a imm => Sys2Proof.Machine.execSwShrImm d a imm s
  | .swSarReg d a b => Sys2Proof.Machine.execSwSarReg d a b s
  | .swSarImm d a imm => Sys2Proof.Machine.execSwSarImm d a imm s
  | .swMovi d imm => Sys2Proof.Machine.execSwMovi d imm s
  | .swMovh d imm => Sys2Proof.Machine.execSwMovh d imm s
  | .swCmpReg d a cond b => Sys2Proof.Machine.execSwCmpReg d a cond b s
  | .swCmpImm d a cond imm => Sys2Proof.Machine.execSwCmpImm d a cond imm s
  | .swSel d a c b => Sys2Proof.Machine.execSwSel d a c b s
  | .lds d a imm => Sys2Proof.Machine.execLds d a imm s
  | .sts d a imm => Sys2Proof.Machine.execSts d a imm s
  | .pred p imm => Sys2Proof.Machine.execPred p imm s
  | .swVectorNop => Sys2Proof.Machine.execSwVectorNop s
  | .vadd x => Sys2Proof.Machine.execVadd x s
  | .vsub x => Sys2Proof.Machine.execVsub x s
  | .vmul x => Sys2Proof.Machine.execVmul x s
  | .vmin x => Sys2Proof.Machine.execVmin x s
  | .vmax x => Sys2Proof.Machine.execVmax x s
  | .vand x => Sys2Proof.Machine.execVand x s
  | .vor x => Sys2Proof.Machine.execVor x s
  | .vxor x => Sys2Proof.Machine.execVxor x s
  | .vcmp x => Sys2Proof.Machine.execVcmp x s
  | .vshl x => Sys2Proof.Machine.execVshl x s
  | .vshr x => Sys2Proof.Machine.execVshr x s
  | .vfma x => Sys2Proof.Machine.execVfma x s
  | .vsel x => Sys2Proof.Machine.execVsel x s
  | .vcvt x => Sys2Proof.Machine.execVcvt x s
  | .vperm x => Sys2Proof.Machine.execVperm x s
  | .vbcast x => Sys2Proof.Machine.execVbcast x s
  | .mxm x => Sys2Proof.Machine.execMxm x s
  | .swSfNop => Sys2Proof.Machine.execSwSfNop s
  | .vrcp x => Sys2Proof.Machine.execVrcp x s
  | .vrsq x => Sys2Proof.Machine.execVrsq x s
  | .vexp2 x => Sys2Proof.Machine.execVexp2 x s
  | .vlog2 x => Sys2Proof.Machine.execVlog2 x s
  | .swRed x => Sys2Proof.Machine.execSwRed x s
  | .psmov x => Sys2Proof.Machine.execPsmov x s
  | .swMemoryNop => Sys2Proof.Machine.execSwMemoryNop s
  | .spld x => Sys2Proof.Machine.execSpld x s
  | .spst x => Sys2Proof.Machine.execSpst x s
  | .gath x => Sys2Proof.Machine.execGath x s
  | .fetch x => Sys2Proof.Machine.execFetch x s
  | .lineout x => Sys2Proof.Machine.execLineout x s
  | .poseget x => Sys2Proof.Machine.execPoseget x s
  | .srcgen x => Sys2Proof.Machine.execSrcgen x s
  | .mxl x => Sys2Proof.Machine.execMxl x s
  | .sixcfg x => Sys2Proof.Machine.execSixcfg x s
  | .swSyncNop => Sys2Proof.Machine.execSwSyncNop s
  | .fwait n f => Sys2Proof.Machine.execFwait n f s
  | .fpost n f => Sys2Proof.Machine.execFpost n f s
  | .fclr f => Sys2Proof.Machine.execFclr f s
  | .kcNext => Sys2Proof.Machine.execKcNext s
  | .kcJmp t => Sys2Proof.Machine.execKcJmp t s
  | .kcBrz a t => Sys2Proof.Machine.execKcBrz a t s
  | .kcBrnz a t => Sys2Proof.Machine.execKcBrnz a t s
  | .kcCall a t => Sys2Proof.Machine.execKcCall a t s
  | .kcRet a => Sys2Proof.Machine.execKcRet a s
  | .kcIord a port => Sys2Proof.Machine.execKcIord a port s
  | .kcIowr a port => Sys2Proof.Machine.execKcIowr a port s
  | .kcWaitcyc off => Sys2Proof.Machine.execKcWaitcyc off s
  | .kcEvpop a src => Sys2Proof.Machine.execKcEvpop a src s
  | .moduleReset => Sys2Proof.Machine.execModuleReset s
  | .inputVoltageFault => Sys2Proof.Machine.execInputVoltageFault s
  | .thermalTrip => Sys2Proof.Machine.execThermalTrip s
  | .thermalSensorReading unit kind payload => Sys2Proof.Machine.execThermalSensorReading unit kind payload s
  | .moduleBoot => Sys2Proof.Machine.execModuleBoot s
  | .bootComplete => Sys2Proof.Machine.execBootComplete s
  | .surpriseRemoval => Sys2Proof.Machine.execSurpriseRemoval s
  | .displayCreditWindow chan => Sys2Proof.Machine.execDisplayCreditWindow chan s
  | .classShareWindow unit => Sys2Proof.Machine.execClassShareWindow unit s
  | .gddrCrcError chan fails pa => Sys2Proof.Machine.execGddrCrcError chan fails pa s
  | .eccScrub corrected bad => Sys2Proof.Machine.execEccScrub corrected bad s
  | .pageRetirement frame => Sys2Proof.Machine.execPageRetirement frame s
  | .channelEvacuation chan => Sys2Proof.Machine.execChannelEvacuation chan s
  | .evacDone chan => Sys2Proof.Machine.execEvacDone chan s
  | .memRsvCtlWrite by_ val => Sys2Proof.Machine.execMemRsvCtlWrite by_ val s
  | .iclLaneFail port => Sys2Proof.Machine.execIclLaneFail port s
  | .iclRetrainDone port => Sys2Proof.Machine.execIclRetrainDone port s
  | .iclPortFail port => Sys2Proof.Machine.execIclPortFail port s
  | .iclBothPortsFail => Sys2Proof.Machine.execIclBothPortsFail s
  | .ethLaneFail port => Sys2Proof.Machine.execEthLaneFail port s
  | .iftMessageReceive m => Sys2Proof.Machine.execIftMessageReceive m s
  | .iftAck copy msg => Sys2Proof.Machine.execIftAck copy msg s
  | .iftResendTimeout copy msg => Sys2Proof.Machine.execIftResendTimeout copy msg s
  | .iftRtoWrite val => Sys2Proof.Machine.execIftRtoWrite val s
  | .coreRetire core => Sys2Proof.Machine.execCoreRetire core s
  | .coreRetireNoSpare core => Sys2Proof.Machine.execCoreRetireNoSpare core s
  | .sliceRetire slice => Sys2Proof.Machine.execSliceRetire slice s
  | .sliceLossNoSpare slice => Sys2Proof.Machine.execSliceLossNoSpare slice s
  | .serviceRecordPost r => Sys2Proof.Machine.execServiceRecordPost r s
  | .svcRingWrite val => Sys2Proof.Machine.execSvcRingWrite val s
  | .svcRidxWrite val => Sys2Proof.Machine.execSvcRidxWrite val s
  | .modQuiesceGo => Sys2Proof.Machine.execModQuiesceGo s
  | .modulePark => Sys2Proof.Machine.execModulePark s
  | .modResetKey key => Sys2Proof.Machine.execModResetKey key s
  | .attCtlGo => Sys2Proof.Machine.execAttCtlGo s
  | .attQuoteComplete => Sys2Proof.Machine.execAttQuoteComplete s
  | .fwUpdGo => Sys2Proof.Machine.execFwUpdGo s
  | .fwUpdateVerified => Sys2Proof.Machine.execFwUpdateVerified s
  | .fwBankChange => Sys2Proof.Machine.execFwBankChange s
  | .kilnWatchdogRestart k => Sys2Proof.Machine.execKilnWatchdogRestart k s
  | .qtabBaseWrite val => Sys2Proof.Machine.execQtabBaseWrite val s
  | .qmapMap qid => Sys2Proof.Machine.execQmapMap qid s
  | .qmapUnmap qid => Sys2Proof.Machine.execQmapUnmap qid s
  | .qmapRestart qid => Sys2Proof.Machine.execQmapRestart qid s
  | .qmapReload qid => Sys2Proof.Machine.execQmapReload qid s
  | .scanCtlWrite val => Sys2Proof.Machine.execScanCtlWrite val s
  | .scannerPoll => Sys2Proof.Machine.execScannerPoll s
  | .pktNop qid => Sys2Proof.Machine.execPktNop qid s
  | .pktLaunch qid => Sys2Proof.Machine.execPktLaunch qid s
  | .pktGraph qid => Sys2Proof.Machine.execPktGraph qid s
  | .pktCopy qid => Sys2Proof.Machine.execPktCopy qid s
  | .pktWait qid => Sys2Proof.Machine.execPktWait qid s
  | .waitRecheck qid => Sys2Proof.Machine.execWaitRecheck qid s
  | .waitTimeout qid => Sys2Proof.Machine.execWaitTimeout qid s
  | .pktSignal qid => Sys2Proof.Machine.execPktSignal qid s
  | .pktPhase qid => Sys2Proof.Machine.execPktPhase qid s
  | .pktJobctlCancel qid => Sys2Proof.Machine.execPktJobctlCancel qid s
  | .pktJobctlSetPriority qid => Sys2Proof.Machine.execPktJobctlSetPriority qid s
  | .pktPresent qid => Sys2Proof.Machine.execPktPresent qid s
  | .pktFence qid => Sys2Proof.Machine.execPktFence qid s
  | .dispatcherDecision => Sys2Proof.Machine.execDispatcherDecision s
  | .groupComplete gid => Sys2Proof.Machine.execGroupComplete gid s
  | .energyRebalance region => Sys2Proof.Machine.execEnergyRebalance region s
  | .waysClassWrite n val => Sys2Proof.Machine.execWaysClassWrite n val s
  | .bwClassWrite n val => Sys2Proof.Machine.execBwClassWrite n val s
  | .preemptSuspend lcnt => Sys2Proof.Machine.execPreemptSuspend lcnt s
  | .preemptRequeue lcnt => Sys2Proof.Machine.execPreemptRequeue lcnt s
  | .preemptResume lcnt => Sys2Proof.Machine.execPreemptResume lcnt s
  | .clusterSave cluster => Sys2Proof.Machine.execClusterSave cluster s
  | .savePoolWrite size val => Sys2Proof.Machine.execSavePoolWrite size val s
  | .dspSubmitLaunch val => Sys2Proof.Machine.execDspSubmitLaunch val s
  | .dspSubmitGraph val => Sys2Proof.Machine.execDspSubmitGraph val s
  | .dspSubmitPerform val => Sys2Proof.Machine.execDspSubmitPerform val s
  | .dspSubmitReject val => Sys2Proof.Machine.execDspSubmitReject val s
  | .dspCancel val => Sys2Proof.Machine.execDspCancel val s
  | .dspPrio val => Sys2Proof.Machine.execDspPrio val s
  | .ageLimitWrite val => Sys2Proof.Machine.execAgeLimitWrite val s
  | .oswdogWrite val => Sys2Proof.Machine.execOswdogWrite val s
  | .fqReplay entry => Sys2Proof.Machine.execFqReplay entry s
  | .fqReplayFail entry => Sys2Proof.Machine.execFqReplayFail entry s
  | .memwinAccess k port ra wr => Sys2Proof.Machine.execMemwinAccess k port ra wr s
  | .taskDecideRetry region => Sys2Proof.Machine.execTaskDecideRetry region s
  | .taskDecideCancelSubgraph region => Sys2Proof.Machine.execTaskDecideCancelSubgraph region s
  | .taskDecideLeave region => Sys2Proof.Machine.execTaskDecideLeave region s
  | .taskStart region => Sys2Proof.Machine.execTaskStart region s
  | .completeTask gid coil => Sys2Proof.Machine.execCompleteTask gid coil s
  | .taskFaultListEntry gid coil => Sys2Proof.Machine.execTaskFaultListEntry gid coil s
  | .taskPoolClose launch => Sys2Proof.Machine.execTaskPoolClose launch s
  | .pageWalkComplete entry => Sys2Proof.Machine.execPageWalkComplete entry s
  | .tlbiGo val => Sys2Proof.Machine.execTlbiGo val s
  | .tlbiComplete => Sys2Proof.Machine.execTlbiComplete s
  | .asTabBaseWrite val => Sys2Proof.Machine.execAsTabBaseWrite val s
  | .dirtyLineSweep core => Sys2Proof.Machine.execDirtyLineSweep core s
  | .scWheelPosition => Sys2Proof.Machine.execScWheelPosition s
  | .longLatencyLand gid coil => Sys2Proof.Machine.execLongLatencyLand gid coil s
  | .copyDescriptorFetch core => Sys2Proof.Machine.execCopyDescriptorFetch core s
  | .copyBytesLand copy bytes => Sys2Proof.Machine.execCopyBytesLand copy bytes s
  | .copyComplete copy => Sys2Proof.Machine.execCopyComplete copy s
  | .ldblkFillComplete fill => Sys2Proof.Machine.execLdblkFillComplete fill s
  | .fairnessTimerExpiry gid coil => Sys2Proof.Machine.execFairnessTimerExpiry gid coil s
  | .watchdogExpiry gid coil => Sys2Proof.Machine.execWatchdogExpiry gid coil s
  | .sleepHoldEnd gid coil => Sys2Proof.Machine.execSleepHoldEnd gid coil s
  | .osGrant slice entry => Sys2Proof.Machine.execOsGrant slice entry s
  | .osWatchdogExpiry slice entry => Sys2Proof.Machine.execOsWatchdogExpiry slice entry s
  | .osOverflowRetry slice => Sys2Proof.Machine.execOsOverflowRetry slice s
  | .waveStart render => Sys2Proof.Machine.execWaveStart render s
  | .blendApply render => Sys2Proof.Machine.execBlendApply render s
  | .tileRenderRetire render => Sys2Proof.Machine.execTileRenderRetire render s
  | .passEnd pass => Sys2Proof.Machine.execPassEnd pass s
  | .dispRowMapWrite val => Sys2Proof.Machine.execDispRowMapWrite val s
  | .dispCacheCtlWrite val => Sys2Proof.Machine.execDispCacheCtlWrite val s
  | .bandCfgWrite head val => Sys2Proof.Machine.execBandCfgWrite head val s
  | .memheadWrite head val => Sys2Proof.Machine.execMemheadWrite head val s
  | .hreqModeSet head => Sys2Proof.Machine.execHreqModeSet head s
  | .hreqKernelLoad head => Sys2Proof.Machine.execHreqKernelLoad head s
  | .hreqHeadOff head => Sys2Proof.Machine.execHreqHeadOff head s
  | .headCmdSetTiming val => Sys2Proof.Machine.execHeadCmdSetTiming val s
  | .headCmdLoadKernel val => Sys2Proof.Machine.execHeadCmdLoadKernel val s
  | .headCmdOff val => Sys2Proof.Machine.execHeadCmdOff val s
  | .headCmdRefuse val => Sys2Proof.Machine.execHeadCmdRefuse val s
  | .headCmdComplete head => Sys2Proof.Machine.execHeadCmdComplete head s
  | .poseSnapshot head seq => Sys2Proof.Machine.execPoseSnapshot head seq s
  | .roundStart head => Sys2Proof.Machine.execRoundStart head s
  | .rowBundleIssue head => Sys2Proof.Machine.execRowBundleIssue head s
  | .bandStart core => Sys2Proof.Machine.execBandStart core s
  | .rowStop head => Sys2Proof.Machine.execRowStop head s
  | .rowResume head => Sys2Proof.Machine.execRowResume head s
  | .syncRelease head => Sys2Proof.Machine.execSyncRelease head s
  | .bandDrainEnd core => Sys2Proof.Machine.execBandDrainEnd core s
  | .roundTimeout head => Sys2Proof.Machine.execRoundTimeout head s
  | .poseLatch head band => Sys2Proof.Machine.execPoseLatch head band s
  | .bandDeadline head band => Sys2Proof.Machine.execBandDeadline head band s
  | .lineScanout head => Sys2Proof.Machine.execLineScanout head s
  | .fetchComplete core m1 => Sys2Proof.Machine.execFetchComplete core m1 s
  | .gqPush core => Sys2Proof.Machine.execGqPush core s
  | .hubRegisterWrite by_ off wide val => Sys2Proof.Machine.execHubRegisterWrite by_ off wide val s
  | .iclLinkReturn port => Sys2Proof.Machine.execIclLinkReturn port s
  | .iftRefusal copy => Sys2Proof.Machine.execIftRefusal copy s
  | .iclHostAccess a => Sys2Proof.Machine.execIclHostAccess a s
  | .headFrameEnd head => Sys2Proof.Machine.execHeadFrameEnd head s
  | .moduleRemoval => Sys2Proof.Machine.execModuleRemoval s

end Sys2Proof.Machine
end

