-- ==== Sys2Proof/Machine/Turns.lean ====
section
/-! DEFINITION. The turns of the agents that execute instructions: the issue of a coil (R194 to R200, R300), a vc of a glaze core (R166, R406), a bundle of
a kiln core (R413, R414, R438), and which turns are due at a moment (log 2). -/
namespace Sys2Proof.Machine

/-- The next state of a meaning with nothing executing any more. -/
def endCur (o : Out) : Out :=
  match o with
  | .next t => .next { t with cur := .none }
  | o => o

/-- An instruction executed for the one that executes. -/
def runAs (cur : Cur) (i : Instr) (s : State) : Out := endCur (exec i { s with cur })

/-! ## The path of a coil (R195 to R199, R321) -/

/-- The threads of a path that no `SLEEP` holds at a cycle of their core. -/
def eligible (now : Nat) (co : Coil) (path : W32) : W32 := laneMask ((laneList path).filter (fun l => (co.thread l).heldUntil ≤ now))

/-- When the oldest thread of a path issued last. -/
def pathAge (co : Coil) (path : W32) : Nat :=
  match (laneList path).map (fun l => (co.thread l).lastIssue) with
  | a :: t => t.foldl min a
  | [] => 0

/-- The path that a change of path chooses: its oldest thread has gone longest without issuing; ties to the lowest lane. With `FAIR` = 1 a path whose threads
are all held is passed over (R197, R321). -/
def oldestPath (now : Nat) (fair : Bool) (co : Coil) : Option W32 :=
  let paths := ((List.range co.threads.length).filter (fun l => (co.thread l).st = .runnable && (!fair || eligible now co (pathOf co l) ≠ 0))).map (pathOf co)
  paths.foldl (fun (b : Option W32) p => match b with | some q => if pathAge co p < pathAge co q then some p else b | none => some p) none

/-- The sticky path: after a split, the one that holds the lowest lane of the issue group (R196, R317). -/
def stickyPath (co : Coil) : Option W32 :=
  if co.turnOver then none
  else ((laneList co.sticky).find? (fun l => (co.thread l).st = .runnable)).map (pathOf co)

/-- The path whose turn it is, and whether it is a change of path. With `FAIR` = 0 a path that `SLEEP` holds keeps its turn, as one that stalls does (R321). -/
def nextPath (now : Nat) (fair : Bool) (co : Coil) : Option (W32 × Bool) :=
  let other := (oldestPath now fair co).map (·, true)
  (match stickyPath co with
    | some p => if fair ∧ eligible now co p = 0 then other else some (p, false)
    | none => other).filter (fun p => eligible now co p.1 ≠ 0)

/-- A context that is being saved, or whose core is being replaced: its task coils go on to their next `TASKEND`, the others until the last of those has
stopped (R128). -/
def heldBack (s : State) (gid : Nat) (co : Coil) : Bool :=
  let g := s.group gid
  let cl := (s.cluster g.cluster).stopping
  let core := s.mod.retiring.contains g.core
  let mine (e : Nat × Group) : Bool := (cl && e.2.cluster == g.cluster) || (core && e.2.core == g.core)
  (cl || core) && (match co.task with
    | some _ => coilReady co
    | none => (s.cor.groups.filter (fun e => mine e && !e.2.saved)).all (fun e => e.2.coils.all coilReady))

/-- Whether a coil may issue, its sources aside. (DEDUCED, log 17.) -/
def mayIssue (s : State) (gid c : Nat) : Bool :=
  let co := s.coil gid c
  (s.group? gid).isSome && (s.group gid).started && !(s.group gid).saved && !co.stopped && !co.parked && !co.complete && co.scLeft == 0
    && !co.drainHeld && (match co.task with | some t => !(t.ending || t.faulted || t.reading) | none => true) && !heldBack s gid co

/-! ## Fetching and decoding (R300) -/

/-- What stops a fetch: a trap with its address, a page to walk, or a page whose walk or replay failed. -/
inductive FetchStop where
  | trap (code : Nat) (addr : W64)
  | miss (vpn : Nat)
  | failed (vpn code : Nat) (addr : W64)
  deriving DecidableEq, Repr

/-- A 64-bit word of code. (DEDUCED, log 18.) -/
def fetchWord (s : State) (gid : Nat) (va : W64) : Except FetchStop Nat :=
  let k := (s.group gid).core
  let asid := s.asidOf gid
  match translate s (lookCore s k asid) asid va.toNat false true .active with
  | .ok pa leaf => if loadBad s k leaf 3 pa 8 then .error (.trap tMACHINE_CHECK va) else .ok (loadNat s k leaf 3 pa 8)
  | .miss v => .error (.miss v)
  | .fail c v => .error (.failed v c va)
  | _ => .error (.trap tACCESS_VIOLATION va)

/-- The instruction at a pc, or what stops its fetch or its decoding, in the order of R300. -/
def fetchInstr (s : State) (gid : Nat) (pc : W64) : Except FetchStop Instr :=
  let illegal : Except FetchStop Instr := .error (.trap tILLEGAL_INSN 0)
  if pc.toNat % 8 ≠ 0 then .error (.trap tMISALIGNED pc)
  else match fetchWord s gid pc with
    | .error e => .error e
    | .ok w0 =>
      let opc := bitsAt w0 55 8
      match shapeOf opc with
      | none => illegal
      | some sh =>
        if !wordsOk opc sh.fmt (bitsAt w0 63 1) then illegal
        else
          let w1 : Except FetchStop Nat := if bitsAt w0 63 1 = 1 then fetchWord s gid (pc + 8) else .ok 0
          match w1 with
          | .error e => .error e
          | .ok w1 => match decodeXamal w0 w1 with | .ok i => .ok i | .error _ => illegal

/-- What a stopped fetch does to the issue group: a trap of all of it, or a wait for the page. -/
def stopFetch (s : State) (gid c : Nat) (lanes : W32) (pc : W64) (e : FetchStop) : State :=
  let at_ (code : Nat) (addr : W64) : TrapReq := { code, cause := lanes, addrs := List.replicate 32 addr }
  match e with
  | .trap code addr => raiseTrap (markIssued s gid c lanes) gid c lanes pc pc (at_ code addr)
  | .miss v => missAt s gid c lanes pc v 2
  | .failed v code addr => raiseTrap (detach (markIssued s gid c lanes) (s.asidOf gid) v (.coil gid c lanes pc)) gid c lanes pc pc (at_ code addr)

/-- The issue of a path of a coil at its pc. -/
def issuePath (gid c : Nat) (lanes : W32) (pc : W64) (s : State) : Out :=
  let cur : Cur := .coil gid c lanes pc
  match fetchInstr { s with cur } gid pc with
  | .ok i => runAs cur i s
  | .error e => endCur (.next (stopFetch { s with cur } gid c lanes pc e))

/-- An issue slot of a coil: the fairness timer first, then the path whose turn it is (R195 to R198). -/
def coilTurn (gid c : Nat) (s : State) : Out :=
  if !mayIssue s gid c then .next s
  else
    let s := goesTo s (execFairnessTimerExpiry gid c s)
    let co := s.coil gid c
    let now := coreCycles s (s.group gid).core
    match nextPath now (s.launchOf gid).rec_.fair co with
    | none => .next s
    | some (path, change) =>
      let s := if change && !co.turnOver then s.modCoil gid c (fun co => { co with turnOver := true }) else s
      issuePath gid c (eligible now co path) (co.thread (lowestLane path)).pc s

/-- Whether the turn of a coil was an issue slot (R194, R277): the instruction issued, or was selected and met a page to walk, or submitted more of its
triangles. (DEDUCED, log 17.) -/
def tookSlot (s t : State) (gid c : Nat) : Bool :=
  t.cor.order ≠ s.cor.order || missShape t ≠ missShape s || (t.coil gid c).missFull ≠ (s.coil gid c).missFull
    || (t.coil gid c).emitting ≠ (s.coil gid c).emitting

/-- Whether a coil would be selected now (R194). -/
def wouldIssue (s : State) (gid c : Nat) : Bool := mayIssue s gid c && tookSlot s (goesTo s (coilTurn gid c s)) gid c

/-- The coils in the slots of a partition of a core, from the slot after the one selected last (R194). -/
def partitionCoils (s : State) (k p : Nat) : List (Nat × Nat × Nat) :=
  let all := s.cor.groups.flatMap (fun (e : Nat × Group) => if e.2.core ≠ k ∨ e.2.saved then [] else
    (List.range e.2.coils.length).map (fun c => ((e.2.slots[c]?).getD (e.2.slot0 + c), e.1, c)))
  let mine := all.filter (fun x => x.1 % 4 = p)
  let sorted := (List.range 64).flatMap (fun i => mine.filter (fun x => x.1 = i))
  let last := tgetD (s.core k).last p 63
  sorted.filter (fun x => last < x.1) ++ sorted.filter (fun x => x.1 ≤ last)

/-- The slot that a sequencer has selected. -/
def selectSlot (s : State) (gid c : Nat) : State :=
  let g := s.group gid
  let slot := (g.slots[c]?).getD (g.slot0 + c)
  s.modCore g.core (fun k => { k with last := tput k.last (slot % 4) slot })

/-! ## Glaze cores (R166 to R168, R183, R186, R437) -/

/-- The memory operations of a bundle that have a kind. -/
def memCount (b : Bundle) (p : Instr → Bool) : Nat := ([b.m0, b.m1].filter p).length

/-- Whether a `LINEOUT` delivers the next line but `n` of its band. -/
def lineNext (s : State) (g : Glaze) (x : MOp) (n : Nat) : Bool :=
  let line := (tgetD g.a (x.d.toNat % 32) 0).toNat
  (spWindow g false (memEa g x 6) (8 * (s.head g.ctx.head).timing.hactive.toNat)).isSome
    && line == g.nextLine + n && decide (line < g.ctx.line0 + g.ctx.nlines)

/-- Whether a `LINEOUT` that is the next line but `n` of its band must wait for the FIFO or a locked bank. -/
def lineoutWaits (s : State) (g : Glaze) (x : MOp) (n : Nat) : Bool :=
  lineNext s g x n && (decide (160 ≤ (s.head g.ctx.head).fifo.length + n)
    || bankLocked g (memEa g x 6 % 2 ^ 20) (8 * (s.head g.ctx.head).timing.hactive.toNat))

/-- Whether an access of another core's scratchpad waits for a bank there: locked, or served to another access in this dc (R186, R430). -/
def remoteWaits (s : State) (g : Glaze) (x : MOp) : Bool :=
  match spWindow g true (memEa g x 6) 512 with
  | some (r + 1) => match g.rankCore r with
    | some c => bankLocked (s.gl c) (memEa g x 6 % 2 ^ 20) 512 || bankUsed s (s.gl c) (memEa g x 6 % 2 ^ 20) 512
    | none => false
  | _ => false

/-- Whether a memory slot names another core's scratchpad. -/
def isRemote (g : Glaze) (i : Instr) : Bool :=
  match i with
  | .spld x => decide (2 ^ 20 ≤ memEa g x 6)
  | .spst x => decide (2 ^ 20 ≤ memEa g x 6)
  | _ => false

/-- The ranges of scratchpads that a slot accesses, each with its window (R422, R430). -/
def memRanges (s : State) (g : Glaze) (i : Instr) : List (Nat × Nat × Nat) :=
  let at_ (remote : Bool) (ea n : Nat) : List (Nat × Nat × Nat) := match spWindow g remote ea n with | some w => [(w, ea % 2 ^ 20, n)] | none => []
  let word (a : BitVec 5) (imm : W16) : List (Nat × Nat × Nat) := at_ false (wrap (((tgetD g.a a.toNat 0).toNat : Int) + immS imm) 32 / 4 * 4) 4
  match i with
  | .lds _ a imm => word a imm
  | .sts _ a imm => word a imm
  | .spld x => at_ true (memEa g x 6) 512
  | .spst x => at_ true (memEa g x 6) 512
  | .gath x => (g.gq.take 32).flatMap (fun o => at_ false (memEa g x 4 + 16 * o.toNat) 16)
  | .lineout x => at_ false (memEa g x 6) (8 * (s.head g.ctx.head).timing.hactive.toNat)
  | .mxl x => at_ false (memEa g x 6) (4096 * (if bit x.d.toNat 2 then 1 else 2))
  | .sixcfg x => at_ false (memEa g x 4) 16
  | _ => []

/-- The banks of the own scratchpad that a slot accesses. -/
def ownBanks (s : State) (g : Glaze) (i : Instr) : List Nat := ((memRanges s g i).filter (fun r => r.1 = 0)).flatMap (fun r => banksOf r.2.1 r.2.2)

def isLineout (i : Instr) : Bool := match i with | .lineout _ => true | _ => false

/-- The slots of a bundle in the order in which banks serve them: S0, S1, M0 and M1, and after them the reads of a `LINEOUT` (R186, R422). -/
def servingOrder (b : Bundle) : List Instr :=
  let l := [b.s0, b.s1, b.m0, b.m1]
  l.filter (fun i => !isLineout i) ++ l.filter isLineout

/-- The dc in which a slot accesses its banks: one for each 512 bytes of a line, the next of its band but `n`, and else one (R186, R430, R433, R443). -/
def slotDcs (s : State) (g : Glaze) (i : Instr) (n : Nat) : Nat :=
  match i with
  | .lineout x => if lineNext s g x n then (8 * (s.head g.ctx.head).timing.hactive.toNat + 511) / 512 else 1
  | _ => 1

/-- The slots of a bundle with the dc, counted from the first, from which and until which they are served: one that needs a bank of an earlier one comes
after it (R186). -/
def slotTimes (s : State) (g : Glaze) (b : Bundle) : List (Instr × Nat × Nat) :=
  (servingOrder b).foldl (fun (l : List (Instr × Nat × Nat)) i =>
    let banks := ownBanks s g i
    let from_ := ((l.filter (fun e => (ownBanks s g e.1).any banks.contains)).map (·.2.2)).foldl max 0
    l ++ [(i, from_, from_ + slotDcs s g i (l.filter (fun e => isLineout e.1)).length)]) []

/-- The dc that a bundle's slots need: the core is frozen in all but the last (R186, R433). (DEDUCED, log 21.) -/
def bundleDcs (s : State) (g : Glaze) (b : Bundle) : Nat := ((slotTimes s g b).map (·.2.2)).foldl max 1

/-- The banks that a bundle's slots use in this dc serve nothing else in it: those of the own scratchpad, and in the last dc those of another core's. -/
def takeBanks (s : State) (k : Nat) (b : Bundle) : State :=
  let g := s.gl k
  let last := decide (bundleDcs s g b ≤ g.served + 1)
  ((slotTimes s g b).flatMap (fun e => (memRanges s g e.1).filter (fun r => if r.1 = 0 then e.2.1 ≤ g.served && g.served < e.2.2 else last))).foldl (fun s r =>
    if r.1 = 0 then useBanks s k r.2.1 r.2.2
    else match g.rankCore (r.1 - 1) with | some c => useBanks s c r.2.1 r.2.2 | none => s) s

/-- The registers that a slot reads, by kind and number as an error in them is named (R183). -/
def regReads (g : Glaze) (i : Instr) : List (Nat × Nat) :=
  let a (n : BitVec 5) : Nat × Nat := (1, n.toNat)
  let pr (p : BitVec 4) : List (Nat × Nat) := if p.toNat < 8 then [(2, p.toNat)] else []
  let v (x : VOp) : List (Nat × Nat) :=
    (if (vecPorts i).1 then [(0, x.a.toNat)] else []) ++ (if (vecPorts i).2.1 then [(0, x.b.toNat)] else []) ++ (if (vecPorts i).2.2 then [(0, x.c.toNat)] else []) ++ pr x.pred
  match i with
  | .sqloop q _ => [(3, q.toNat)]
  | .sqbr q _ _ => [(3, q.toNat)]
  | .sqadd q _ => [(3, q.toNat)]
  | .swAddReg _ x y | .swSubReg _ x y | .swMulReg _ x y | .swAndReg _ x y | .swOrReg _ x y | .swXorReg _ x y | .swShlReg _ x y | .swShrReg _ x y
  | .swSarReg _ x y => [a x, a y]
  | .swAddImm _ x _ | .swSubImm _ x _ | .swMulImm _ x _ | .swAndImm _ x _ | .swOrImm _ x _ | .swXorImm _ x _ | .swShlImm _ x _ | .swShrImm _ x _
  | .swSarImm _ x _ => [a x]
  | .swCmpReg _ x _ y => [a x, a y]
  | .swCmpImm _ x _ _ => [a x]
  | .swSel _ x c y => [a x, a c, a y]
  | .lds _ x _ => [a x]
  | .sts d x _ => [a d, a x]
  | .vbcast x => (1, x.a.toNat % 32) :: pr x.pred
  | .mxm x => (5, x.fn.toNat % 4) :: v x
  | .vadd x | .vsub x | .vmul x | .vfma x | .vmin x | .vmax x | .vand x | .vor x | .vxor x | .vcmp x | .vshl x | .vshr x | .vsel x | .vcvt x | .vperm x => v x
  | .vrcp x | .vrsq x | .vexp2 x | .vlog2 x => (0, x.a.toNat) :: pr x.pred
  | .swRed x => (0, x.a.toNat) :: (if bit x.fn.toNat 5 then [(4, x.d.toNat % 4)] else []) ++ pr x.pred
  | .psmov x => (4, x.a.toNat % 4) :: pr x.pred
  | .spld x => a x.a :: pr x.pred
  | .spst x => a x.a :: (0, x.d.toNat) :: pr x.pred
  | .gath x => a x.a :: (if g.gq.isEmpty then [] else [(6, 0)]) ++ pr x.pred
  | .fetch x => [a x.a, (1, x.d.toNat % 32)]
  | .lineout x => [a x.a, (1, x.d.toNat % 32)]
  | .mxl x => [a x.a]
  | .sixcfg x => [a x.a]
  | _ => []

/-- Whether a core is frozen before it can execute a bundle (R166, R432 to R437). -/
def bundleWaits (s : State) (g : Glaze) (b : Bundle) : Bool :=
  let gaths := memCount b (fun i => match i with | .gath _ => true | _ => false)
  let fetches := memCount b (fun i => match i with | .fetch _ => true | _ => false)
  let poses := memCount b (fun i => match i with | .poseget _ => true | _ => false)
  let remote (i : Instr) : Bool := match i with | .spld x => remoteWaits s g x | .spst x => remoteWaits s g x | _ => false
  (match b.sync with | .fwait n f => decide ((tgetD g.f f.toNat 0).toNat < n.toNat + 1) | _ => false)
    || (gaths ≠ 0 && decide (g.gq.length < 32 * gaths) && g.sparse.left ≠ 0)
    || (fetches ≠ 0 && decide (16 < g.fetches.length + fetches))
    || (poses ≠ 0 && (bandPose s g).isNone)
    || (match b.m0, b.m1 with
        | .lineout x, .lineout y => lineoutWaits s g x 0 || lineoutWaits s g y 1
        | .lineout x, _ => lineoutWaits s g x 0
        | _, .lineout y => lineoutWaits s g y 0
        | _, _ => false)
    || remote b.m0 || remote b.m1

/-- The slots of a bundle with their numbers, the sequencer field last: what it ends or locks holds from the next bundle on. -/
def bundleSlots (b : Bundle) : List (Nat × Instr) :=
  [(1, b.s0), (2, b.s1), (3, b.v0), (4, b.v1), (5, b.v2), (6, b.sf), (7, b.m0), (8, b.m1), (9, b.sync), (0, b.seq)]

/-- The slots that act: a `SIXCFG` that acted while its `GATH` was frozen acts no more (R439). -/
def actingSlots (g : Glaze) (b : Bundle) : List (Nat × Instr) :=
  (bundleSlots b).filter (fun e => !(g.sixDone && (match e.2 with | .sixcfg _ => true | _ => false)))

/-- A `SIXCFG` beside a `GATH` that is frozen, with no `FWAIT` of the bundle unsatisfied: it acts at once and feeds the `GATH` (R439). -/
def sixAhead (g : Glaze) (b : Bundle) : Option MOp :=
  let six : Option MOp := match b.m0, b.m1 with | .sixcfg x, .gath _ => some x | .gath _, .sixcfg x => some x | _, _ => none
  let wait : Bool := match b.sync with | .fwait n f => decide ((tgetD g.f f.toNat 0).toNat < n.toNat + 1) | _ => false
  if g.sixDone || wait || !gathWaits g then none else six

/-- Whether a slot reads a register that holds an uncorrectable error (R183). -/
def bundleBad (g : Glaze) (b : Bundle) : Bool :=
  !g.regBad.isEmpty && (bundleSlots b).any (fun e => (regReads g e.2).any g.regBad.contains)

/-- Instructions of one bundle executed in turn. -/
def runSlots (cur : Nat → Cur) : List (Nat × Instr) → State → Out
  | [], s => .next s
  | (n, i) :: t, s =>
    match runAs (cur n) i s with
    | .next s => runSlots cur t s
    | o => o

/-- A bank lock counts the bundle just consumed, unless that bundle set it (R186). -/
def countLock (s : State) (k : Nat) (b : Bundle) : State :=
  match b.seq with
  | .banklock _ _ => s
  | _ => s.modGl k (fun g => { g with lockLeft := g.lockLeft - 1 })

/-- A vc of a glaze core (R166, R406): the head bundle of its FIFO is consumed if it has arrived and the core is not frozen; a draining core consumes none. (DEDUCED, log 21.) -/
def glazeTurn (k : Nat) (s : State) : Out :=
  let g := s.gl k
  match g.phase with
  | .idle => .next s
  | .draining => .next (endVc s k)
  | .running =>
    match g.fifo with
    | [] => .next s
    | e :: rest =>
      if g.inSync ∨ (s.head g.ctx.head).row.time < e.due ∨ e.frame ≠ g.roundFrame ∨ e.round ≠ g.round then .next s
      else
        let popped := s.modGl k (fun g => { g with fifo := rest })
        if e.bad then .next (endVc (abortBand popped k tMACHINE_CHECK) k)
        else match e.bundle.bind decodeBundle with
          | none => .next (endVc (abortBand popped k tILLEGAL_INSN) k)
          | some b =>
            match sixAhead g b with
            | some x => .next (sixNow s k x)
            | none =>
              if bundleWaits s g b then .next s
              else if bundleBad g b then .next (endVc (abortBand popped k tMACHINE_CHECK) k)
              else if g.served + 1 < bundleDcs s g b then
                .next ((takeBanks s k b).modGl k (fun g => { g with served := g.served + 1 }))
              else match runSlots (.glaze k) (actingSlots g b) (takeBanks popped k b) with
                | .next t => .next (endVc ((countLock t k b).modGl k (fun g => { g with served := 0, sixDone := false })) k)
                | o => o

/-- The bundle that a core would consume, where it names another core's scratchpad: it is served last in the dc (R186, R430). -/
def remoteBundle (s : State) (k : Nat) : Option Bundle :=
  let g := s.gl k
  if g.phase ≠ .running then none
  else (((g.fifo.head?).bind (·.bundle)).bind decodeBundle).filter (fun b => isRemote g b.m0 || isRemote g b.m1)

def remoteHead (s : State) (k : Nat) : Bool := (remoteBundle s k).isSome

/-- A bundle that is served last keeps the banks that its slots need in the own scratchpad from what comes after those slots (R186). -/
def keepBanks (s : State) (k : Nat) : State :=
  match remoteBundle s k with
  | some b => (servingOrder b).foldl (fun s i => ((memRanges s (s.gl k) i).filter (fun r => r.1 = 0)).foldl (fun s r => useBanks s k r.2.1 r.2.2) s) s
  | none => s

/-! ## Kiln cores (R413, R414) -/

/-- The writes of a bundle made at its end, in order. -/
def kilnWrites (c : Kiln) (ws : List (Nat × Nat × W32)) : Kiln :=
  ws.foldl (fun c w => if w.1 = 0 then { c with a := tput c.a w.2.1 w.2.2 } else { c with data := cellsWrite c.data w.2.1 (leBytes 4 w.2.2.toNat) }) c

/-- The end of a bundle of a kiln core: its writes, and the bundle that follows. -/
def endKiln (k : Nat) (s : State) : State :=
  let s' := s.modKiln k (fun c => { kilnWrites c s.kwrites with pc := s.knext.getD (c.pc + 1) })
  { s' with kwrites := [], knext := none }

/-- The parts of a kiln bundle with their numbers. -/
def kilnSlots (b : KBundle) : List (Nat × Instr) := [(0, b.cw), (1, b.k0), (2, b.k1), (3, b.k2)]

/-- A turn of a kiln core: a bundle, once the one before it has taken its fc; a `WAITCYC` that boot holds back ends when its moment is known. (DEDUCED, log 25.) -/
def kilnTurn (k : Nat) (s : State) : Out :=
  let c := s.kiln k
  if c.stopped ∨ s.time < c.busy then .next s
  else match c.waitcyc with
    | some off =>
      .next (match waitEnd s off.toNat with
        | some t => waitUntil s k t
        | none => s)
    | none =>
      match decodeKiln ((c.code[c.pc.toNat]?).getD 0) with
      | none => .next (endKiln k (kbusy s k 1))
      | some b => match runSlots (.kiln k) (kilnSlots b) s with
        | .next t => .next (endKiln k t)
        | o => o

/-! ## What is due (log 2) -/

def evs (l : List Due) : List Turn := l.map .due

/-- Keys of a table. -/
def keysOf {α : Type} (t : Tab α) : List Nat := t.map (·.1)

/-- Coils of the groups on a core, and all coils. -/
def coilsOf (s : State) : List (Nat × Nat) := s.cor.groups.flatMap (fun (e : Nat × Group) => (List.range e.2.coils.length).map (fun c => (e.1, c)))

/-- Module and firmware (every fc). -/
def dueModule (s : State) : List Turn :=
  (if s.mod.cond = .booting then evs [.moduleBoot, .bootComplete] else [])
    ++ (if displayRuns s then
      evs (((List.range 192).filter (fun u => (tgetD s.mod.windows u {}).nextWindow ≤ s.time)).map .classShareWindow)
        ++ evs (((List.range 64).filter (fun c => (s.chan c).nextWindow ≤ s.time)).map .displayCreditWindow) else [])
    ++ evs (((keysOf s.mod.icl).filter (fun p => (tgetD s.mod.icl p {}).st = .retraining)).map .iclRetrainDone)
    ++ (if s.mod.cond = .quiescing then evs [.modulePark] else [])
    ++ (if s.mod.attState = 1 then evs [.attQuoteComplete] else [])
    ++ evs (s.mod.outMsgs.map (fun m => .iftResendTimeout m.copy m.msg))
    ++ evs (s.mod.retiring.map .coreRetire)
    ++ evs ((keysOf s.fw.kilns).map .kilnWatchdogRestart)
    ++ (if s.fw.updState = 3 then evs [.fwBankChange] else [])
    ++ (if s.fw.updState = 1 ∨ s.fw.updState = 2 then evs [.fwUpdateVerified] else [])
    ++ (keysOf s.fw.kilns).map .kiln

/-- Queues: the scanner, the packet at the head of each buffer, and waits. -/
def dueQueues (s : State) : List Turn :=
  (if scannerRuns s && pollSlot s then evs [.scannerPoll] else [])
    ++ s.cmd.queues.flatMap (fun (e : Nat × Queue) =>
      (if e.2.buf.isEmpty then [] else evs [.packet e.1])
        ++ (if e.2.wait.isSome then evs [.waitRecheck e.1, .waitTimeout e.1] else if e.2.running.isEmpty then [] else evs [.waitRecheck e.1]))

/-- The 64 walkers take the oldest merge entries that wait for one (R244). -/
def walking (s : State) : List Nat :=
  ((sortBy (fun (a b : Nat × Merge) => decide (a.2.seq < b.2.seq)) (s.xlat.merge.filter (fun e => !e.2.posted && e.2.fail = 0))).take 64).map (·.1)

/-- A phase of a core's clock (R22): the core has an edge where it is below its frequency. -/
def corePhase (s : State) (k : Nat) : Nat := ((s.core k).clockFrac + (s.time - (s.core k).clockAt) * coreFreq s k) % 132000
def coreEdge (s : State) (k : Nat) : Bool := corePhase s k < coreFreq s k
/-- Ticks to a core's next edge. -/
def toEdge (s : State) (k : Nat) : Nat := (132000 - corePhase s k + coreFreq s k - 1) / coreFreq s k

/-- The cores with work: resident groups, descriptors, dirty lines, copies. -/
def busyCores (s : State) : List Nat :=
  (List.range 192).filter (fun k => s.cor.groups.any (fun e => e.2.core = k) || (tget s.cor.cores k).isSome)

/-- Whether a coil would issue an `EMITP` now. -/
def emits (s : State) (gid c : Nat) : Bool :=
  let s := goesTo s (execFairnessTimerExpiry gid c s)
  let co := s.coil gid c
  match nextPath (coreCycles s (s.group gid).core) (s.launchOf gid).rec_.fair co with
  | some p =>
    let pc := (co.thread (lowestLane p.1)).pc
    (match fetchInstr { s with cur := .coil gid c p.1 pc } gid pc with | .ok (.emitp _) => true | _ => false)
  | none => false

/-- The elements of a list that have a property replaced, in their places, by those of another list. -/
def weave {α : Type} (p : α → Bool) : List α → List α → List α
  | [], _ => []
  | x :: t, [] => x :: t
  | x :: t, y :: ys => if p x then y :: weave p t ys else x :: weave p t (y :: ys)

/-- The coils that a core's sequencers select in a cc, by ascending slot, but those that issue an `EMITP` by ascending COILID among them (R125, R135, R194,
R214). (DESIGN CHOICE, log 2.) -/
def selected (s : State) (k : Nat) : List (Nat × Nat × Nat) :=
  if s.cor.groups.all (fun e => e.2.core ≠ k) then []
  else
    let l := sortBy (fun (a b : Nat × Nat × Nat) => decide (a.1 < b.1)) ([0, 1, 2, 3].filterMap (fun p => (partitionCoils s k p).find? (fun x => wouldIssue s x.2.1 x.2.2)))
    let p (x : Nat × Nat × Nat) : Bool := emits s x.2.1 x.2.2
    weave p l (sortBy (fun (a b : Nat × Nat × Nat) => decide (a.2.2 < b.2.2)) (l.filter p))

/-- Whether the oldest result of a coil may land: its time has come, and the matrix instruction that makes it has been performed (R391, R458). -/
def landReady (s : State) (gid : Nat) (co : Coil) : Bool :=
  match co.landings with
  | l :: _ => l.due ≤ coreCycles s (s.group gid).core && (match l.mx with | some n => (s.group gid).mx.queue.all (fun q => n < q.order) | none => true)
  | [] => false

/-- A cc of a core: what lands or runs out, the coil that each sequencer selects, the matrix engine, and then what its copies and load-blocks complete: a
completion in the cc of a `TAGCLR` comes last (R377). -/
def dueCore (s : State) (k : Nat) : List Turn :=
  let mine := (coilsOf s).filter (fun x => (s.group x.1).core = k)
  (if (s.core k).l1.dirty.isEmpty ∧ (s.region (regionOf k)).cache.dirty.isEmpty then [] else evs [.dirtyLineSweep k])
    ++ mine.flatMap (fun x => evs
      ((if landReady s x.1 (s.coil x.1 x.2) then [.longLatencyLand x.1 x.2] else [])
        ++ [.sleepHoldEnd x.1 x.2, .watchdogExpiry x.1 x.2]
        ++ (if (s.coil x.1 x.2).task.isSome then [.completeTask x.1 x.2, .taskFaultListEntry x.1 x.2] else [])))
    ++ (selected s k).map (fun x => .coil x.2.1 x.2.2)
    ++ (if s.cor.groups.all (fun e => e.2.core ≠ k || e.2.mx.queue.isEmpty) then [] else [.matrix k])
    ++ ((keysOf s.cor.groups).filter (fun gid => (s.group gid).core = k && paramsAsk s gid)).map .param
    ++ (if (s.core k).copyq.isEmpty then [] else evs [.copyDescriptorFetch k])
    ++ evs ((s.cor.copies.filter (fun e => e.2.core = k)).flatMap (fun e => [.copyBytesLand e.1 128, .copyComplete e.1]))
    ++ evs ((s.cor.blocks.filter (fun e => e.2.core = k)).map (fun e => .ldblkFillComplete e.1))

/-- The fabric beside the cores, on the reference clock of 3.3 GHz (R255): the wheel, the walkers, the key slices, the regions' task units, the hub's
copies, and the completion of groups. -/
def dueFabric (s : State) : List Turn :=
  evs [.scWheelPosition]
    ++ evs ((walking s).map .pageWalkComplete)
    ++ (if s.xlat.busy then evs [.tlbiComplete] else [])
    ++ evs ((s.cor.copies.filter (fun e => 191 < e.2.core)).flatMap (fun e => [.copyBytesLand e.1 128, .copyComplete e.1]))
    ++ evs (s.slices.flatMap (fun (e : Nat × Slice) => .osOverflowRetry e.1 :: (keysOf e.2.keys).flatMap (fun n => [.osGrant e.1 n, .osWatchdogExpiry e.1 n])))
    ++ evs ((List.range 24).flatMap (fun r => [.taskStart r, .energyRebalance r]))
    ++ evs ((keysOf s.gfx.renders).flatMap (fun r => [.waveStart r, .blendApply r, .tileRenderRetire r]))
    ++ evs ((keysOf s.gfx.passes).map .passEnd)
    ++ evs ((keysOf s.cor.groups).map .groupComplete)
    ++ evs ((s.disp.clusters.filter (fun e => e.2.stopping)).map (fun e => .clusterSave e.1))
    ++ evs ((s.disp.launches.filter (fun e => e.2.ended.isNone)).map (fun e => .taskPoolClose e.1))

/-- Heads and glaze cores (every dc): the latches, the rows, the vc of each core, its engines, the cores whose bundle names another's scratchpad, the stores
that reach another core, and then the deadlines, so that a line that enters in the dc of its deadline counts, and the lines: one that ends, the end of a frame,
and one that begins (R162, R177, R178, R186). -/
def dueDisplay (s : State) : List Turn :=
  let cores := keysOf s.dpy.glaze
  let bands (d : Head) : Nat := ((framesAhead d).map d.nbands).foldl max 0
  s.dpy.heads.flatMap (fun (e : Nat × Head) =>
    let h := e.1
    evs ((List.range (bands e.2)).map (.poseLatch h)
      ++ [.headCmdComplete h, .roundStart h, .roundTimeout h, .rowStop h, .rowResume h, .rowBundleIssue h, .syncRelease h]))
    ++ evs (cores.map .bandStart)
    ++ cores.map .glaze
    ++ s.dpy.glaze.flatMap (fun (e : Nat × Glaze) =>
      (if e.2.fetches.isEmpty then [] else [.fetch e.1])
        ++ evs ((e.2.fetches.map (fun f => .fetchComplete e.1 f.m1)) ++ (if e.2.sparse.left = 0 then [] else [.gqPush e.1])))
    ++ cores.map .glazeLate
    ++ cores.map .inbound
    ++ evs (cores.map .bandDrainEnd)
    ++ s.dpy.heads.flatMap (fun (e : Nat × Head) =>
      evs ((List.range (bands e.2)).map (.bandDeadline e.1) ++ [.lineScanout e.1, .headFrameEnd e.1, .lineScanout e.1]))

/-- The packet at the head of a queue's buffer starts as its command has it. -/
def packetStep (qid : Nat) (s : State) : Out :=
  match (s.queue qid).buf with
  | p :: _ => match p.command with
    | 1 => execPktLaunch qid s
    | 2 => execPktGraph qid s
    | 3 => execPktCopy qid s
    | 4 => execPktWait qid s
    | 5 => execPktSignal qid s
    | 6 => execPktPhase qid s
    | 7 => if field (p.word 1) 0 4 = 2 then execPktJobctlSetPriority qid s else execPktJobctlCancel qid s
    | 8 => execPktPresent qid s
    | 9 => execPktFence qid s
    | _ => execPktNop qid s
  | [] => .next s

/-- What is due happens: each case is the meaning of its row of the opcode table. -/
def dueStep (d : Due) (s : State) : Out :=
  match d with
  | .moduleBoot => execModuleBoot s
  | .bootComplete => execBootComplete s
  | .classShareWindow unit => execClassShareWindow unit s
  | .displayCreditWindow chan => execDisplayCreditWindow chan s
  | .iclRetrainDone port => execIclRetrainDone port s
  | .modulePark => execModulePark s
  | .attQuoteComplete => execAttQuoteComplete s
  | .fwUpdateVerified => execFwUpdateVerified s
  | .fwBankChange => execFwBankChange s
  | .iftResendTimeout copy msg => execIftResendTimeout copy msg s
  | .coreRetire core => execCoreRetire core s
  | .kilnWatchdogRestart k => execKilnWatchdogRestart k s
  | .scannerPoll => execScannerPoll s
  | .packet qid => packetStep qid s
  | .waitRecheck qid => execWaitRecheck qid s
  | .waitTimeout qid => execWaitTimeout qid s
  | .dispatcherDecision => execDispatcherDecision s
  | .groupComplete gid => execGroupComplete gid s
  | .clusterSave cluster => execClusterSave cluster s
  | .energyRebalance region => execEnergyRebalance region s
  | .taskStart region => execTaskStart region s
  | .completeTask gid coil => execCompleteTask gid coil s
  | .taskFaultListEntry gid coil => execTaskFaultListEntry gid coil s
  | .taskPoolClose launch => execTaskPoolClose launch s
  | .pageWalkComplete entry => execPageWalkComplete entry s
  | .tlbiComplete => execTlbiComplete s
  | .dirtyLineSweep core => execDirtyLineSweep core s
  | .scWheelPosition => execScWheelPosition s
  | .longLatencyLand gid coil => execLongLatencyLand gid coil s
  | .sleepHoldEnd gid coil => execSleepHoldEnd gid coil s
  | .watchdogExpiry gid coil => execWatchdogExpiry gid coil s
  | .copyDescriptorFetch core => execCopyDescriptorFetch core s
  | .copyBytesLand copy bytes => execCopyBytesLand copy bytes s
  | .copyComplete copy => execCopyComplete copy s
  | .ldblkFillComplete fill => execLdblkFillComplete fill s
  | .osGrant slice entry => execOsGrant slice entry s
  | .osWatchdogExpiry slice entry => execOsWatchdogExpiry slice entry s
  | .osOverflowRetry slice => execOsOverflowRetry slice s
  | .waveStart render => execWaveStart render s
  | .blendApply render => execBlendApply render s
  | .tileRenderRetire render => execTileRenderRetire render s
  | .passEnd pass => execPassEnd pass s
  | .headCmdComplete head => execHeadCmdComplete head s
  | .headFrameEnd head => execHeadFrameEnd head s
  | .roundStart head => execRoundStart head s
  | .rowBundleIssue head => execRowBundleIssue head s
  | .rowStop head => execRowStop head s
  | .rowResume head => execRowResume head s
  | .syncRelease head => execSyncRelease head s
  | .roundTimeout head => execRoundTimeout head s
  | .poseLatch head band => execPoseLatch head band s
  | .bandDeadline head band => execBandDeadline head band s
  | .lineScanout head => execLineScanout head s
  | .bandStart core => execBandStart core s
  | .bandDrainEnd core => execBandDrainEnd core s
  | .fetchComplete core m1 => execFetchComplete core m1 s
  | .gqPush core => execGqPush core s

/-- The turns that are due now: each unit on the edges of its clock (a core's cc at its own frequency, the reference of 40 ticks, dc of 55, fc of 110, a
decision every 4 fc), then time goes on to the next edge. (DESIGN CHOICE, log 2.) -/
def planTurns (s : State) : List Turn :=
  let on (n : Nat) : Bool := s.time % n == 0
  let next (n : Nat) : Nat := n - s.time % n
  let busy := busyCores s
  (if on 110 then dueModule s ++ dueQueues s else []) ++ (if on 440 then evs [.dispatcherDecision] else [])
    ++ (if on 40 then dueFabric s else []) ++ (busy.filter (coreEdge s)).flatMap (dueCore s) ++ (if on 55 then dueDisplay s else [])
    ++ [.elapse ((busy.map (toEdge s)).foldl min (min (next 40) (next 55)))]

/-- The next turn: an event or an instruction of the opcode table, an issue slot, a vc, a kiln bundle, or time alone; with none left, what is due. (DESIGN CHOICE, log 2.) -/
def takeTurn (s : State) : Turn → Out
  | .ev i => exec i s
  | .due d => dueStep d s
  | .coil gid c => (fun o => match o with | .next t => .next (if tookSlot s t gid c then selectSlot t gid c else t) | o => o) (coilTurn gid c s)
  | .matrix k => .next (matrixTurn s k)
  | .param gid => .next (loadParams s gid)
  | .glaze k => if remoteHead s k then .next (keepBanks s k) else glazeTurn k s
  | .glazeLate k => if remoteHead s k && (s.gl k).vcTime ≠ some s.time then glazeTurn k s else .next s
  | .fetch k => .next (fetchTurn k s)
  | .inbound k => .next (landInbound s k)
  | .kiln k => kilnTurn k s
  | .elapse n => .next { s with time := s.time + n }

/-! ## Placing one instruction for the next step (log 8) -/

/-- The slot of a bundle that a word of an encoding takes: the bit it starts at; a vector word stands in V2, where every one of them may. -/
def slotBit (e : Enc) : Nat :=
  match e with
  | .seq _ => 0
  | .scalar _ => 32
  | .vec _ => 192
  | .sf _ => 240
  | .mem _ => 272
  | .sync _ => 352
  | _ => 384

/-- A bundle with that word alone, and the read ports that its operation needs. -/
def oneSlot (e : Enc) : BitVec 384 :=
  let codes := match e, decode e with
    | .vec _, some i => portNeeds { v2 := i }
    | .sf _, some i => portNeeds { sf := i }
    | .mem _, some i => portNeeds { m0 := i }
    | _, _ => []
  BitVec.ofNat 384 (e.word * 2 ^ slotBit e + (codes.foldr (fun c n => c + 16 * n) 0) * 2 ^ 360)

/-- A glaze core's flags and band, so that an `FWAIT` or a `POSEGET` does not wait. -/
def readyGlaze (s : State) (k : Nat) (e : Enc) : State :=
  match decode e with
  | some (.fwait n f) => s.modGl k (fun g => { g with f := tput g.f f.toNat (BitVec.ofNat 16 (n.toNat + 1)) })
  | some (.poseget _) =>
    let c := (s.gl k).ctx
    s.modHead c.head (fun d => { d with bands := { frame := c.frame, band := c.band, pose := some d.poseBuf } :: d.bands })
  | _ => s

/-- A word of a Swevar slot as the head bundle of glaze core 0, which runs a band and is not frozen. -/
def placeSlot (s : State) (e : Enc) : State :=
  let s := s.modGl 0 (fun g => { g with
    phase := .running, inSync := false, mxmUntil := 0
    fifo := { bundle := some (oneSlot e), frame := g.roundFrame, round := g.round, due := 0 } :: g.fifo })
  { readyGlaze s 0 e with agenda := .glaze 0 :: s.agenda }

/-- Bundle `i` of an instruction SRAM replaced. -/
def codePut (b : BitVec 128) : List (BitVec 128) → Nat → List (BitVec 128)
  | [], 0 => [b]
  | _ :: t, 0 => b :: t
  | [], i + 1 => 0 :: codePut b [] i
  | x :: t, i + 1 => x :: codePut b t i

/-- A control word as the bundle at the pc of kiln core 0, which runs and is not busy. -/
def placeControl (s : State) (w : Nat) : State :=
  let s := s.modKiln 0 (fun c => { c with
    stopped := false, waitcyc := none, busy := 0
    code := codePut (BitVec.ofNat 128 (w % 2 ^ 32)) c.code c.pc.toNat })
  { s with agenda := .kiln 0 :: s.agenda }

/-- The physical page that holds the code of a placed Xamal instruction: the last of device memory. -/
def placedPage : Nat := 2 ^ 39 - 4096

/-- The launch under which a placed Xamal instruction runs. -/
def placedLaunch : Launch :=
  { rec_ := { vgran := 32, lmem := 1, accg := 1, zgran := 1, trapvec := 0x800, fslots := List.replicate 8 0 }, accepted := true, next := 1 }

/-- Group 0, which the dispatcher never numbers, on core 0: one coil of 32 threads at virtual address 0. -/
def placedGroup : Group := { cluster := 0, launch := 0, clgroup := 0, core := 0, slot0 := 0, slots := [0], coils := [{ threads := List.replicate 32 {}, granules := 32 }] }

/-- The words of a Xamal instruction at the pc of a coil of a resident group, its page in the core's TLB. -/
def placeXamal (s : State) (w0 : Nat) (w1 : Option Nat) : State :=
  let s := { s with disp := { s.disp with
    launches := tput s.disp.launches 0 placedLaunch, clusters := tput s.disp.clusters 0 { launch := 0, x := 0, y := 0, z := 0, groups := [0] } } }
  let s := { s with cor := { s.cor with groups := tput s.cor.groups 0 placedGroup } }
  let s := s.modCore 0 (fun c => { c with tlb := (0, 0, placedPage + 15) :: c.tlb })
  { s with mem := cellsWrite s.mem placedPage (leBytes 16 (w0 % 2 ^ 64 + w1.getD 0 % 2 ^ 64 * 2 ^ 64)), agenda := .coil 0 0 :: s.agenda }

/-- An instruction word placed where the next step fetches it, by the kind of word it is. (DESIGN CHOICE, log 8.) -/
def placeWord (s : State) (nbits w : Nat) : State :=
  match classify nbits w with
  | some (.xamal w0 w1) => placeXamal s w0 w1
  | some (.kc w) => placeControl s w
  | some e => placeSlot s e
  | none => s

end Sys2Proof.Machine
end

