-- ==== Sys2Proof/WellFormed.lean ====
section
/-! DEFINITION. Well-formed instructions: an operation obeys the rules of its encoding, and an event or a register write names a unit
that exists (the counts of units are those of the rules cited). -/
namespace Sys2Proof

/-- A kiln core of R67, or the host. -/
def writerOk : Writer → Bool
  | .host => true
  | .kiln k => k < 4

/-- The units that an event names exist: 64 channels (R11), 2 ICL and 8 Ethernet ports (R17, R18), 192 cores in 24 regions (R194), 128 slices
(R26), 4,096 queues (R44), 4 kiln cores (R67), 4 heads and 16 glaze cores (R160), 4 classes (R102), 4,096 merge entries (R244). -/
def eventOk (i : Instr) : Bool :=
  match i with
  | .displayCreditWindow chan => chan < 64
  | .classShareWindow unit => unit < 192
  | .gddrCrcError chan _ _ => chan < 64
  | .pageRetirement r => r.frame < 2 ^ 27
  | .channelEvacuation chan => chan < 64
  | .evacDone chan => chan < 64
  | .memRsvCtlWrite by_ _ => writerOk by_
  | .iclLaneFail port => port < 2
  | .iclRetrainDone port => port < 2
  | .iclPortFail port => port < 2
  | .iclLinkReturn port => port < 2
  | .ethLaneFail port => port < 8
  | .coreRetire core => core < 192
  | .coreRetireNoSpare core => core < 192
  | .sliceRetire m => m.slice < 128
  | .sliceLossNoSpare slice => slice.slice < 128
  | .kilnWatchdogRestart k => k < 4
  | .qmapMap qid => qid < 4096
  | .qmapUnmap qid => qid < 4096
  | .qmapRestart qid => qid < 4096
  | .qmapReload qid => qid < 4096
  | .pktNop qid => qid < 4096
  | .pktLaunch qid => qid < 4096
  | .pktGraph qid => qid < 4096
  | .pktCopy qid => qid < 4096
  | .pktWait qid => qid < 4096
  | .waitRecheck qid => qid < 4096
  | .waitTimeout qid => qid < 4096
  | .pktSignal qid => qid < 4096
  | .pktPhase qid => qid < 4096
  | .pktJobctlCancel qid => qid < 4096
  | .pktJobctlSetPriority qid => qid < 4096
  | .pktPresent qid => qid < 4096
  | .pktFence qid => qid < 4096
  | .energyRebalance region => region < 24
  | .waysClassWrite n _ => n < 4
  | .bwClassWrite n _ => n < 4
  | .memwinAccess k port _ _ => k < 4 && 0x200 ≤ port.toNat
  | .taskDecideRetry region => region < 24
  | .taskDecideCancelSubgraph region => region < 24
  | .taskDecideLeave region => region < 24
  | .taskStart region => region < 24
  | .pageWalkComplete entry => entry < 4096
  | .dirtyLineSweep core => core < 192
  | .copyDescriptorFetch core => core < 192
  | .osGrant slice _ => slice < 128
  | .osWatchdogExpiry slice _ => slice < 128
  | .osOverflowRetry slice => slice < 128
  | .bandCfgWrite head _ => head < 4
  | .memheadWrite head _ => head < 4
  | .hreqModeSet head => head < 4
  | .hreqKernelLoad head => head < 4
  | .hreqHeadOff head => head < 4
  | .headCmdComplete head => head < 4
  | .poseSnapshot head _ => head < 4
  | .roundStart head => head < 4
  | .rowBundleIssue head => head < 4
  | .bandStart core => core < 16
  | .rowStop head => head < 4
  | .rowResume head => head < 4
  | .syncRelease head => head < 4
  | .bandDrainEnd core => core < 16
  | .roundTimeout head => head < 4
  | .poseLatch head _ => head < 4
  | .bandDeadline head _ => head < 4
  | .lineScanout head => head < 4
  | .fetchComplete core _ => core < 16
  | .gqPush core => core < 16
  | .hubRegisterWrite by_ _ _ _ => writerOk by_
  | .headFrameEnd head => head < 4
  | _ => true

/-- A well-formed instruction: the words of `i`, if it has any, are instruction words, and the units it names exist. -/
def Instr.wellFormed (i : Instr) : Bool := encodingOk i && eventOk i

end Sys2Proof
end

