-- ==== Sys2Proof/Certificates/Slice0/Vocabulary.lean ====
section
/-! DEFINITION. The terms of the obligations: when an instruction passes its checks, the state in which it has issued, and what it writes. -/
namespace Sys2Proof.Claims
open Sys2Proof.Machine

/-! ## A Xamal instruction that passes its checks -/

/-- Coil `c` of group `gid` is resident and executes an instruction for the threads `lanes`, which stand at `pc`. -/
structure Site (s : State) (gid c : Nat) (lanes : W32) (pc : W64) : Prop where
  cur : s.cur = .coil gid c lanes pc
  group : (s.group? gid).isSome = true
  coil : c < (s.group gid).coils.length

/-- The instruction is active for a thread (R202), and every register that it names is legal (R203), holds no pending error (R276) and is full (R204)
for every thread for which it is active; no destination stands in a poisoned unit (what a write does to one, R27, `RegisterChecks` says). -/
structure Passes (co : Coil) (x : XOp) (lanes : W32) (rs : List Named) : Prop where
  active : activeOf co x lanes ≠ 0
  legal : ∀ r ∈ rs, r.illegal co.granules = false
  clean : ∀ r ∈ rs, ∀ l ∈ laneList (activeOf co x lanes), r.bad co l = false
  full : ∀ r ∈ rs, ∀ l ∈ laneList (activeOf co x lanes), r.empty co l = false
  sound : ∀ r ∈ rs, r.isD = true → ∀ l ∈ laneList (activeOf co x lanes), r.struck co l = false

/-- Both. -/
structure Ready (s : State) (gid c : Nat) (lanes : W32) (pc : W64) (x : XOp) (rs : List Named) : Prop extends
    Site s gid c lanes pc, Passes (s.coil gid c) x lanes rs

/-- The active lanes in ascending order. -/
def active (s : State) (gid c : Nat) (lanes : W32) (x : XOp) : List Nat := laneList (activeOf (s.coil gid c) x lanes)

/-- The next pc: 8 bytes on, or 16 with a second word (R296). -/
def nextPc (pc : W64) (x : XOp) : W64 := pc + BitVec.ofNat 64 (if x.ext.present then 16 else 8)

/-- The coil after an instruction has issued for `lanes`: their pc moves on and their issue is noted, in cycles of their core, and they are the sticky path (R196 to R200). -/
def issued (s : State) (gid c : Nat) (lanes : W32) (next : W64) : Coil :=
  let co := s.coil gid c
  { co.mapLanes lanes (fun t => { t with pc := next, lastIssue := s.cor.order, wdogFrom := coreCycles s (s.group gid).core }) with
    sticky := lanes, turnOver := false, stickyCount := if co.turnOver then 1 else co.stickyCount + 1 }

/-- The state in which coil `c` of group `gid` is `co`, one issue later, and all else is as in `s`. -/
def after (s : State) (gid c : Nat) (co : Coil) : State :=
  { s.modCoil gid c (fun _ => co) with cor := { (s.modCoil gid c (fun _ => co)).cor with order := s.cor.order + 1 } }

/-- The state in which the instruction has issued and has done nothing else. -/
def issuedState (s : State) (gid c : Nat) (lanes : W32) (pc : W64) (x : XOp) : State := after s gid c (issued s gid c lanes (nextPc pc x))

/-- What the instruction sees. -/
def ctxOf (s : State) (gid c : Nat) (lanes : W32) (pc : W64) (x : XOp) : Ctx :=
  { gid, c, lanes, pc, next := nextPc pc x, act := active s gid c lanes x, x, co := s.coil gid c, k := (s.group gid).core }

/-! ## What it writes -/

/-- Word `i` of a value. -/
def wordOf (v i : Nat) : W32 := BitVec.ofNat 32 (v / 2 ^ (32 * i))

/-- `co'` is `co` but for the `w` registers from D: those of each lane of `act` hold its value, first word first; a register `s` holds the value of the
highest lane (R203, R316). Every other register of the coil, and all else in it, is unchanged. -/
def WritesD (co co' : Coil) (d : Dst) (w : Nat) (act : List Nat) (val : Nat → Nat) : Prop :=
  co' = { co with v := co'.v, s := co'.s } ∧
  (∀ n l, l < 32 → tgetD co'.v (n * 32 + l) 0 =
    match d with
    | .v m => if m.toNat ≤ n ∧ n < m.toNat + w ∧ l ∈ act then wordOf (val l) (n - m.toNat) else tgetD co.v (n * 32 + l) 0
    | _ => tgetD co.v (n * 32 + l) 0) ∧
  (∀ n, tgetD co'.s n 0 =
    match d, act.getLast? with
    | .s m, some l => if m.toNat ≤ n ∧ n < m.toNat + w then wordOf (val l) (n - m.toNat) else tgetD co.s n 0
    | _, _ => tgetD co.s n 0)

/-- `co'` is `co` with the registers of D empty in the lanes of `act`, and one long-latency result on its way that holds their values (R204). -/
def AwaitsD (co co' : Coil) (d : Dst) (w : Nat) (act : List Nat) (val : Nat → Nat) (bad : Bool) : Prop :=
  ∃ r : Landing,
    co' = { co with vEmpty := co'.vEmpty, sEmpty := co'.sEmpty, landings := co.landings ++ [r] } ∧ r.bad = bad ∧
    r.regs = act.flatMap (fun l => (List.range w).filterMap (fun i =>
      match d with
      | .v n => some ((false, n.toNat + i, l), wordOf (val l) i)
      | .s n => some ((true, n.toNat + i, 0), wordOf (val l) i)
      | _ => none)) ∧
    (∀ n l, l < 32 → (n * 32 + l ∈ co'.vEmpty ↔ n * 32 + l ∈ co.vEmpty ∨ ∃ m, d = .v m ∧ m.toNat ≤ n ∧ n < m.toNat + w ∧ l ∈ act)) ∧
    (∀ n, n ∈ co'.sEmpty ↔ n ∈ co.sEmpty ∨ ∃ m, d = .s m ∧ m.toNat ≤ n ∧ n < m.toNat + w ∧ act ≠ [])

/-- `co` with the threads of the lanes in `act` changed, each by its own lane. -/
def eachLane (co : Coil) (act : List Nat) (f : Nat → Thread → Thread) : Coil :=
  { co with threads := co.threads.mapIdx (fun i t => if i ∈ act then f i t else t) }

/-- The threads' flags raised (R230). -/
def flagged (co : Coil) (act : List Nat) (fl : Nat → Flags) : Coil := eachLane co act (fun l t => { t with fpstat := t.fpstat ||| fl l })

/-- The pcs of the lanes in `act` set; where the threads of the issue group then differ, the path has split and its fairness count restarts (R198). -/
def branched (co : Coil) (lanes : W32) (act : List Nat) (target : Nat → W64) : Coil :=
  let q := eachLane co act (fun l t => { t with pc := target l })
  if (laneList lanes).all (fun l => (laneList lanes).all (fun m => (q.thread l).pc == (q.thread m).pc)) then q else { q with stickyCount := 0 }

/-! ## Operands -/

/-- The value of a source operand of lane `l`. -/
def opA (x : XOp) (co : Coil) (ty : OTy) (l : Nat) : Nat := co.src x.ext ty l x.a
def opB (x : XOp) (co : Coil) (ty : OTy) (l : Nat) : Nat := co.src x.ext ty l x.b
def opC (x : XOp) (co : Coil) (ty : OTy) (l : Nat) : Nat := co.src x.ext ty l x.c

/-- A value of an integer type as R315 reads it. -/
def readAs (ty v : Nat) : Int := if ty = 1 then (v : Int) else (BitVec.ofNat (iW ty) v).toInt

/-- A row of a table of instructions that compute one value for each active thread: the instruction, how many registers each operand takes, and the value
of lane `l` from the fields, the coil at issue and the active lanes. -/
structure Compute where
  make : XOp → Instr
  needs : XOp → Needs
  val : XOp → Coil → List Nat → Nat → Nat

/-- Registers of an integer operand. -/
def wI (x : XOp) : Nat := (tyOf (iTy x)).words
def bvA (x : XOp) (co : Coil) (l : Nat) : BitVec (iW (iTy x)) := BitVec.ofNat _ (opA x co (tyOf (iTy x)) l)
def bvB (x : XOp) (co : Coil) (l : Nat) : BitVec (iW (iTy x)) := BitVec.ofNat _ (opB x co (tyOf (iTy x)) l)
def intA (x : XOp) (co : Coil) (l : Nat) : Int := readAs (iTy x) (opA x co (tyOf (iTy x)) l)
def intB (x : XOp) (co : Coil) (l : Nat) : Int := readAs (iTy x) (opB x co (tyOf (iTy x)) l)
def intC (x : XOp) (co : Coil) (l : Nat) : Int := readAs (iTy x) (opC x co (tyOf (iTy x)) l)
/-- A 32-bit count modulo W (R328). -/
def countB (x : XOp) (co : Coil) (l : Nat) : Nat := opB x co .i32 l % iW (iTy x)
/-- An exact result modulo 2^W (R326). -/
def narrowed (x : XOp) (r : Int) : Nat := (BitVec.ofInt (iW (iTy x)) r).toNat
/-- Lo and Hi of the type (R315). -/
def lowest (ty : Nat) : Int := match ty with | 0 => -2 ^ 31 | 1 => 0 | _ => -2 ^ 63
def highest (ty : Nat) : Int := match ty with | 0 => 2 ^ 31 - 1 | 1 => 2 ^ 32 - 1 | _ => 2 ^ 63 - 1
/-- The result of an add or subtract: clamped in the `.SAT` form. -/
def saturated (x : XOp) (r : Int) : Int := if x.fn.getLsbD 3 then max (lowest (iTy x)) (min (highest (iTy x)) r) else r

def one (x : XOp) : Needs := { a := wI x, d := wI x }
def two (x : XOp) : Needs := { a := wI x, b := wI x, d := wI x }
def shifts (x : XOp) : Needs := { a := wI x, b := 1, d := wI x }
def counts (x : XOp) : Needs := { a := wI x, d := 1 }

/-- Arithmetic (R326). -/
def arithTable : List Compute := [
  ⟨.mov, one, fun x co _ l => (bvA x co l).toNat⟩,
  ⟨.movi, fun x => { d := wI x }, fun x _ _ _ => match x.ext with | .i w => (w.setWidth (iW (iTy x))).toNat | _ => 0⟩,
  ⟨.iadd, two, fun x co _ l => narrowed x (saturated x (intA x co l + intB x co l))⟩,
  ⟨.isub, two, fun x co _ l => narrowed x (saturated x (intA x co l - intB x co l))⟩,
  ⟨.imul, two, fun x co _ l => narrowed x (intA x co l * intB x co l)⟩,
  ⟨.imulh, two, fun x co _ l => ((BitVec.ofInt (2 * iW (iTy x)) (intA x co l * intB x co l)).extractLsb' (iW (iTy x)) (iW (iTy x))).toNat⟩,
  ⟨.imad, fun x => { a := wI x, b := wI x, c := wI x, d := wI x }, fun x co _ l => narrowed x (intA x co l * intB x co l + intC x co l)⟩,
  ⟨.imin, two, fun x co _ l => if intA x co l ≤ intB x co l then (bvA x co l).toNat else (bvB x co l).toNat⟩,
  ⟨.imax, two, fun x co _ l => if intA x co l ≤ intB x co l then (bvB x co l).toNat else (bvA x co l).toNat⟩,
  ⟨.iabs, one, fun x co _ l => narrowed x (if intA x co l < 0 then -intA x co l else intA x co l)⟩,
  ⟨.lea, fun x => { a := 2, b := wI x, c := 1, d := 2 }, fun x co _ l =>
    (BitVec.ofNat 64 (opA x co .i64 l) + BitVec.ofInt 64 (intB x co l) <<< (opC x co .i32 l % 64)).toNat⟩]

/-- Logic, shifts and counts (R328), and the values of masks (R325). -/
def logicTable : List Compute := [
  ⟨.and, two, fun x co _ l => (bvA x co l &&& bvB x co l).toNat⟩,
  ⟨.or, two, fun x co _ l => (bvA x co l ||| bvB x co l).toNat⟩,
  ⟨.xor, two, fun x co _ l => (bvA x co l ^^^ bvB x co l).toNat⟩,
  ⟨.andn, two, fun x co _ l => (bvA x co l &&& ~~~bvB x co l).toNat⟩,
  ⟨.not, one, fun x co _ l => (~~~bvA x co l).toNat⟩,
  ⟨.shl, shifts, fun x co _ l => (bvA x co l <<< countB x co l).toNat⟩,
  ⟨.shr, shifts, fun x co _ l => (bvA x co l >>> countB x co l).toNat⟩,
  ⟨.sar, shifts, fun x co _ l => ((bvA x co l).sshiftRight (countB x co l)).toNat⟩,
  ⟨.rot, shifts, fun x co _ l => ((bvA x co l).rotateLeft (countB x co l)).toNat⟩,
  ⟨.popc, counts, fun x co _ l => ((List.range (iW (iTy x))).filter (bvA x co l).getLsbD).length⟩,
  ⟨.clz, counts, fun x co _ l => ((List.range (iW (iTy x))).takeWhile (fun i => !(bvA x co l).getMsbD i)).length⟩,
  ⟨.brev, one, fun x co _ l => (bvA x co l).reverse.toNat⟩,
  ⟨.mget, fun _ => { d := 1 }, fun x co _ l => opA x co .i32 l⟩,
  ⟨.mpop, fun _ => { a := 1, d := 1 }, fun x co _ l => ((List.range 32).filter (BitVec.ofNat 32 (opA x co .i32 l)).getLsbD).length⟩,
  ⟨.mfirst, fun _ => { a := 1, d := 1 }, fun x co _ l => ((List.range 32).takeWhile (fun i => !(BitVec.ofNat 32 (opA x co .i32 l)).getLsbD i)).length⟩]

/-- pos and len of a field descriptor, clamped to W (R329). -/
def fieldPos (x : XOp) (f : Nat) : Nat := min (f % 2 ^ 8) (iW (iTy x))
def fieldLen (x : XOp) (f : Nat) : Nat := min (f / 2 ^ 8 % 2 ^ 8) (iW (iTy x))
/-- 2^k − 1 at `pos`. -/
def fieldMask (x : XOp) (pos k : Nat) : BitVec (iW (iTy x)) := BitVec.ofNat _ ((2 ^ k - 1) * 2 ^ pos)

/-- Bit-field extract and insert (R329). -/
def fieldTable : List Compute := [
  ⟨.bfe, shifts, fun x co _ l =>
    let f := opB x co .i32 l
    let v := opA x co (tyOf (iTy x)) l / 2 ^ fieldPos x f % 2 ^ fieldLen x f
    narrowed x (if iTy x ≠ 1 ∧ 0 < fieldLen x f ∧ v.testBit (fieldLen x f - 1) then (v : Int) - 2 ^ fieldLen x f else (v : Int))⟩,
  ⟨.bfi, fun x => { a := wI x, b := wI x, c := 1, d := wI x }, fun x co _ l =>
    let f := opC x co .i32 l
    let m := fieldMask x (fieldPos x f) (min (fieldLen x f) (iW (iTy x) - fieldPos x f))
    ((bvA x co l &&& ~~~m) ||| ((bvB x co l <<< fieldPos x f) &&& m)).toNat⟩]

/-- One step of a combination (R332). -/
def combine (op ty : Nat) (a b : Nat) : Nat :=
  match op with
  | 0 => (BitVec.ofNat (iW ty) a + BitVec.ofNat (iW ty) b).toNat
  | 1 => if readAs ty a ≤ readAs ty b then a else b
  | 2 => if readAs ty a ≤ readAs ty b then b else a
  | 3 => (BitVec.ofNat (iW ty) a &&& BitVec.ofNat (iW ty) b).toNat
  | 4 => (BitVec.ofNat (iW ty) a ||| BitVec.ofNat (iW ty) b).toNat
  | _ => (BitVec.ofNat (iW ty) a ^^^ BitVec.ofNat (iW ty) b).toNat
/-- The identity that the lowest active lane of an exclusive scan receives (R332). -/
def identity (op ty : Nat) : Nat :=
  match op with
  | 1 => (BitVec.ofInt (iW ty) (highest ty)).toNat
  | 2 => (BitVec.ofInt (iW ty) (lowest ty)).toNat
  | 3 => (BitVec.allOnes (iW ty)).toNat
  | _ => 0
/-- The combination of a list of values; of none, the identity. -/
def combined (op ty : Nat) : List Nat → Nat
  | [] => identity op ty
  | a :: t => t.foldl (combine op ty) a

/-- Combinations across the active lanes (R332). -/
def scanTable : List Compute := [
  ⟨.iscan, one, fun x co act l =>
    combined (x.fn.toNat / 8 % 8) (iTy x)
      ((act.filter (fun u => if x.fn.getLsbD 6 then decide (u < l) else decide (u ≤ l))).map (fun u => (bvA x co u).toNat))⟩,
  ⟨.iredc, one, fun x co act _ => combined (x.fn.toNat / 8 % 8) (iTy x) (act.map (fun u => (bvA x co u).toNat))⟩]

/-! ## Conditions -/

/-- EQ, NE, LT, LE, GT, GE by COND (R304). -/
def relation (cond : Nat) (a b : Int) : Bool :=
  match cond with
  | 0 => decide (a = b)
  | 1 => decide (a ≠ b)
  | 2 => decide (a < b)
  | 3 => decide (a ≤ b)
  | 4 => decide (b < a)
  | _ => decide (b ≤ a)

/-- Whether the condition of an `ICMP` holds in lane `l` (R327). -/
def icmpHolds (x : XOp) (co : Coil) (l : Nat) : Bool := relation (x.fn.toNat / 8) (intA x co l) (intB x co l)

/-- The lanes of a list that satisfy a condition, as a set. -/
def lanesOf (act : List Nat) (p : Nat → Bool) : W32 := laneMask (act.filter p)

/-! ## Floating point -/

/-- The operand type and element format of FT (R335). -/
def ftTy (x : XOp) : OTy := fOTy (x.fn.toNat % 8)
def ftFmt (x : XOp) : Nat := fFmt (x.fn.toNat % 8)
def ftWords (x : XOp) : Nat := (ftTy x).words
/-- Elements of FT: one, or two halves. -/
def ftElems (x : XOp) : Nat := if x.fn.toNat % 8 < 2 then 1 else 2
/-- Code `e` of an operand. -/
def ftCode (x : XOp) (v e : Nat) : Nat := if x.fn.toNat % 8 < 2 then v else v / 2 ^ (16 * e) % 2 ^ 16
/-- The results of the elements put together, low half first, and their flags ORed (R335). -/
def ftJoin (x : XOp) (f : Nat → Nat × Flags) : Nat × Flags :=
  if ftElems x = 1 then f 0 else ((f 0).1 + 2 ^ 16 * (f 1).1, (f 0).2 ||| (f 1).2)
/-- Rounding by RM, with r of the C source under SR (R304). -/
def ftRm (x : XOp) : Nat := x.fn.toNat / 8
def ftR (x : XOp) (co : Coil) (l e : Nat) : Nat := if ftRm x = 2 then opC x co .i32 l / 2 ^ (16 * e) % 2 ^ 16 else 0

/-- A row of a table of floating-point instructions: value and flags of lane `l`. -/
structure FCompute where
  make : XOp → Instr
  needs : XOp → Needs
  val : XOp → Coil → Nat → Nat × Flags

/-- An exact result of values, narrowed once to the format of FT, with both sets of flags (R229, R336). -/
def ftNarrow (x : XOp) (r : XR × Flags) (rnd sr : Nat) : Nat × Flags :=
  ((narrow (ftFmt x) r.1 rnd false sr).1, r.2 ||| (narrow (ftFmt x) r.1 rnd false sr).2)
/-- The value of an element of a source. -/
def ftVal (x : XOp) (v e : Nat) : XR := valueOf (ftFmt x) (ftCode x v e)

def fTwo (x : XOp) : Needs := { a := ftWords x, b := ftWords x, c := if ftRm x = 2 then 1 else 0, d := ftWords x }
def fBinary (op : XR → XR → XR × Flags) (x : XOp) (co : Coil) (l : Nat) : Nat × Flags :=
  ftJoin x (fun e => ftNarrow x (op (ftVal x (opA x co (ftTy x) l) e) (ftVal x (opB x co (ftTy x) l) e)) (ftRm x) (ftR x co l e))
def fPick (max : Bool) (x : XOp) (co : Coil) (l : Nat) : Nat × Flags :=
  ftJoin x (fun e => minMaxCode (ftFmt x) max (ftCode x (opA x co (ftTy x) l) e) (ftCode x (opB x co (ftTy x) l) e))

/-- Arithmetic of short latency (R336, R337, R339). -/
def floatTable : List FCompute := [
  ⟨.fadd, fTwo, fBinary xAdd⟩,
  ⟨.fsub, fTwo, fBinary (fun a b => xAdd a (xNegate b))⟩,
  ⟨.fmul, fTwo, fBinary xMul⟩,
  ⟨.ffma, fun x => { a := ftWords x, b := ftWords x, c := ftWords x, d := ftWords x }, fun x co l => ftJoin x (fun e =>
    ftNarrow x (xFma (ftVal x (opA x co (ftTy x) l) e) (ftVal x (opB x co (ftTy x) l) e) (ftVal x (opC x co (ftTy x) l) e)) (ftRm x) 0)⟩,
  ⟨.fmin, fun x => { a := ftWords x, b := ftWords x, d := ftWords x }, fPick false⟩,
  ⟨.fmax, fun x => { a := ftWords x, b := ftWords x, d := ftWords x }, fPick true⟩,
  ⟨.fclass, fun x => { a := ftWords x, d := 1 }, fun x co l =>
    ((ftJoin x (fun e => (2 ^ fClassBit (ftFmt x) (ftCode x (opA x co (ftTy x) l) e), 0))).1, 0)⟩]

def fSpecialRow (make : XOp → Instr) (fn : SFn) : FCompute :=
  ⟨make, fun x => { a := ftWords x, c := if ftRm x = 2 then 1 else 0, d := ftWords x }, fun x co l =>
    ftJoin x (fun e => special fn (ftFmt x) (ftCode x (opA x co (ftTy x) l) e) (ftRm x) (ftR x co l e))⟩

/-- The special functions, of long latency (R341). -/
def specialTable : List FCompute := [
  ⟨.fdiv, fTwo, fBinary xDiv⟩, fSpecialRow .frcp .rcp, fSpecialRow .frsq .rsq, fSpecialRow .fsqrt .sqrt, fSpecialRow .fexp2 .exp2, fSpecialRow .flog2 .log2,
  fSpecialRow .fsin .sin, fSpecialRow .fcos .cos, fSpecialRow .ftanh .tanh, fSpecialRow .ferf .erf]

/-- The tree of R237 over the active lanes: the value and the flags of `FREDC` (R340). -/
def fredcVal (x : XOp) (co : Coil) (act : List Nat) : Nat × Flags :=
  let node (a b : Nat) : Nat × Flags :=
    if ftRm x = 0 then ftNarrow x (xAdd (valueOf (ftFmt x) a) (valueOf (ftFmt x) b)) 0 0 else minMaxCode (ftFmt x) (ftRm x == 2) a b
  ftJoin x (fun e =>
    let p := pairTree node ((List.range 32).map (fun l => if l ∈ act then some (ftCode x (opA x co (ftTy x) l) e) else none))
    (p.1.getD 0, p.2))

/-- Whether the condition of an `FCMP` holds for element `e` of lane `l`, with its flag (R338). -/
def fcmpAt (x : XOp) (co : Coil) (l e : Nat) : Bool × Flags :=
  let a := ftVal x (opA x co (ftTy x) l) e
  let b := ftVal x (opB x co (ftTy x) l) e
  let un := xIsNan a || xIsNan b
  let fl : Flags := if xIsSig a || xIsSig b || (decide (2 ≤ ftRm x) && decide (ftRm x ≤ 5) && un) then fIV else 0
  (match ftRm x with
    | 0 | 2 | 3 | 4 | 5 => !un && relation (ftRm x) (xCmp a b) 0
    | 1 => un || relation 1 (xCmp a b) 0
    | 6 => un
    | _ => !un, fl)
def fcmpFlags (x : XOp) (co : Coil) (l : Nat) : Flags := if ftElems x = 1 then (fcmpAt x co l 0).2 else (fcmpAt x co l 0).2 ||| (fcmpAt x co l 1).2

/-- No active thread has enabled a trap for a flag that it raises (R230). -/
def Quiet (co : Coil) (act : List Nat) (fl : Nat → Flags) : Prop := ∀ l ∈ act, (co.thread l).fptrap &&& fl l = 0

/-! ## Conversions (R342 to R346) -/

/-- The value of a source under a type code. -/
def convVal (x : XOp) (co : Coil) (code l : Nat) (src : Src) : Nat :=
  ({ gid := 0, c := 0, lanes := 0, pc := 0, next := 0, act := [], x, co, k := 0 : Ctx }).conv code l src
def convR (x : XOp) (co : Coil) (l h : Nat) : Nat := opC x co .i32 l / 2 ^ (16 * h) % 2 ^ 16

/-- The conversions: operands, then value and flags of lane `l`; `f` and `t` are FROM and TO with a slot's ELEM in place of code 18. -/
def convTable (s : State) : List FCompute := [
  ⟨.cvt, fun x => { a := codeWords (convFrom x s), c := if convRnd x s = 2 then 1 else 0, d := codeWords (convTo x s) }, fun x co l =>
    let f := convFrom x s
    let a := convVal x co f l x.a
    if f < 16 then narrow (convTo x s) (valueOf f a) (convRnd x s) (convSat x s) (convR x co l 0)
    else
      let half (h : Nat) : Nat × Flags :=
        narrow (if f = 16 then 8 else 9) (valueOf (if f = 16 then 9 else 8) (a / 2 ^ (16 * h) % 2 ^ 16)) (convRnd x s) (convSat x s) (convR x co l h)
      ((half 0).1 + 2 ^ 16 * (half 1).1, (half 0).2 ||| (half 1).2)⟩,
  ⟨.cvti, fun x => { a := codeWords (convFrom x s), c := if convRnd x s = 2 then 1 else 0, d := codeWords (convTo x s) }, fun x co l =>
    let v := codeValue (convFrom x s) (convVal x co (convFrom x s) l x.a)
    if convTo x s < 12 then narrow (convTo x s) v (convRnd x s) (convSat x s) (convR x co l 0)
    else toIntCode (convTo x s) v (convRnd x s) (convR x co l 0) (convSat x s)⟩,
  ⟨.qnt, fun x => { a := codeWords (convFrom x s), b := 1, c := if convRnd x s = 2 then 1 else 0, d := 1 }, fun x co l =>
    let q := xDiv (valueOf (convFrom x s) (convVal x co (convFrom x s) l x.a)) (valueOf 10 (convVal x co 10 l x.b))
    let n := narrow (convTo x s) q.1 (convRnd x s) (convSat x s) (convR x co l 0)
    (n.1, q.2 ||| n.2)⟩,
  ⟨.pack, fun x => { a := 1, b := 1, c := if convRnd x s = 2 then 1 else 0, d := 1 }, fun x co l =>
    let n (src : Src) (h : Nat) : Nat × Flags := narrow (convTo x s) (valueOf 10 (convVal x co 10 l src)) (convRnd x s) (convSat x s) (convR x co l h)
    ((n x.a 0).1 + 2 ^ fmtBits (convTo x s) * (n x.b 1).1, (n x.a 0).2 ||| (n x.b 1).2)⟩]

/-- The two elements that an `UNPK` widens (R346). -/
def unpkVal (s : State) (x : XOp) (co : Coil) (l : Nat) : Nat × Flags :=
  let n := fmtBits (convFrom x s)
  let e (i : Nat) : Nat × Flags :=
    narrow 10 (valueOf (convFrom x s) (opA x co .i32 l / 2 ^ ((2 * opB x co .i32 l + i) * n) % 2 ^ n)) 0 false 0
  ((e 0).1 + 2 ^ 32 * (e 1).1, (e 0).2 ||| (e 1).2)

/-- The opcode of a conversion, for its legality (R301). -/
def convOpc (i : Instr) : Nat := match i with | .cvt _ => 0x60 | .cvti _ => 0x61 | .qnt _ => 0x62 | .pack _ => 0x63 | _ => 0x64

/-! ## Specials (R305) -/

/-- The number of a special, its registers, and its value in lane `l`. -/
structure Special where
  num : Nat
  words : Nat
  val : State → Nat → Nat → Nat → Nat

/-- A value of the fragment that a thread carries; 0 outside a shading wave (R305). -/
def fragVal (s : State) (gid c l : Nat) (f : ThreadFrag → W32) : Nat := (((s.coil gid c).thread l).frag.map (fun q => (f q).toNat)).getD 0

/-- The specials that `GETS` reads. -/
def specials : List Special := [
  ⟨0x00, 1, fun _ _ _ l => l⟩,
  ⟨0x01, 1, fun _ _ c _ => c⟩,
  ⟨0x02, 1, fun s g _ _ => (s.group g).core + 256 * (s.group g).slot0⟩,
  ⟨0x03, 1, fun s g _ _ => (s.cluster (s.group g).cluster).x⟩,
  ⟨0x04, 1, fun s g _ _ => (s.cluster (s.group g).cluster).y⟩,
  ⟨0x05, 1, fun s g _ _ => (s.cluster (s.group g).cluster).z⟩,
  ⟨0x06, 1, fun s g _ _ => (s.group g).clgroup⟩,
  ⟨0x07, 1, fun s g c _ => (s.coil g c).role.toNat⟩,
  ⟨0x08, 2, fun s g _ _ => coreClock s (s.group g).core⟩,
  ⟨0x09, 2, fun s g _ _ => (s.group g).tagbits.toNat⟩,
  ⟨0x0A, 1, fun s g c _ => (s.coil g c).fairtime⟩,
  ⟨0x0B, 1, fun s g c l => ((s.coil g c).thread l).fpstat.toNat⟩,
  ⟨0x0C, 1, fun s g c l => ((s.coil g c).thread l).fptrap.toNat⟩,
  ⟨0x0D, 2, fun s g c _ => (s.coil g c).pass.toNat⟩,
  ⟨0x10, 1, fun s g c l => ((s.coil g c).thread l).trapcode.toNat⟩,
  ⟨0x11, 2, fun s g c l => ((s.coil g c).thread l).trappc.toNat⟩,
  ⟨0x12, 2, fun s g c l => ((s.coil g c).thread l).trapaddr.toNat⟩,
  ⟨0x13, 1, fun s g c l => ((s.coil g c).thread l).trapinfo.toNat + (if ((s.coil g c).thread l).intrap then 4 else 0)⟩,
  ⟨0x18, 1, fun s g c l => fragVal s g c l (·.xy)⟩,
  ⟨0x19, 1, fun s g c l => fragVal s g c l (·.info)⟩,
  ⟨0x1A, 1, fun s g c l => fragVal s g c l (·.visid)⟩,
  ⟨0x1B, 1, fun s g c l => fragVal s g c l (·.key)⟩,
  ⟨0x1C, 1, fun s g c l => fragVal s g c l (·.seq)⟩]

/-- The highest active lane. -/
def highOf (act : List Nat) : Nat := act.getLast?.getD 0
/-- The lowest active lane. -/
def lowOf (act : List Nat) : Nat := act.head?.getD 0
/-- The target of an indirect transfer: CODE + a (R317). -/
def codeAt (s : State) (gid off : Nat) : W64 := (s.launchOf gid).rec_.code.setWidth 64 + BitVec.ofNat 64 off

/-- The lane that a `SHFL` reads for lane `t` (R331). -/
def shuffleLane (x : XOp) (co : Coil) (act : List Nat) (t : Nat) : Nat :=
  let b := opB x co .i32 t
  let u : Option Nat := match x.fn.toNat / 8 with
    | 0 => some (b % 32)
    | 1 => if b ≤ t then some (t - b) else none
    | 2 => if t + b < 32 then some (t + b) else none
    | _ => some (t ^^^ (b % 32))
  match u with
  | some v => if v ∈ act then v else t
  | none => t

/-! ## Memory (R357) -/

/-- The address of a global access: the pair and the offset, modulo 2^64. -/
def globalAddr (x : XOp) (co : Coil) (l : Nat) : Nat := (BitVec.ofNat 64 (opA x co .i64 l) + BitVec.ofInt 64 (mFields x).off).toNat
/-- The offset of a local access, modulo 2^32. -/
def localAddr (x : XOp) (co : Coil) (l : Nat) : Nat := (BitVec.ofNat 32 (opA x co .i32 l) + BitVec.ofInt 32 (mFields x).off).toNat

/-- Where an access of a group's core goes: physical address and page, if the address translates with the rights that the access needs and can be reached. -/
def reach (s : State) (gid : Nat) (va : Nat) (write : Bool) (b : Backing) : Option (Nat × Nat) :=
  let asid := s.asidOf gid
  match translate s (lookCore s (s.group gid).core asid) asid va write false b with
  | .ok pa leaf => if unreachable s pa then none else some (pa, leaf)
  | _ => none

/-- Every address of a list is aligned and goes to the physical address and page that `pa` and `leaf` name. -/
def Reaches (s : State) (gid : Nat) (vas : List Nat) (size : Nat) (write : Bool) (b : Backing) (pa leaf : Nat → Nat) : Prop :=
  ∀ va ∈ vas, va % size = 0 ∧ reach s gid va write b = some (pa va, leaf va)

/-- Every local address of a list is aligned, and inside the group's local memory. -/
def LocalOk (s : State) (gid : Nat) (offs : List Nat) (size : Nat) : Prop := ∀ a ∈ offs, a % size = 0 ∧ a < localSize s gid

/-- SCOPE and ORDER, and whether an order releases or acquires (R248, R250). -/
def scopeOf (x : XOp) : Nat := (mFields x).scope
def orderOf (x : XOp) : Nat := (mFields x).order
def releasing (x : XOp) : Bool := decide (2 ≤ orderOf x)
def acquiring (x : XOp) : Bool := orderOf x == 1 || decide (3 ≤ orderOf x)

/-- `s` with the CACHE field of an instruction noted on the lines of its addresses that the core's L1 holds (R299). -/
def hinted (s : State) (gid : Nat) (x : XOp) (pas : List Nat) : State := noteHints s (s.group gid).core (mFields x).cache (pas.map (· / 128))

/-- A release by the threads of lanes may be made: no error is pending in a register of theirs (R276). -/
def MayRelease (s : State) (gid c : Nat) (lanes : List Nat) : Prop := ∀ l ∈ lanes, ∀ k ∈ (s.coil gid c).bad, ¬ (8192 ≤ k ∨ k % 32 = l)

/-- `s` after the release of an instruction, if it makes one. -/
def released (rel : Bool) (s : State) (gid scope : Nat) : State := if rel then releaseAt s (s.group gid).core scope else s
/-- `s` after the acquire of an instruction, if it makes one. -/
def acquired (acq : Bool) (s : State) (gid scope : Nat) : State := if acq then acquireAt s (s.group gid).core gid scope else s

/-- The SC operations of an instruction stand at the end of its core's queue for the wheel, and the coil counts them (R255). -/
def Queued (s t : State) (gid c : Nat) (ops : List ScOp) : Prop :=
  tgetD t.xlat.scWaiting (s.group gid).core [] = tgetD s.xlat.scWaiting (s.group gid).core [] ++ ops ∧
  (t.coil gid c).scLeft = (s.coil gid c).scLeft + ops.length

/-- A seq of a key that has been skipped and not yet passed: marked in the window of the entry, or held back by the home (R370, R372). -/
def Marked (e : KeyEntry) (q : W32) : Prop := ((q - e.nextseq).toNat < 64 ∧ e.skips.getLsbD (q - e.nextseq).toNat = true) ∨ q ∈ e.lateSkips

/-! ## Matrix and scale (R383 to R395) -/

/-- All 32 threads. -/
def full : W32 := 0xFFFFFFFF
/-- The matrix queue of a group has room for one more instruction of coil `c`, and no earlier one of another coil is still in its issue checks (R384). -/
def MxRoom (s : State) (gid c : Nat) : Prop := (s.group gid).mx.queue.length < 8 ∧ mxWaits s gid c = false
/-- `s` with the matrix context of a group replaced. -/
def mxSet (s : State) (gid : Nat) (m : Matrix) : State := s.modMx gid (fun _ => m)
/-- The format slot that an instruction names in the launch record (R225). -/
def fslotWord (s : State) (gid n : Nat) : Nat := (((s.launchOf gid).rec_.fslots[n]?).getD 0).toNat
/-- `m'` is `m` but for the rows of the lanes in `act`, counted from `first`. -/
def RowsChanged (m m' : Matrix) (first : Nat) (act : List Nat) (f : Nat → AccRow → AccRow) : Prop :=
  m' = { m with rows := m'.rows } ∧ ∀ r, m'.row r = if first ≤ r ∧ r - first ∈ act then f (r - first) (m.row r) else m.row r

/-- Row or column `i` of a head tile as values along K: dense, or sparse with pruned positions +0 (R386, R387, R227). -/
def tileElems (slot : Nat) (t : Tile) (i : Nat) : List XR :=
  if slotSpar slot = 0 then denseRow (slotElem slot) (tileSlice slot t i) else sparseRow slot (tileSlice slot t i)
/-- The K products of row `i` and column `j` (R231). -/
def products (sa : Nat) (za : ZReg) (ta : Tile) (sb : Nat) (zb : ZReg) (tb : Tile) (i j : Nat) : List XR :=
  (List.range (elemK (slotElem sa))).map (fun k =>
    mulX (mulX (((tileElems sa ta i)[k]?).getD (.zero false)) (scaleOf sa za i (k / 8)))
      (mulX (((tileElems sb tb j)[k]?).getD (.zero false)) (scaleOf sb zb j (k / 8))))
/-- A product rounded to an integer multiple of 2^AE (R232); a NaN and the infinities add nothing. -/
def quantum (ae : Int) (p : XR) : Int := match p with | .fin q => qRne (qMul q (pow2 (-ae))) | _ => 0
def clamp64 (v : Int) : Int := max (-2 ^ 63) (min (2 ^ 63 - 1) v)

/-- `r'` is `r` after one `AccStep` on each of its 256 columns with the products `ps` (R232). -/
structure Accumulated (r r' : AccRow) (ps : Nat → List XR) : Prop where
  ae : r'.ae = r.ae
  sum : ∀ j, j < 256 → r'.get j = clamp64 (r.get j + ((ps j).map (quantum r.ae)).sum)
  rest : ∀ j, 256 ≤ j → r'.get j = r.get j
  pinf : r'.ag.getLsbD 2 = true ↔ r.ag.getLsbD 2 = true ∨ ∃ j, j < 256 ∧ XR.inf false ∈ ps j
  ninf : r'.ag.getLsbD 3 = true ↔ r.ag.getLsbD 3 = true ∨ ∃ j, j < 256 ∧ XR.inf true ∈ ps j
  nan : r'.ag.getLsbD 1 = true ↔
    r.ag.getLsbD 1 = true ∨ (∃ j, j < 256 ∧ ∃ p ∈ ps j, xIsNan p = true) ∨ (r'.ag.getLsbD 2 = true ∧ r'.ag.getLsbD 3 = true)
  sat : r'.ag.getLsbD 0 = true ↔ r.ag.getLsbD 0 = true ∨
    ∃ j, j < 256 ∧ clamp64 (r.get j + ((ps j).map (quantum r.ae)).sum) ≠ r.get j + ((ps j).map (quantum r.ae)).sum
  high : ∀ b, 4 ≤ b → r'.ag.getLsbD b = r.ag.getLsbD b

/-- The bytes of `n` pieces of 16 from an address, as a core reads them at `GROUP` scope. -/
def pieceBytes (s : State) (k : Nat) (pa leaf : Nat → Nat) (a n : Nat) : List Byte :=
  (List.range n).flatMap (fun i => loadBytes s k (leaf (a + 16 * i)) 1 (pa (a + 16 * i)) 16)
/-- Bytes written in pieces of 16 from an address. -/
def piecesWritten (s : State) (k : Nat) (pa leaf : Nat → Nat) (a : Nat) (bs : List Byte) : State :=
  (List.range ((bs.length + 15) / 16)).foldl (fun t i => storeBytes t k (leaf (a + 16 * i)) 1 (pa (a + 16 * i)) ((bs.drop (16 * i)).take 16)) s
/-- The 16-byte pieces of a range. -/
def pieces (a bytes : Nat) : List Nat := (List.range ((bytes + 15) / 16)).map (fun i => a + 16 * i)
/-- A band scale of a register. -/
def bandAt (z : ZReg) (i : Nat) : W16 := (z.bands[i]?).getD 0
/-- `z'` is `z` with the bands that a mask names changed. -/
def BandsChanged (z z' : ZReg) (mask : Nat) (f : W16 → W16) : Prop :=
  z' = { z with bands := z'.bands } ∧ z'.bands.length = 4 ∧ ∀ i, i < 4 → bandAt z' i = if mask.testBit i then f (bandAt z i) else bandAt z i
/-- A value of a band times an exact factor, narrowed once to BF16. -/
def bandTimes (f : XR) (b : W16) : W16 := BitVec.ofNat 16 (narrow 8 (mulX (valueOf 8 b.toNat) f) 0 false 0).1
/-- The effective scales of the blocks that a side reads (R388). -/
def sideScales (slot : Nat) (z : ZReg) (side : Nat) : List XR :=
  (List.range (if side = 0 then 128 else 256)).flatMap (fun i => (List.range 8).map (scaleOf slot z i))

/-! ## Pixels and textures (R352 to R355) -/

/-- The coordinates that a lane of `TBLD` or `TBST` names. -/
def pixX (x : XOp) (co : Coil) (l : Nat) : Nat := opA x co .i32 l % 2 ^ 16
def pixY (x : XOp) (co : Coil) (l : Nat) : Nat := opA x co .i32 l / 2 ^ 16 % 2 ^ 16
/-- The lane's pixel lies in the tile that its wave shades, of an ordered shading pass whose format the instruction names; `va` is its address. -/
def PixelOk (s : State) (gid c : Nat) (x : XOp) (va : Nat → Nat) (l : Nat) : Prop :=
  ∃ fr p r, ((s.coil gid c).thread l).frag = some fr ∧ tget s.gfx.passes fr.pass = some p ∧ tget s.gfx.renders fr.render = some r ∧
    p.desc.ordered = true ∧ p.desc.prog = true ∧ x.fn.toNat = p.desc.cfmt ∧
    pixX x (s.coil gid c) l < p.desc.width ∧ pixY x (s.coil gid c) l < p.desc.height ∧
    pixY x (s.coil gid c) l / 64 * tilesX p.desc + pixX x (s.coil gid c) l / 64 = r.tile ∧
    va l = pixelAt p.desc p.desc.target (pixelBytes x.fn.toNat) (pixX x (s.coil gid c) l) (pixY x (s.coil gid c) l)

/-! ## Glaze and kiln cores (R406 to R438) -/

/-- A slot of a bundle of glaze core `k` executes. -/
def OnGlaze (s : State) (k slot : Nat) : Prop := s.cur = .glaze k slot
/-- The control word or a slot of a bundle of kiln core `k` executes. -/
def OnKiln (s : State) (k : Nat) : Prop := ∃ part, s.cur = .kiln k part

/-- Register `a`n of the core that executes, as it stands when the bundle begins. -/
def areg (s : State) (n : BitVec 5) : W32 :=
  match s.cur with
  | .glaze k _ => tgetD (s.gl k).a n.toNat 0
  | .kiln k _ => tgetD (s.kiln k).a n.toNat 0
  | _ => 0
/-- The address of `LDS` and `STS` (R422). -/
def aaddr (s : State) (n : BitVec 5) (imm : W16) : Nat := (areg s n + imm.signExtend 32 &&& ~~~3).toNat

/-- The scalar operations (R421): the register written, and its value. -/
def scalarTable (s : State) (d a b c : BitVec 5) (cond : BitVec 3) (imm : W16) (short : BitVec 13) : List (Instr × W32) :=
  let A := areg s a
  let B := areg s b
  let sx := imm.signExtend 32
  let zx := imm.setWidth 32
  [(.swAddReg d a b, A + B), (.swAddImm d a imm, A + sx), (.swSubReg d a b, A - B), (.swSubImm d a imm, A - sx),
   (.swMulReg d a b, A * B), (.swMulImm d a imm, A * sx), (.swAndReg d a b, A &&& B), (.swAndImm d a imm, A &&& zx),
   (.swOrReg d a b, A ||| B), (.swOrImm d a imm, A ||| zx), (.swXorReg d a b, A ^^^ B), (.swXorImm d a imm, A ^^^ zx),
   (.swShlReg d a b, A <<< (B.toNat % 32)), (.swShlImm d a imm, A <<< (imm.toNat % 32)),
   (.swShrReg d a b, A >>> (B.toNat % 32)), (.swShrImm d a imm, A >>> (imm.toNat % 32)),
   (.swSarReg d a b, A.sshiftRight (B.toNat % 32)), (.swSarImm d a imm, A.sshiftRight (imm.toNat % 32)),
   (.swMovi d imm, sx), (.swMovh d imm, zx <<< 16),
   (.swCmpReg d a cond b, if relation cond.toNat A.toInt B.toInt then 1 else 0),
   (.swCmpImm d a cond short, if relation cond.toNat A.toInt short.toInt then 1 else 0),
   (.swSel d a c b, if areg s c ≠ 0 then A else B)]

/-- The branches of `SQBR` (R420). -/
def sqTaken (cond : Nat) (q : W32) : Bool :=
  match cond with
  | 0 => true
  | 1 => decide (q = 0)
  | 2 => decide (q ≠ 0)
  | 3 => decide (q.toInt < 0)
  | _ => decide (0 ≤ q.toInt)

/-- The registers of a result hold these elements of `b` bits under their masks, element i in register i mod k at place ⌊i/k⌋, and the masks leave every
other element as it is (R418, R419). -/
def ElementsAre (regs masks : List (BitVec 4096)) (b k n : Nat) (val : Nat → Option Nat) : Prop :=
  regs.length = k ∧ masks.length = k ∧ ∀ i, i < n →
    let m := ((masks[i % k]?).getD 0).extractLsb' (b * (i / k)) b
    match val i with
    | some v => m = BitVec.allOnes b ∧ ((regs[i % k]?).getD 0).extractLsb' (b * (i / k)) b = BitVec.ofNat b v
    | none => m = 0

/-- An element of a source of a vector operation. -/
def velem (g : Glaze) (x : VOp) (r : BitVec 6) (i : Nat) : Nat := (tgetD g.w r.toNat 0).toNat / 2 ^ (typeBits x.ty.toNat * i) % 2 ^ typeBits x.ty.toNat
def vwide (x : VOp) : Bool := x.fn.getLsbD 3
/-- The result of an arithmetic operation on element `i` (R423). -/
def varith (g : Glaze) (x : VOp) (fi : Int → Int → Int → Int) (fx : XR → XR → XR → XR) (i : Nat) : Nat :=
  let ty := x.ty.toNat
  let b := typeBits ty
  let e := velem g x
  if typeInt ty then
    let r := fi (typeVal ty (e x.a i)) (typeVal ty (e x.b i)) (typeVal ty (e x.c i))
    if vwide x then (BitVec.ofInt (2 * b) r).toNat else (BitVec.ofInt b (if x.fn.getLsbD 2 then clampInt (typeSigned ty) b r else r)).toNat
  else (narrow (if vwide x then 10 else typeFmt ty) (fx (typeX ty (e x.a i)) (typeX ty (e x.b i)) (typeX ty (e x.c i))) (x.fn.toNat % 4) false 0).1
/-- The smaller or larger element (R236, R423). -/
def vpick (g : Glaze) (x : VOp) (max : Bool) (i : Nat) : Nat :=
  let ty := x.ty.toNat
  let a := velem g x x.a i
  let c := velem g x x.b i
  if typeInt ty then (if decide (typeVal ty a < typeVal ty c) = max then c else a) else (minMaxCode (typeFmt ty) max a c).1

/-- A vector operation: its latency, the width of the elements of its sources, the width of its results and the registers that they fill, and the value of
element i. -/
structure VRow where
  i : Instr
  lat : Nat
  src : Nat
  dst : Nat
  regs : Nat
  val : Nat → Nat

def vecTable (g : Glaze) (x : VOp) : List VRow :=
  let b := typeBits x.ty.toNat
  let w := if vwide x then 2 * b else b
  let k := if vwide x then 2 else 1
  let e := velem g x
  [⟨.vadd x, 2, b, w, k, varith g x (fun a b _ => a + b) (fun a b _ => (xAdd a b).1)⟩,
   ⟨.vsub x, 2, b, w, k, varith g x (fun a b _ => a - b) (fun a b _ => (xAdd a (xNegate b)).1)⟩,
   ⟨.vmul x, 4, b, w, k, varith g x (fun a b _ => a * b) (fun a b _ => (xMul a b).1)⟩,
   ⟨.vfma x, 4, b, w, k, varith g x (fun a b c => a * b + c) (fun a b c => (xFma a b c).1)⟩,
   ⟨.vmin x, 2, b, b, 1, vpick g x false⟩,
   ⟨.vmax x, 2, b, b, 1, vpick g x true⟩,
   ⟨.vand x, 2, b, b, 1, fun i => e x.a i &&& e x.b i⟩,
   ⟨.vor x, 2, b, b, 1, fun i => e x.a i ||| e x.b i⟩,
   ⟨.vxor x, 2, b, b, 1, fun i => e x.a i ^^^ e x.b i⟩,
   ⟨.vshl x, 2, b, b, 1, fun i => (BitVec.ofNat b (e x.a i) <<< (x.fn.toNat % 32)).toNat⟩,
   ⟨.vshr x, 2, b, b, 1, fun i =>
     if x.fn.getLsbD 5 then ((BitVec.ofNat b (e x.a i)).sshiftRight (x.fn.toNat % 32)).toNat else e x.a i / 2 ^ (x.fn.toNat % 32)⟩,
   ⟨.vsel x, 2, b, b, 1, fun i => if e x.c i ≠ 0 then e x.a i else e x.b i⟩,
   ⟨.vperm x, 2, b, b, 1, fun i => e x.a (e x.b i % (4096 / b))⟩,
   ⟨.vbcast x, 2, b, b, 1, fun _ => (tgetD g.a (x.a.toNat % 32) 0).toNat % 2 ^ b⟩]

/-- An element of a source of the SF slot, and a special function on it (R428). -/
def felem (g : Glaze) (x : FOp) (i : Nat) : Nat := (tgetD g.w x.a.toNat 0).toNat / 2 ^ (typeBits x.ty.toNat * i) % 2 ^ typeBits x.ty.toNat
def sfTable (x : FOp) : List (Instr × SFn) := [(.vrcp x, .rcp), (.vrsq x, .rsq), (.vexp2 x, .exp2), (.vlog2 x, .log2)]

/-- A kiln core that has spent some fc on its bundle. -/
def spent (s : State) (k fc : Nat) : State := s.modKiln k (fun c => { c with busy := s.time + fc * 110 })
/-- A pending write of a register of a kiln bundle. -/
def kwrite (n : Nat) (v : Nat) : Nat × Nat × W32 := (0, n % 32, BitVec.ofNat 32 v)

/-! ## The module -/

/-- The state after a reset of the module: every agent and the time as at reset, with what is planned, the free values drawn, host memory, the flash, the record of
the active slot and the fuses as they were (R24, R30, R31, R35). -/
def fresh (s : State) (cond : Condition) (vin : Bool) : State :=
  { State.reset with
    agenda := s.agenda, free := s.free, mem := s.mem.filter (fun e => hostBase ≤ e.1 && e.1 < hostTop)
    mod := { State.reset.mod with cond, flash := s.mod.flash, activeSlot := s.mod.activeSlot, fuse := s.mod.fuse, vinOk := vin } }

/-- An image passes the checks of the boot ROM (R30), and its kiln code the check of R414. -/
def Passing (s : State) (i : Image) : Prop := i.edOk = true ∧ i.mlOk = true ∧ i.digestOk = true ∧ s.mod.fuse ≤ i.secver ∧ codeOk i = true

/-- The state in which the image of a slot runs on the kiln cores, both boot entries logged (R31, R32). -/
def runs (s : State) (slot : Bool) (i : Image) : State :=
  { s with
    mod := { s.mod with
      activeSlot := slot, bootSlotChanged := slot != s.mod.activeSlot
      log := [{ kind := 0, slot := 0, secver := 0, digest := Config.bootRomDigest },
        { kind := 1, slot := if slot then 1 else 0, secver := BitVec.ofNat 8 i.secver, digest := i.digest }]
      raiseFuse := if s.mod.fuse < i.secver then some i.secver else none
      ceThreshold := max 1 (min 65535 i.ceThreshold), ethAddr := i.eth }
    fw := { s.fw with kilns := (List.range 4).map (fun k => (k, kilnAtEntry (kilnLoad {} i k) s.time)), slot, secver := BitVec.ofNat 6 i.secver } }

/-- The record of a channel (R14, R33). -/
def chanRecord (s : State) (kind c : Nat) (addr : W64) (count : W64) : State := postRecord s { kind := BitVec.ofNat 8 kind, unit := BitVec.ofNat 16 c, addr, count }

/-! ## Steps -/

/-- `i` is the row of the opcode table that a due turn is; the packet at the head of a queue is the row of its command (R51). -/
def DueRow (s : State) (d : Due) (i : Instr) : Prop :=
  match d with
  | .moduleBoot => i = .moduleBoot
  | .bootComplete => i = .bootComplete
  | .classShareWindow unit => i = .classShareWindow unit
  | .displayCreditWindow chan => i = .displayCreditWindow chan
  | .iclRetrainDone port => i = .iclRetrainDone port
  | .modulePark => i = .modulePark
  | .attQuoteComplete => i = .attQuoteComplete
  | .fwUpdateVerified => i = .fwUpdateVerified
  | .fwBankChange => i = .fwBankChange
  | .iftResendTimeout copy msg => i = .iftResendTimeout copy msg
  | .coreRetire core => i = .coreRetire core
  | .kilnWatchdogRestart k => i = .kilnWatchdogRestart k
  | .scannerPoll => i = .scannerPoll
  | .packet qid => match ((s.queue qid).buf.head?).map (fun p => (p.command, p.word 1 % 16)) with
    | some (1, _) => i = .pktLaunch qid
    | some (2, _) => i = .pktGraph qid
    | some (3, _) => i = .pktCopy qid
    | some (4, _) => i = .pktWait qid
    | some (5, _) => i = .pktSignal qid
    | some (6, _) => i = .pktPhase qid
    | some (7, op) => i = if op = 2 then Instr.pktJobctlSetPriority qid else .pktJobctlCancel qid
    | some (8, _) => i = .pktPresent qid
    | some (9, _) => i = .pktFence qid
    | _ => i = .pktNop qid
  | .waitRecheck qid => i = .waitRecheck qid
  | .waitTimeout qid => i = .waitTimeout qid
  | .dispatcherDecision => i = .dispatcherDecision
  | .groupComplete gid => i = .groupComplete gid
  | .clusterSave cluster => i = .clusterSave cluster
  | .energyRebalance region => i = .energyRebalance region
  | .taskStart region => i = .taskStart region
  | .completeTask gid coil => i = .completeTask gid coil
  | .taskFaultListEntry gid coil => i = .taskFaultListEntry gid coil
  | .taskPoolClose launch => i = .taskPoolClose launch
  | .pageWalkComplete entry => i = .pageWalkComplete entry
  | .tlbiComplete => i = .tlbiComplete
  | .dirtyLineSweep core => i = .dirtyLineSweep core
  | .scWheelPosition => i = .scWheelPosition
  | .longLatencyLand gid coil => i = .longLatencyLand gid coil
  | .sleepHoldEnd gid coil => i = .sleepHoldEnd gid coil
  | .watchdogExpiry gid coil => i = .watchdogExpiry gid coil
  | .copyDescriptorFetch core => i = .copyDescriptorFetch core
  | .copyBytesLand copy bytes => i = .copyBytesLand copy bytes
  | .copyComplete copy => i = .copyComplete copy
  | .ldblkFillComplete fill => i = .ldblkFillComplete fill
  | .osGrant slice entry => i = .osGrant slice entry
  | .osWatchdogExpiry slice entry => i = .osWatchdogExpiry slice entry
  | .osOverflowRetry slice => i = .osOverflowRetry slice
  | .waveStart render => i = .waveStart render
  | .blendApply render => i = .blendApply render
  | .tileRenderRetire render => i = .tileRenderRetire render
  | .passEnd pass => i = .passEnd pass
  | .headCmdComplete head => i = .headCmdComplete head
  | .headFrameEnd head => i = .headFrameEnd head
  | .roundStart head => i = .roundStart head
  | .rowBundleIssue head => i = .rowBundleIssue head
  | .rowStop head => i = .rowStop head
  | .rowResume head => i = .rowResume head
  | .syncRelease head => i = .syncRelease head
  | .roundTimeout head => i = .roundTimeout head
  | .poseLatch head band => i = .poseLatch head band
  | .bandDeadline head band => i = .bandDeadline head band
  | .lineScanout head => i = .lineScanout head
  | .bandStart core => i = .bandStart core
  | .bandDrainEnd core => i = .bandDrainEnd core
  | .fetchComplete core m1 => i = .fetchComplete core m1
  | .gqPush core => i = .gqPush core

/-- Instructions executed in turn, each for its own part of a bundle. -/
def inTurn (cur : Nat → Cur) (is : List (Nat × Instr)) (s : State) : State :=
  is.foldl (fun t n => { goesTo t (exec n.2 { t with cur := cur n.1 }) with cur := .none }) s

end Sys2Proof.Claims
end

