-- ==== Sys2Proof/Certificates/Slice0/Obligations.lean ====
section
/-! DEFINITION. The obligations: what the numbered rules of the spec say, as statements about the machine. -/
open Sys2Proof Sys2Proof.Machine Sys2Proof.Claims

/-! ## Xamal: integer instructions -/

/-- R315, R316, R325, R326, R328, R329, R332. Where one of these instructions passes its checks, it completes: D of every active thread receives the value of its entry,
every other register, every mask, every flag, all of memory and every other part of the machine is as it was, and the threads go on at the next pc. -/
def Obligations.IntegerResults : Prop :=
  ∀ (s : State) (gid c : Nat) (lanes : W32) (pc : W64) (x : XOp), iTy x < 3 →
    ∀ e ∈ arithTable ++ logicTable ++ fieldTable ++ scanTable, Ready s gid c lanes pc x (namedOf x (e.needs x)) →
      ∃ co', exec (e.make x) s = .next (after s gid c co') ∧
        WritesD (issued s gid c lanes (nextPc pc x)) co' x.dst (e.needs x).d (active s gid c lanes x)
          (e.val x (s.coil gid c) (active s gid c lanes x))

/-- R327. `ICMP` with a register D writes 1 or 0; with a mask D it writes the mask through `MaskWrite`, a bit for each active thread for which the condition holds.
`SEL` writes a where the 32-bit value c is not 0, and else b, at the width of its type. -/
def Obligations.IntegerCompare : Prop :=
  ∀ (s : State) (gid c : Nat) (lanes : W32) (pc : W64) (x : XOp), iTy x < 3 →
    let act := active s gid c lanes x
    let co := s.coil gid c
    let base := issued s gid c lanes (nextPc pc x)
    (Ready s gid c lanes pc x (namedOf x { a := wI x, b := wI x, d := 1 }) →
      ((∀ m, x.dst ≠ .m m) → ∃ co', exec (.icmp x) s = .next (after s gid c co') ∧
        WritesD base co' x.dst 1 act (fun l => if icmpHolds x co l then 1 else 0)) ∧
      (∀ m, x.dst = .m m → exec (.icmp x) s = .next (after s gid c (base.maskWrite m.toNat (lanesOf act (icmpHolds x co)))))) ∧
    (Ready s gid c lanes pc x (namedOf x { a := wI x, b := wI x, c := 1, d := wI x }) → ∃ co', exec (.sel x) s = .next (after s gid c co') ∧
      WritesD base co' x.dst (wI x) act (fun l => if opC x co .i32 l ≠ 0 then (bvA x co l).toNat else (bvB x co l).toNat))

/-- R331, R333. `SHFL` gives each active thread the value of an active source lane, or its own, and `VTOS` gives a uniform register the value of a lane whose register is
full; both results land later. `STOV` writes the register of a lane, active or not. Nothing else changes. -/
def Obligations.LaneExchange : Prop :=
  ∀ (s : State) (gid c : Nat) (lanes : W32) (pc : W64) (x : XOp), iTy x < 3 →
    let co := s.coil gid c
    let act := active s gid c lanes x
    let base := issued s gid c lanes (nextPc pc x)
    let lane := opB x co .i32 (lowOf act) % 32
    (Ready s gid c lanes pc x (namedOf x { a := wI x, b := 1, d := wI x }) → ∃ co', exec (.shfl x) s = .next (after s gid c co') ∧
      AwaitsD base co' x.dst (wI x) act (fun l => opA x co (tyOf (iTy x)) (shuffleLane x co act l)) false) ∧
    (Ready s gid c lanes pc x (namedOf x { b := 1, d := wI x }) →
      (∀ r ∈ namedSrc x.a (wI x), r.illegal co.granules = false ∧ r.bad co lane = false ∧ r.empty co lane = false) →
      ∃ co', exec (.vtos x) s = .next (after s gid c co') ∧ AwaitsD base co' x.dst (wI x) [lowOf act] (fun _ => opA x co (tyOf (iTy x)) lane) false) ∧
    (Ready s gid c lanes pc x (namedOf x { a := wI x, b := 1 }) →
      (∀ r ∈ namedDst x.dst (wI x), r.illegal co.granules = false ∧ r.bad co lane = false ∧ r.empty co lane = false) →
      ∃ co', exec (.stov x) s = .next (after s gid c co') ∧ WritesD base co' x.dst (wI x) [lane] (fun _ => opA x co (tyOf (iTy x)) (lowOf act)))

/-! ## Xamal: floating point and conversions -/

/-- R204, R230, R335, R336, R337, R338, R339, R340, R341. Where no flag that is raised meets an enabled trap, the instruction completes: D of every active thread receives the exact value narrowed
once, FPSTAT takes the flags of every element, and nothing else changes. The special functions complete likewise, and their results land later. `FREDC` gives every active thread the root of the tree over the active lanes with the flags of every node; `FCMP` writes its conditions to a register, or
through `MaskWrite` to a mask. -/
def Obligations.FloatResults : Prop :=
  ((∀ (s : State) (gid c : Nat) (lanes : W32) (pc : W64) (x : XOp), ∀ e ∈ floatTable, Ready s gid c lanes pc x (namedOf x (e.needs x)) →
    let act := active s gid c lanes x
    let fl := fun l => (e.val x (s.coil gid c) l).2
    Quiet (s.coil gid c) act fl →
    ∃ co', exec (e.make x) s = .next (after s gid c co') ∧
      WritesD (flagged (issued s gid c lanes (nextPc pc x)) act fl) co' x.dst (e.needs x).d act (fun l => (e.val x (s.coil gid c) l).1)) ∧
  (∀ (s : State) (gid c : Nat) (lanes : W32) (pc : W64) (x : XOp), ∀ e ∈ specialTable, Ready s gid c lanes pc x (namedOf x (e.needs x)) →
    let act := active s gid c lanes x
    let fl := fun l => (e.val x (s.coil gid c) l).2
    Quiet (s.coil gid c) act fl →
    ∃ co', exec (e.make x) s = .next (after s gid c co') ∧
      AwaitsD (flagged (issued s gid c lanes (nextPc pc x)) act fl) co' x.dst (e.needs x).d act (fun l => (e.val x (s.coil gid c) l).1) false)) ∧
  (∀ (s : State) (gid c : Nat) (lanes : W32) (pc : W64) (x : XOp),
    let co := s.coil gid c
    let act := active s gid c lanes x
    let base := issued s gid c lanes (nextPc pc x)
    (Ready s gid c lanes pc x (namedOf x { a := ftWords x, d := ftWords x }) → Quiet co act (fun _ => (fredcVal x co act).2) →
      ∃ co', exec (.fredc x) s = .next (after s gid c co') ∧
        WritesD (flagged base act (fun _ => (fredcVal x co act).2)) co' x.dst (ftWords x) act (fun _ => (fredcVal x co act).1)) ∧
    (Ready s gid c lanes pc x (namedOf x { a := ftWords x, b := ftWords x, d := 1 }) → Quiet co act (fcmpFlags x co) →
      ((∀ m, x.dst ≠ .m m) → ∃ co', exec (.fcmp x) s = .next (after s gid c co') ∧
        WritesD (flagged base act (fcmpFlags x co)) co' x.dst 1 act (fun l =>
          (if (fcmpAt x co l 0).1 then 1 else 0) + (if ftElems x = 2 ∧ (fcmpAt x co l 1).1 then 2 else 0))) ∧
      (∀ m, x.dst = .m m → exec (.fcmp x) s =
        .next (after s gid c (flagged (base.maskWrite m.toNat (lanesOf act (fun l => (fcmpAt x co l 0).1))) act (fcmpFlags x co))))))

/-- R342, R343, R344, R345, R346. A conversion whose codes its entry accepts (with the slot of the launch where one is named) completes: the value narrowed once, or rounded
to an integer and bounded, in D of every active thread, with its flags. `UNPK` needs an element that exists. -/
def Obligations.ConversionResults : Prop :=
  ∀ (s : State) (gid c : Nat) (lanes : W32) (pc : W64) (x : XOp),
    let co := s.coil gid c
    let act := active s gid c lanes x
    let base := issued s gid c lanes (nextPc pc x)
    (∀ e ∈ convTable s, convLegal (convOpc (e.make x)) x s = true → Ready s gid c lanes pc x (namedOf x (e.needs x)) →
      Quiet co act (fun l => (e.val x co l).2) → ∃ co', exec (e.make x) s = .next (after s gid c co') ∧
        WritesD (flagged base act (fun l => (e.val x co l).2)) co' x.dst (e.needs x).d act (fun l => (e.val x co l).1)) ∧
    (convLegal 0x64 x s = true → Ready s gid c lanes pc x (namedOf x { a := 1, b := 1, d := 2 }) →
      (∀ l ∈ act, opB x co .i32 l < 16 / fmtBits (convFrom x s)) → Quiet co act (fun l => (unpkVal s x co l).2) →
      ∃ co', exec (.unpk x) s = .next (after s gid c co') ∧
        WritesD (flagged base act (fun l => (unpkVal s x co l).2)) co' x.dst 2 act (fun l => (unpkVal s x co l).1))

/-! ## Xamal: control, masks and specials -/

/-- R198, R199, R317, R321. Transfers set the pc of the active threads, and the others go on at the next instruction; a link is the next pc as an offset from CODE; `YIELD` ends the turn
under FAIR 1; `SLEEP` holds its threads, or under FAIR 0 the path that issued it, for n cc of the core. -/
def Obligations.ControlResults : Prop :=
  ∀ (s : State) (gid c : Nat) (lanes : W32) (pc : W64) (x : XOp),
    let co := s.coil gid c
    let act := active s gid c lanes x
    let next := nextPc pc x
    let base := issued s gid c lanes next
    let ofs : W64 := match x.ext with | .b o => o.signExtend 64 | _ => 0
    let fair := (s.launchOf gid).rec_.fair
    let yielded : Coil := if fair then { base with turnOver := true } else base
    let n := min (opA x co .i32 (lowOf act)) 65535
    let held : Thread → Thread := fun t => { t with heldUntil := coreCycles s (s.group gid).core + n }
    let link := (next - (s.launchOf gid).rec_.code.setWidth 64).toNat
    (Ready s gid c lanes pc x [] → exec (.nop x) s = .next (after s gid c base)) ∧
    (Ready s gid c lanes pc x [] → exec (.bra x) s = .next (after s gid c (branched base lanes act (fun _ => pc + ofs)))) ∧
    (iTy x < 3 → Ready s gid c lanes pc x (namedOf x { a := wI x, b := wI x }) → exec (.brc x) s = .next (after s gid c
      (branched base lanes (act.filter (icmpHolds x co)) (fun _ => pc + ofs)))) ∧
    (Ready s gid c lanes pc x (namedOf x { a := 1 }) →
      exec (.brx x) s = .next (after s gid c (branched base lanes act (fun l => codeAt s gid (opA x co .i32 l)))) ∧
      exec (.ret x) s = .next (after s gid c (branched base lanes act (fun l => codeAt s gid (opA x co .i32 l))))) ∧
    (Ready s gid c lanes pc x (namedOf x { d := 1 }) → ∃ co', WritesD base co' x.dst 1 act (fun _ => link) ∧
      exec (.call x) s = .next (after s gid c (branched co' lanes act (fun _ => pc + ofs)))) ∧
    (Ready s gid c lanes pc x (namedOf x { a := 1, d := 1 }) → ∃ co', WritesD base co' x.dst 1 act (fun _ => link) ∧
      exec (.callx x) s = .next (after s gid c (branched co' lanes act (fun l => codeAt s gid (opA x co .i32 l))))) ∧
    (Ready s gid c lanes pc x [] → exec (.yield x) s = .next (after s gid c yielded)) ∧
    (Ready s gid c lanes pc x (namedOf x { a := 1 }) → exec (.sleep x) s = .next (after s gid c (
      if n = 0 then yielded else if fair then { eachLane base act (fun _ => held) with turnOver := true } else eachLane base (laneList lanes) (fun _ => held))))

/-- R201, R323, R324. Joining sets the active threads' membership bits, leaving clears their membership and arrival bits, `MWAIT` records the arrivals of members and ends the turn, and
`MSET`, `MBAL` and `MLOG` write a whole membership through `MaskWrite`. `MaskWrite` sets the membership, keeps the arrivals of members, and clears a record that has become equal to a non-empty membership; no other mask and no
register changes, and every thread that is not a waiter of the mask stays as it is. -/
def Obligations.MaskResults : Prop :=
  (∀ (s : State) (gid c : Nat) (lanes : W32) (pc : W64) (x : XOp) (m : BitVec 8), x.dst = .m m →
    let co := s.coil gid c
    let act := active s gid c lanes x
    let base := issued s gid c lanes (nextPc pc x)
    let k := base.mask m.toNat
    let come := laneMask act &&& k.member
    let a := BitVec.ofNat 32 (opA x co .i32 (highOf act))
    let b := BitVec.ofNat 32 (opB x co .i32 (highOf act))
    (Ready s gid c lanes pc x [] →
      exec (.mjoin x) s = .next (after s gid c (base.setMask m.toNat { k with member := k.member ||| laneMask act })) ∧
      exec (.mleave x) s = .next (after s gid c (base.leaveMask m.toNat (laneMask act))) ∧
      (come = 0 → exec (.mwait x) s = .next (after s gid c { (base.setMask m.toNat k).testMask m.toNat with turnOver := true })) ∧
      (come ≠ 0 → exec (.mwait x) s =
        .next (let w := enterWait (after s gid c (base.mapLanes come (fun t => { t with pc := pc }))) gid c come (.mwait m.toNat) (nextPc pc x)
               w.modCoil gid c (fun q => { (q.setMask m.toNat { k with arrival := k.arrival ||| come }).testMask m.toNat with turnOver := true })))) ∧
    (Ready s gid c lanes pc x (namedOf x { a := 1 }) →
      exec (.mset x) s = .next (after s gid c (base.maskWrite m.toNat a)) ∧
      exec (.mbal x) s = .next (after s gid c (base.maskWrite m.toNat (lanesOf act (fun l => opA x co .i32 l != 0))))) ∧
    (Ready s gid c lanes pc x (namedOf x { a := 1, b := if x.fn = 4 then 0 else 1 }) →
      exec (.mlog x) s = .next (after s gid c (base.maskWrite m.toNat (
        match x.fn.toNat with | 0 => a &&& b | 1 => a ||| b | 2 => a ^^^ b | 3 => a &&& ~~~b | _ => ~~~a))))) ∧
  (∀ (co : Coil) (m : Nat) (new : W32),
    let left := (co.mask m).arrival &&& new
    let co' := co.maskWrite m new
    co'.mask m = { member := new, arrival := if new ≠ 0 ∧ left = new then 0 else left } ∧
    (∀ j, j ≠ m → co'.mask j = co.mask j) ∧ co'.v = co.v ∧ co'.s = co.s ∧
    (∀ l, (∀ r ∈ co.waits, r.wait = .mwait m → laneIn r.lanes l = false) → co'.thread l = co.thread l) ∧
    (∀ r ∈ co'.waits, r.wait = .mwait m → r.lanes &&& ~~~new = 0 ∧ ¬ (new ≠ 0 ∧ left = new)))

/-- R207, R273, R305, R322. `GETS` of each special that it may read completes and gives its value; of `TRAPRET`, which cannot be read, it raises `ILLEGAL_OPERAND`. `SETS` of a thread's special completes and writes it for each active
thread; of a coil's, the value of the highest; `TRAPRET` clears INTRAP and continues at TRAPPC, and a lane that left an `EMITP` half-way there goes on with it; a write of a special that R305 makes read-only, or of `TRAPRET` outside a trap, raises `ILLEGAL_OPERAND`. -/
def Obligations.SpecialResults : Prop :=
  (∀ (s : State) (gid c : Nat) (lanes : W32) (pc : W64) (x : XOp), ∀ e ∈ specials, x.fn.toNat = e.num →
    Ready s gid c lanes pc x (namedOf x { d := e.words }) → ∃ co', exec (.gets x) s = .next (after s gid c co') ∧
      WritesD (issued s gid c lanes (nextPc pc x)) co' x.dst e.words (active s gid c lanes x) (e.val s gid c)) ∧
  (∀ (s : State) (gid c : Nat) (lanes : W32) (pc : W64) (x : XOp), x.fn = 0x14 → Ready s gid c lanes pc x (namedOf x { d := 1 }) →
    exec (.gets x) s = .next (raiseTrap (markIssued s gid c lanes) gid c lanes pc (nextPc pc x)
      { code := tILLEGAL_OPERAND, cause := laneMask (active s gid c lanes x) })) ∧
  (∀ (s : State) (gid c : Nat) (lanes : W32) (pc : W64) (x : XOp) (n : BitVec 8), x.dst = .sp n →
    let co := s.coil gid c
    let act := active s gid c lanes x
    let base := issued s gid c lanes (nextPc pc x)
    let wide := n = 0x0D ∨ n = 0x11 ∨ n = 0x08 ∨ n = 0x09 ∨ n = 0x12
    Ready s gid c lanes pc x (namedOf x { a := if wide then 2 else 1 }) →
    (n = 0x0A → exec (.sets x) s = .next (after s gid c { base with fairtime := opA x co .i32 (highOf act) % 2 ^ 16 })) ∧
    (n = 0x0B → exec (.sets x) s = .next (after s gid c (eachLane base act (fun l t => { t with fpstat := BitVec.ofNat 5 (opA x co .i32 l) })))) ∧
    (n = 0x0C → exec (.sets x) s = .next (after s gid c (eachLane base act (fun l t => { t with fptrap := BitVec.ofNat 5 (opA x co .i32 l) })))) ∧
    (n = 0x0D → exec (.sets x) s = .next (after s gid c { base with pass := BitVec.ofNat 64 (opA x co .i64 (highOf act)) })) ∧
    (n = 0x11 → exec (.sets x) s = .next (after s gid c (eachLane base act (fun l t => { t with trappc := BitVec.ofNat 64 (opA x co .i64 l) })))) ∧
    (n = 0x14 → (∀ l ∈ act, (co.thread l).intrap = true) →
      exec (.sets x) s = .next (after s gid c (
        let back := fun l => if l ∈ act then some (co.thread l).trappc else none
        let q : Coil := { eachLane base act (fun _ t => { t with intrap := false, pc := t.trappc }) with emitting := co.emitting.bind (·.resume back) }
        if (laneList lanes).all (fun l => (laneList lanes).all (fun k => (q.thread l).pc == (q.thread k).pc)) then q else { q with stickyCount := 0 }))) ∧
    (n = 0x14 → (∃ l ∈ act, (co.thread l).intrap = false) → exec (.sets x) s = .next (raiseTrap (markIssued s gid c lanes) gid c lanes pc (nextPc pc x)
      { code := tILLEGAL_OPERAND, cause := lanesOf act (fun l => !(co.thread l).intrap) })) ∧
    (n ≠ 0x0A → n ≠ 0x0B → n ≠ 0x0C → n ≠ 0x0D → n ≠ 0x11 → n ≠ 0x14 →
      exec (.sets x) s = .next (raiseTrap (markIssued s gid c lanes) gid c lanes pc (nextPc pc x) { code := tILLEGAL_OPERAND, cause := laneMask act })))

/-! ## Xamal: ends of threads and traps -/

/-- R319, R320. `EXIT`, and `KILL` in a shading wave, end their active threads, in a coil without a task and with no error pending (nor, for `EXIT`, one in the colour that a fragment's thread leaves). A thread that ends, holding no key and waiting
nowhere, has exited and is a member of no mask. `TRAP` and `BKPT` complete, and raise their trap on the active threads, with the immediate's low 16 bits. -/
def Obligations.ThreadEnds : Prop :=
  ((∀ (s : State) (gid c : Nat) (lanes : W32) (pc : W64) (x : XOp), Ready s gid c lanes pc x [] → (s.coil gid c).task = none →
    let act := active s gid c lanes x
    MayRelease s gid c act →
    (badColour (s.coil gid c) act = [] → exec (.exit x) s = .next (endThreads (issuedState s gid c lanes pc x) gid c act false)) ∧
    ((∀ l ∈ act, ((s.coil gid c).thread l).frag.isSome = true) →
      exec (.kill x) s = .next (endThreads (issuedState s gid c lanes pc x) gid c act true))) ∧
  (∀ (s : State) (gid c l : Nat) (kill : Bool), (s.group? gid).isSome = true → c < (s.group gid).coils.length →
    l < 32 → l < (s.coil gid c).threads.length → ((s.coil gid c).thread l).keys = [] → ((s.coil gid c).thread l).frag = none →
    (∀ r ∈ (s.coil gid c).waits, laneIn r.lanes l = false) →
    let t := endThread kill s gid c l
    ((t.coil gid c).thread l).st = .exited ∧ ∀ m, m < 12 → laneIn ((t.coil gid c).mask m).member l = false)) ∧
  (∀ (s : State) (gid c : Nat) (lanes : W32) (pc : W64) (x : XOp), Ready s gid c lanes pc x [] →
    let act := active s gid c lanes x
    let req (code : Nat) : TrapReq := { code, cause := laneMask act, imm := opA x (s.coil gid c) .i32 (lowOf act) % 2 ^ 16 }
    exec (.trap x) s = .next (raiseTrap (issuedState s gid c lanes pc x) gid c (laneMask act) pc (nextPc pc x) (req 0x0F)) ∧
    exec (.bkpt x) s = .next (raiseTrap (issuedState s gid c lanes pc x) gid c (laneMask act) pc (nextPc pc x) (req 0x11)))

/-- R270, R271, R272, R274, R275. Taking a trap that is not fatal: every thread of the set has INTRAP set, TRAPCODE the code, TRAPPC the instruction for a fault and the next one for a trap, TRAPADDR and
TRAPINFO as asked for, and continues at the handler; the set is the sticky path, whose turn is not over and whose fairness count runs on if it was so before; the lanes of a half-way `EMITP` among it are in the trap; every other thread, every register and mask and all else is unchanged. A trap is fatal if it is `MACHINE_CHECK`, if the launch names no handler, or if a thread of the set is in a trap: no thread enters a handler, the coil issues no
more, and the dispatcher has the containment of the launch to perform. -/
def Obligations.TrapEntry : Prop :=
  (∀ (s : State) (gid c : Nat) (lanes : W32) (pc next : W64) (t : TrapReq), (s.group? gid).isSome = true → c < (s.group gid).coils.length →
    t.code ≠ tMACHINE_CHECK → (s.launchOf gid).rec_.trapvec ≠ 0 → (∀ l, l < 32 → laneIn lanes l = true → ((s.coil gid c).thread l).intrap = false) →
    ∃ threads, raiseTrap s gid c lanes pc next t = s.modCoil gid c (fun co => { co with
        threads := threads, sticky := lanes, turnOver := false,
        emitting := co.emitting.map (fun e => { e with trapped := e.trapped ||| (e.lanes &&& lanes) }),
        stickyCount := if co.turnOver = false ∧ (∃ l, (laneList co.sticky).find? (fun l => decide ((co.thread l).st = .runnable)) = some l ∧ laneIn lanes l = true)
          then co.stickyCount else 0 }) ∧
      threads.length = (s.coil gid c).threads.length ∧
      ∀ l, l < threads.length →
        threads[l]? = some (let th := (s.coil gid c).thread l
          if laneIn lanes l = true then
            { th with trapcode := BitVec.ofNat 8 t.code, trappc := if t.code = 0x0D ∨ t.code = 0x0F ∨ t.code = 0x11 then next else pc,
                      trapaddr := t.addrs.getD l 0, intrap := true, st := .runnable, pc := (s.launchOf gid).rec_.trapvec.setWidth 64,
                      trapinfo := BitVec.ofNat 32 ((if laneIn t.cause l = true then 1 else 0) + (if t.write then 2 else 0) + t.reg % 256 * 2 ^ 3 + t.kind % 4 * 2 ^ 11
                        + t.imm % 65536 * 2 ^ 16) }
          else th)) ∧
  (∀ (s : State) (gid c : Nat) (lanes : W32) (pc next : W64) (t : TrapReq), (s.group? gid).isSome = true → c < (s.group gid).coils.length →
    (t.code = tMACHINE_CHECK ∨ (s.launchOf gid).rec_.trapvec = 0 ∨ ∃ l, l < 32 ∧ laneIn lanes l = true ∧ ((s.coil gid c).thread l).intrap = true) →
    ∃ r : Containment, r.code = BitVec.ofNat 8 t.code ∧ r.pc = pc ∧ r.coil = BitVec.ofNat 5 c ∧ r.core = BitVec.ofNat 8 (s.group gid).core ∧
      r.addr = t.addrs.getD (lowestLane (if t.code = tMACHINE_CHECK then t.cause else lanes)) 0 ∧
      (raiseTrap s gid c lanes pc next t).disp.inbox = s.disp.inbox ++ [.contain (s.group gid).launch r] ∧
      (raiseTrap s gid c lanes pc next t).coil gid c =
        { s.coil gid c with stopped := true, mcheck := (s.coil gid c).mcheck || decide (t.code = tMACHINE_CHECK) })

/-- R27, R202, R203, R204, R276. For a thread for which it is inactive an instruction only advances the pc; a register outside the allocation or misaligned raises `ILLEGAL_REG`; a pending error, or a poisoned unit that is read, `MACHINE_CHECK`; an empty
register stalls the instruction, or raises `EMPTY_READ` if it is a source with its trap bit set. (That they are examined in this order is the choice of log 13.) A write to a poisoned unit completes, and the unit is sound where the write replaces it whole (which registers
make one unit is log 54). -/
def Obligations.RegisterChecks : Prop :=
  ∀ (s : State) (gid c : Nat) (lanes : W32) (pc : W64) (x : XOp), Site s gid c lanes pc → ∀ e ∈ arithTable ++ logicTable ++ fieldTable ++ scanTable,
    let co := s.coil gid c
    let act := active s gid c lanes x
    let rs := namedOf x (e.needs x)
    (act = [] → exec (e.make x) s = .next (issuedState s gid c lanes pc x)) ∧
    (act ≠ [] → (∃ r ∈ rs, r.illegal co.granules = true) → ∃ r ∈ rs, r.illegal co.granules = true ∧
      exec (e.make x) s = .next (raiseTrap (markIssued s gid c lanes) gid c lanes pc (nextPc pc x)
        { code := tILLEGAL_REG, cause := laneMask act, reg := r.n, kind := if r.isS then 1 else 0 })) ∧
    (act ≠ [] → (∀ r ∈ rs, r.illegal co.granules = false) → (∃ r ∈ rs, ∃ l ∈ act, r.bad co l = true) →
      exec (e.make x) s = .next (raiseTrap (markIssued s gid c lanes) gid c lanes pc (nextPc pc x)
        { code := tMACHINE_CHECK, cause := lanesOf act (fun l => rs.any (fun r => r.bad co l)), addrs := errorAddrs co rs })) ∧
    (act ≠ [] → iTy x < 3 → (∀ r ∈ rs, r.illegal co.granules = false ∧ ∀ l ∈ act, r.bad co l = false ∧ r.empty co l = false) →
      ∃ co' poisoned, exec (e.make x) s = .next (after s gid c { co' with struck := poisoned }) ∧
        WritesD (issued s gid c lanes (nextPc pc x)) co' x.dst (e.needs x).d act (e.val x co act) ∧
        ∀ u, u ∈ poisoned ↔ u ∈ co.struck ∧ ¬ ∃ r ∈ rs, r.isD = true ∧ 2 ≤ r.w ∧ ∃ l ∈ act, ∃ k ∈ r.keys l, r.unit k = u) ∧
    (act ≠ [] → (∀ r ∈ rs, r.illegal co.granules = false ∧ ∀ l ∈ act, r.bad co l = false) → (∃ r ∈ rs, ∃ l ∈ act, r.empty co l = true) →
      ((∀ r ∈ rs, r.trap = true → ∀ l ∈ act, r.empty co l = false) → exec (e.make x) s = .next s) ∧
      ((∃ r ∈ rs, r.trap = true ∧ ∃ l ∈ act, r.empty co l = true) → ∃ r ∈ rs, r.trap = true ∧ ∃ l ∈ act, r.empty co l = true ∧
        exec (e.make x) s = .next (raiseTrap (markIssued s gid c lanes) gid c lanes pc (nextPc pc x)
          { code := tEMPTY_READ, cause := lanesOf act (r.empty co), reg := r.n, kind := if r.isS then 1 else 0 })))

/-! ## Xamal: memory -/

/-- R256, R257, R357, R358, R359. A load whose addresses are aligned and translate, and whose bytes hold no error, completes: the core notes what it has read, D is empty until the
bytes, extended, land, and then the load acquires if its order does; its CACHE field marks the lines that the L1 holds; where the L1 has room for the lines, nothing changes outside the cores and their caches. An `SC` load takes its place
in the core's queue for the wheel (R255). `LDU` makes the one access of the lowest active lane. -/
def Obligations.LoadResults : Prop :=
  ∀ (s : State) (gid c : Nat) (lanes : W32) (pc : W64) (x : XOp) (pa leaf : Nat → Nat),
    let co := s.coil gid c
    let k := (s.group gid).core
    let size := mSize x
    let w := (sizeTy size).words
    let addr := globalAddr x co
    let act := active s gid c lanes x
    Ready s gid c lanes pc x (namedOf x { a := 2, d := w }) →
    ∀ e ∈ [((.ld x : Instr), act), (.ldu x, [lowOf act])],
      let s1 := e.2.foldl (fun t l => loadNote t k (leaf (addr l)) (scopeOf x) (pa (addr l)) size) (issuedState s gid c lanes pc x)
      let s2 := hinted s1 gid x (e.2.map (fun l => pa (addr l)))
      Reaches s gid (e.2.map addr) size false .active pa leaf →
      (orderOf x ≠ 4 → (∀ l ∈ e.2, loadBad s1 k (leaf (addr l)) (scopeOf x) (pa (addr l)) size = false) →
        (∃ co', exec e.1 s = .next (acquired (acquiring x) (s2.modCoil gid c (fun _ => co')) gid (scopeOf x)) ∧
          AwaitsD (issued s gid c lanes (nextPc pc x)) co' x.dst w e.2
            (fun l => extend (decide (8 ≤ x.fn.toNat)) size (loadNat s1 k (leaf (addr l)) (scopeOf x) (pa (addr l)) size)) false) ∧
        (l1Held (s.core k).l1 + e.2.length ≤ l1Lines → s2 = { s with cor := s2.cor })) ∧
      (orderOf x = 4 → MayRelease s gid c e.2 → ∃ t, exec e.1 s = .next t ∧
        Queued (issuedState s gid c lanes pc x) t gid c (e.2.map (fun l => scOp (ctxOf s gid c lanes pc x) (issuedState s gid c lanes pc x) 0 size
          (laneMask (if e.2.length = 1 then act else [l])) (l, pa (addr l), leaf (addr l)) 0 0 0 0 (decide (8 ≤ x.fn.toNat)) (dstRegs x.dst w l))))

/-- R257, R357, R358, R359. A store whose addresses are aligned, translate and may be written completes: after the release that its order makes, the low bytes of its operand are written at its scope,
lane by lane in ascending order, and its CACHE field marks the lines that the L1 holds. An `SC` store takes its place in the queue for the wheel. -/
def Obligations.StoreResults : Prop :=
  ∀ (s : State) (gid c : Nat) (lanes : W32) (pc : W64) (x : XOp) (pa leaf : Nat → Nat),
    let co := s.coil gid c
    let k := (s.group gid).core
    let act := active s gid c lanes x
    let size := mSize x
    let addr := globalAddr x co
    let data := fun l => opB x co (sizeTy size) l
    Ready s gid c lanes pc x (namedOf x { a := 2, b := (sizeTy size).words }) → Reaches s gid (act.map addr) size true .active pa leaf →
    (releasing x = true → MayRelease s gid c act) →
    (orderOf x ≠ 4 → exec (.st x) s = .next (hinted (act.foldl (fun t l => storeBytes t k (leaf (addr l)) (scopeOf x) (pa (addr l)) (leBytes size (data l)))
      (released (releasing x) (issuedState s gid c lanes pc x) gid (scopeOf x))) gid x (act.map (fun l => pa (addr l))))) ∧
    (orderOf x = 4 → ∃ t, exec (.st x) s = .next t ∧
      Queued (issuedState s gid c lanes pc x) t gid c (act.map (fun l => scOp (ctxOf s gid c lanes pc x) (issuedState s gid c lanes pc x) 1 size
        (laneMask [l]) (l, pa (addr l), leaf (addr l)) (data l) 0 0 0 false [])))

/-- R208, R357, R359, R366. Accesses of local memory inside it and aligned, of bytes without an error, complete: a load's bytes land in D, a store's are written lane by lane, and `ATOML` performs its step lane by lane and gives the old
values. -/
def Obligations.LocalAccesses : Prop :=
  ∀ (s : State) (gid c : Nat) (lanes : W32) (pc : W64) (x : XOp),
    let co := s.coil gid c
    let act := active s gid c lanes x
    let s0 := issuedState s gid c lanes pc x
    let base := issued s gid c lanes (nextPc pc x)
    let addr := localAddr x co
    let size := mSize x
    let aop := x.fn.toNat % 16
    let ty := x.fn.toNat / 16
    let n := (atTy ty).words
    (Ready s gid c lanes pc x (namedOf x { a := 1, d := (sizeTy size).words }) → LocalOk s gid (act.map addr) size →
      (∀ l ∈ act, localBad s gid (addr l) size = false) → ∃ co', exec (.ldl x) s = .next (after s gid c co') ∧ AwaitsD base co' x.dst (sizeTy size).words act
        (fun l => extend (decide (8 ≤ x.fn.toNat)) size (localNat s gid (addr l) size)) false) ∧
    (Ready s gid c lanes pc x (namedOf x { a := 1, b := (sizeTy size).words }) → LocalOk s gid (act.map addr) size → (releasing x = true → MayRelease s gid c act) →
      exec (.stl x) s = .next (act.foldl (fun t l => localWrite t gid (addr l) (leBytes size (opB x co (sizeTy size) l)))
        (released (releasing x) s0 gid (scopeOf x)))) ∧
    (Ready s gid c lanes pc x (namedOf x { a := 1, b := n, c := if aop = 9 then n else 0, d := n }) → LocalOk s gid (act.map addr) (atBytes ty) →
      (∀ l ∈ act, localBad s gid (addr l) (atBytes ty) = false) → (releasing x = true → MayRelease s gid c act) →
      let step := fun (p : State × List (Nat × Nat)) l =>
        (localAtomic p.1 gid (addr l) aop ty (opB x co (atTy ty) l) (opC x co (atTy ty) l), p.2 ++ [(l, localNat p.1 gid (addr l) (atBytes ty))])
      let r := act.foldl step (released (releasing x) s0 gid (scopeOf x), [])
      exec (.atoml x) s = .next ((ctxOf s gid c lanes pc x).later r.1 n r.2))

/-- R262, R363, R364. An atomic whose addresses are aligned, translate and may be written completes: after its release the active threads perform one step each in ascending lane order, D of each receives the
old value, and then its acquire; `RED` gives no value. An `SC` atomic takes its place in the queue for the wheel. -/
def Obligations.AtomicResults : Prop :=
  ∀ (s : State) (gid c : Nat) (lanes : W32) (pc : W64) (x : XOp) (pa leaf : Nat → Nat),
    let co := s.coil gid c
    let cx := ctxOf s gid c lanes pc x
    let k := (s.group gid).core
    let act := active s gid c lanes x
    let aop := x.fn.toNat % 16
    let at_ := x.fn.toNat / 16
    let ty := atTy at_
    let size := atBytes at_
    let addr := globalAddr x co
    ∀ e ∈ [((.atom x : Instr), true, false), (.atomf x, true, false), (.cas x, true, true), (.red x, false, false)],
      let regs := fun l => if e.2.1 then dstRegs x.dst ty.words l else []
      Ready s gid c lanes pc x (namedOf x { a := 2, b := ty.words, c := if e.2.2 then ty.words else 0, d := if e.2.1 then ty.words else 0 }) →
      Reaches s gid (act.map addr) size true .active pa leaf → (releasing x = true → MayRelease s gid c act) →
      (orderOf x ≠ 4 →
        let step := fun (p : State × List (Nat × Nat × Bool)) l =>
          let q := atomicStep p.1 k (leaf (addr l)) (pa (addr l)) size (mFields x).place (fun old => atomicNew aop at_ old (opB x co ty l) (opC x co ty l))
          (q.2, p.2 ++ [(l, q.1, atomicBad p.1 k (pa (addr l)) size)])
        let r := act.foldl step (released (releasing x) (issuedState s gid c lanes pc x) gid (scopeOf x), [])
        exec e.1 s = .next (acquireIf cx (if e.2.1 then landLoads cx r.1 ty.words r.2 else r.1) (acquiring x) (scopeOf x))) ∧
      (orderOf x = 4 → ∃ t, exec e.1 s = .next t ∧ Queued (issuedState s gid c lanes pc x) t gid c
        (act.map (fun l => scOp cx (issuedState s gid c lanes pc x) 2 size (laneMask [l]) (l, pa (addr l), leaf (addr l)) (opB x co ty l) (opC x co ty l) aop at_ false (regs l))))

/-- R249, R256, R258, R262, R364. What a store of a core within one line does, where its caches have room: the core's loads at every scope read the stored bytes; every byte outside the stored range reads as before, for every core, page and scope, but
that a store at `DEVICE` scope brings the bytes of its line that a region holds dirty home; a clean copy of the line that the core's L1 holds, that is what a fill left there, stays, and shows the stored bytes; and memory itself is untouched by a store of cacheable
bytes below `DEVICE` scope. What a load notes: its own bytes read as before, so does every byte that no L1 copy serves; only the core's L1 changes, and the ownership of the line, which a read at the home takes from the other cores. One atomic step on bytes that no
cache holds dirty: it returns the value in memory, leaves the new value there (or, where the operation writes none, the old one), and every other byte of memory is as it was, wherever it is performed. (What the caches hold, and what leaves them for room, is log 51; that
an L1 keeps dirty bytes beside its clean copy, logs 45 and 48.) -/
def Obligations.MemoryRules : Prop :=
  (∀ (s : State) (k leaf scope pa : Nat) (bs : List Byte), Memory.wf s.mem = true → k < 192 → bs ≠ [] → pa % 128 + bs.length ≤ 128 → inMailbox pa = false →
    l1Held (s.core k).l1 < l1Lines → (s.region (regionOf k)).cache.dirty.length < regionLines →
    let t := storeBytes s k leaf scope pa bs
    (∀ i sc, i < bs.length → loadByte t k leaf sc (pa + i) = bs.getD i 0) ∧
    (∀ j leaf' sc a, a < pa ∨ pa + bs.length ≤ a →
      a / 128 ≠ pa / 128 ∨ (bypass leaf = false ∧ scope ≤ 2) ∨ (∀ r, r < 24 → tget (s.region r).cache.dirty (pa / 128) = none) →
      loadByte t j leaf' sc a = loadByte s j leaf' sc a) ∧
    (∀ d, tget (s.core k).l1.clean (pa / 128) = some d → ∃ d', tget (t.core k).l1.clean (pa / 128) = some d' ∧
      ∀ i, i < 128 → lineByte d' i = if pa % 128 ≤ i ∧ i < pa % 128 + bs.length then bs.getD (i - pa % 128) 0 else lineByte d i) ∧
    (bypass leaf = false → scope ≤ 2 → t.mem = s.mem)) ∧
  (∀ (s : State) (k leaf scope pa n : Nat), pa % 128 + n ≤ 128 → l1Held (s.core k).l1 < l1Lines →
    let t := loadNote s k leaf scope pa n
    (∀ i, i < n → loadByte t k leaf scope (pa + i) = loadByte s k leaf scope (pa + i)) ∧
    (∀ j leaf' sc a, bypass leaf' = true ∨ 2 ≤ sc ∨ j ≠ k → loadByte t j leaf' sc a = loadByte s j leaf' sc a) ∧
    t = { s with cor := { s.cor with cores := t.cor.cores } } ∧
    (∀ j, j ≠ k → t.core j = { s.core j with owned := (t.core j).owned, predictor := (t.core j).predictor } ∧
      (2 ≤ scope → (t.core j).owned = (s.core j).owned.erase (pa / 128))) ∧
    t.core k = { s.core k with l1 := (t.core k).l1 } ∧ (t.core k).l1.dirty = (s.core k).l1.dirty) ∧
  (∀ (s : State) (k leaf pa size place : Nat) (f : Nat → Option Nat), Memory.wf s.mem = true → 0 < size → pa % 128 + size ≤ 128 → inMailbox pa = false →
    tget (s.core k).l1.dirty (pa / 128) = none → (∀ r, r < 24 → tget (s.region r).cache.dirty (pa / 128) = none) →
    let q := atomicStep s k leaf pa size place f
    let old := physNat s pa size
    q.1 = old ∧ physNat q.2 pa size = (match f old with | some v => v % 256 ^ size | none => old) ∧
    (∀ a, a < pa ∨ pa + size ≤ a → physGet q.2 a = physGet s a))

/-- R257, R259, R360, R361, R362. A prefetch, which R361 makes a hint, brings the lines of its lanes that translate into the L1 at `THREAD` and `GROUP` scope, with its CACHE field, and does nothing else (the choice of log 18); `WBL` writes a line back to the point of its scope and `INVL` then drops its clean copy; a fence releases and acquires, and an `SC` fence
takes its place in the queue for the wheel; `LDBLK` makes one block of its lines, and its tag counts one more. -/
def Obligations.LineResults : Prop :=
  ∀ (s : State) (gid c : Nat) (lanes : W32) (pc : W64) (x : XOp) (pa leaf : Nat → Nat),
    let co := s.coil gid c
    let cx := ctxOf s gid c lanes pc x
    let k := (s.group gid).core
    let act := active s gid c lanes x
    let s0 := issuedState s gid c lanes pc x
    let addr := globalAddr x co
    let line := fun l => pa (addr l) / 128
    let first := addr (lowOf act)
    let lines := (List.range ((mFields x).nlm1 + 1)).map (fun i => first + 128 * i)
    (Ready s gid c lanes pc x (namedOf x { a := 2 }) →
      exec (.pref x) s = .next (act.foldl (fun t l =>
        match reach t gid (addr l) false .active with | some p => hinted (fillClean t k p.2 (scopeOf x) p.1) gid x [p.1] | none => t) s0) ∧
      (Reaches s gid (act.map addr) 1 false .active pa leaf →
        exec (.wbl x) s = .next (act.foldl (fun t l => writeBackLine t k (line l) (scopeOf x)) s0) ∧
        exec (.invl x) s = .next (act.foldl (fun t l => dropLine (writeBackLine t k (line l) (scopeOf x)) k (line l) (scopeOf x)) s0)) ∧
      (first % 128 = 0 → Reaches s gid lines 1 false .active pa leaf → (∀ a ∈ lines, leafOrd (leaf a) ≠ 1) → (orderOf x = 4 → MayRelease s gid c act) →
        ∃ t u id, exec (.ldblk x) s = .next t ∧
          u = acquired (acquiring x) (tagKick (released (orderOf x == 4) s0 gid (scopeOf x)) gid (mFields x).tag) gid (scopeOf x) ∧
          (t.group gid).outst = (u.group gid).outst ∧ (t.group gid).tagbits = (u.group gid).tagbits ∧
          tget t.cor.blocks id = some {
            gid, core := k, asid := s.asidOf gid, va := first, lines := lines.map (fun a => (pa a / 128, leaf a)), tag := (mFields x).tag, scope := scopeOf x
            filling := true, sc := orderOf x == 4, order := s0.cor.order, pages := pagesUsed s0 k (s.asidOf gid) lines, cache := (mFields x).cache } ∧
          (orderOf x = 4 → Queued s0 t gid c [scOp cx s0 5 0 (laneMask act) (0, 0, 0) id 0 0 0 false []]))) ∧
    (Ready s gid c lanes pc x [] → (releasing x = true → MayRelease s gid c act) →
      (orderOf x ≠ 4 → exec (.fence x) s = .next (acquired (acquiring x) (released (releasing x) s0 gid (scopeOf x)) gid (scopeOf x))) ∧
      (orderOf x = 4 → ∃ t, exec (.fence x) s = .next t ∧ Queued s0 t gid c (act.map (fun l => scOp cx s0 3 0 (laneMask [l]) (0, 0, 0) 0 0 0 0 false []))))

/-! ## Xamal: synchronisation -/

/-- R367, R368. `BAR` and `CBAR` arrive and wait, after their release, and the episode is examined; `FLAGINC` adds to a flag of a core after a release at `DEVICE`; `FLAGWAIT` subtracts at once, with an
acquire, where the flag suffices, and otherwise waits. -/
def Obligations.BarrierResults : Prop :=
  ∀ (s : State) (gid c : Nat) (lanes : W32) (pc : W64) (x : XOp),
    let co := s.coil gid c
    let cx := ctxOf s gid c lanes pc x
    let k := (s.group gid).core
    let act := active s gid c lanes x
    let low := lowOf act
    let s0 := issuedState s gid c lanes pc x
    (Ready s gid c lanes pc x [] → MayRelease s gid c act →
      exec (.bar x) s = .next (testBar (cx.wait s0 (laneMask act) .bar) gid) ∧
      exec (.cbar x) s = .next (testCbar (noteCbar (cx.wait (releaseAt s0 k 2) (laneMask act) .cbar) gid) (s.group gid).cluster)) ∧
    (Ready s gid c lanes pc x (namedOf x { a := 1, b := 1, c := 1 }) → MayRelease s gid c (laneList lanes) →
      opA x co .i32 low < 192 → opB x co .i32 low < 64 → opA x co .i32 low ∉ s.mod.coreGone →
      exec (.flaginc x) s = .next (flagAdd (releaseAt s0 k 3) (opA x co .i32 low) (opB x co .i32 low) (opC x co .i32 low % 2 ^ 16))) ∧
    (Ready s gid c lanes pc x (namedOf x { a := 1, b := 1 }) → opA x co .i32 low < 64 → opB x co .i32 low < 2 ^ 16 →
      let f := opA x co .i32 low
      let n := opB x co .i32 low
      (n ≤ s.flag k f → exec (.flagwait x) s = .next (acquireAt (s0.setFlag k f (s.flag k f - n)) k gid 3)) ∧
      (s.flag k f < n → exec (.flagwait x) s = .next (cx.wait s0 (laneMask act) (.flag f n))))

/-- R369, R370, R371, R372, R373. With domains that its threads may use: `OSENTER` of keys in order enters or queues lane by lane; a leave of held keys, after a release at `DEVICE`, drops each and advances it;
a skip of seqs that are neither claimed nor held back is posted; where a request finds neither an entry nor room, the whole issue group is descheduled with no lane's effect (the choice of log 16); `OSQRY` reads an entry. -/
def Obligations.SectionResults : Prop :=
  ∀ (s : State) (gid c : Nat) (lanes : W32) (pc : W64) (x : XOp),
    let co := s.coil gid c
    let cx := ctxOf s gid c lanes pc x
    let act := active s gid c lanes x
    let s0 := issuedState s gid c lanes pc x
    let asid := (s.launchOf gid).asid
    let dom := fun l => BitVec.ofNat 8 (opA x co .i32 l)
    let key := fun l => BitVec.ofNat 32 (opB x co .i32 l)
    let seq := fun l => BitVec.ofNat 32 (opC x co .i32 l)
    let may := ∀ l ∈ act, opA x co .i32 l < 256 ∧ (opA x co .i32 l = 0 → (progFrag s (co.thread l)).isSome = true)
    may → MayRelease s gid c act →
    (Ready s gid c lanes pc x (namedOf x { a := 1, b := 1, c := 1, d := 1 }) → (∀ l ∈ act, orderBroken (co.thread l) (dom l) (key l) = false) →
      (∀ l ∈ act, match findKey s (keySlice (dom l) (key l)) asid (dom l) (key l) with | some (_, e) => seqConsumed e (seq l) = false | none => (seq l).toNat < 2 ^ 31) →
      exec (.osenter x) s = .next (match fullAt cx (enterLane cx) s0 with | some sl => deschedule cx s0 sl | none => act.foldl (enterLane cx) s0)) ∧
    (Ready s gid c lanes pc x (namedOf x { a := 1, b := 1 }) → (∀ l ∈ act, ∃ h ∈ (co.thread l).keys, h.dom = dom l ∧ h.key = key l) →
      ∀ e ∈ [((.osleave x : Instr), false), (.osleaveLast x, true)],
        exec e.1 s = .next (act.foldl (fun t l => leaveKey (dropKey t gid c l (dom l) (key l)) (t.launchOf gid).asid (dom l) (key l) e.2 false)
          (releaseAt s0 (s.group gid).core 3))) ∧
    (Ready s gid c lanes pc x (namedOf x { a := 1, b := 1, c := 1 }) → (postSkips cx s0).2 = ([], false) →
      exec (.osskip x) s = .next (match fullAt cx (postSkip cx) s0 with
        | some sl => deschedule cx s0 sl | none => (postSkips cx (releaseAt s0 (s.group gid).core 3)).1)) ∧
    (Ready s gid c lanes pc x (namedOf x { a := 1, b := 1, d := 2 }) → ∃ co', exec (.osqry x) s = .next (after s gid c co') ∧
      WritesD (issued s gid c lanes (nextPc pc x)) co' x.dst 2 act (fun l => keyState s asid (dom l) (key l)))

/-- R213, R214, R367, R368, R370, R371. The episodes: a `BAR` episode that every thread of the group has reached or left by exiting ends every `BAR` wait of the group, and another leaves the state as it is; an increment of a
flag saturates at 65,535; a count of a barrier object that reaches 0 toggles its PHASE. A thread that takes a free key holds it with its seq, and D shows whether the section was abandoned; a leave frees the key and advances nextseq past its own seq and past the k marked
seqs that follow it, which are marked no more while every later mark stands, and every waiter whose seq is then consumed takes `OS_GAP`; a waiter of the seq that is next takes a key that no thread holds. -/
def Obligations.SynchronisationRules : Prop :=
  (∀ (s : State) (gid : Nat), (s.group? gid).isSome = true →
    (arrivedAll (s.group gid) (· = .bar) = true → ∀ co ∈ ((testBar s gid).group gid).coils, ∀ r ∈ co.waits, r.wait ≠ .bar) ∧
    (arrivedAll (s.group gid) (· = .bar) = false → testBar s gid = s)) ∧
  (∀ (s : State) (k f n : Nat), (∀ g ∈ s.cor.groups, ∀ co ∈ g.2.coils, ∀ r ∈ co.waits, ∀ m, r.wait ≠ .flag f m) →
    (flagAdd s k f n).flag k f = min 65535 (s.flag k f + n)) ∧
  (∀ (s : State) (gid off : Nat) (n : Int), (s.group? gid).isSome = true → Memory.wf (s.group gid).lmem = true →
    let old := localNat s gid off 4
    let new := ((old : Int) + n) % 2 ^ 32
    (localNat (countBo s gid off n) gid off 4 : Int) = new ∧
    cellGet ((countBo s gid off n).group gid).lmem (off + 4) = cellGet (s.group gid).lmem (off + 4) ^^^ (if new = 0 then 1 else 0)) ∧
  (∀ (s : State) (sl id gid c l : Nat) (d : Dst) (e : KeyEntry), tget (s.slice sl).keys id = some e → (s.group? gid).isSome = true → c < (s.group gid).coils.length →
    l < 32 → l < (s.coil gid c).threads.length →
    let t := takeKey s sl id gid c l d
    (∃ e', tget (t.slice sl).keys id = some e' ∧ e' = { e with holder := some { gid, coil := c, lane := l }, wdog := 0, wdogAt := s.time }) ∧
    ((t.coil gid c).thread l).keys = ((s.coil gid c).thread l).keys ++ [{ dom := e.dom, key := e.key, seq := e.nextseq }] ∧
    WritesD (s.coil gid c) { s.coil gid c with v := (t.coil gid c).v, s := (t.coil gid c).s } d 1 [l] (fun _ => if e.abandoned then 1 else 0)) ∧
  (∀ (s : State) (asid : W16) (dom : BitVec 8) (key : W32) (id : Nat) (e : KeyEntry) (ab : Bool) (k : Nat),
    let sl := keySlice dom key
    tget (s.slice sl).keys id = some e → findKey s sl asid dom key = some (id, e) → k ≤ 63 + e.lateSkips.length →
    (∀ i, i < k → Marked e (e.nextseq + 1 + BitVec.ofNat 32 i)) → ¬ Marked e (e.nextseq + 1 + BitVec.ofNat 32 k) →
    ∃ e' : KeyEntry,
      e' = { e with
        nextseq := e.nextseq + 1 + BitVec.ofNat 32 k, skips := e'.skips, lateSkips := e'.lateSkips, holder := none, abandoned := e.abandoned || ab
        wdog := 0, wdogAt := s.time, waiters := e.waiters.filter (fun w => !seqConsumed e' w.seq) } ∧
      (∀ q : W32, 1 ≤ (q - e.nextseq).toNat → (Marked e' q ↔ Marked e q ∧ k < (q - e.nextseq).toNat)) ∧
      leaveKey s asid dom key false ab = (e.waiters.filter (fun w => seqConsumed e' w.seq)).foldl (fun t w => raiseGap t key w)
        (s.modSlice sl (fun t => { t with keys := tupd t.keys id (fun _ => e') }))) ∧
  (∀ (s : State) (sl id : Nat) (e : KeyEntry) (w : Waiter) (r : WaitRec) (d : Dst) (dom : BitVec 8) (key seq : W32), tget (s.slice sl).keys id = some e → e.holder = none →
    e.waiters.find? (fun w => w.seq = e.nextseq) = some w → (s.coil w.gid w.coil).waits.find? (fun r => laneIn r.lanes w.lane) = some r → r.wait = .os d dom key seq →
    grantKey s sl id = takeKey ((modKey s sl id (fun e => { e with waiters := e.waiters.erase w })).modCoil w.gid w.coil (fun co => co.wake r (laneMask [w.lane])))
      sl id w.gid w.coil w.lane d)

/-- R264, R266, R374. `PUBLISH` of a valid entry at a scope of its own, after its release, changes the entry at its home. A publish flips ACTIVE and raises GEN by 1, past 0 at its end, and leaves the rest of the entry; the address space's own entry is held by the device, and the entry's line is nowhere dirty. -/
def Obligations.PublishResults : Prop :=
  (∀ (s : State) (gid c : Nat) (lanes : W32) (pc : W64) (x : XOp) (scope : BitVec 8),
    let n := opA x (s.coil gid c) .i32 (lowOf (active s gid c lanes x))
    Ready s gid c lanes pc x (namedOf x { a := 1 }) → MayRelease s gid c (active s gid c lanes x) → x.b = .imm scope → 1 ≤ scope.toNat → scope.toNat ≤ 4 →
    1 ≤ n → n ≤ 4095 → (pubEntry s (s.asidOf gid) n).isSome = true →
    exec (.publish x) s = .next (publishEntry (releaseAt (issuedState s gid c lanes pc x) (s.group gid).core scope.toNat) (s.asidOf gid) n)) ∧
  (∀ (s : State) (asid n : Nat) (e : PubEntry) (w : W64 × W64), Memory.wf s.mem = true → tget s.xlat.asCopies asid = some w → pubEntry s asid n = some e →
    inMailbox (pubAddr s asid n) = false → (∀ r, r < 24 → tget (s.region r).cache.dirty (pubAddr s asid n / 128) = none) →
    pubEntry (publishEntry s asid n) asid n = some { e with active := !e.active, gen := if e.gen + 1 = 2 ^ 48 then 1 else e.gen + 1 })

/-- R121, R122, R123, R380. With a ring that its checks accept and that holds no error: `RINGPUT` claims the next index, and deposits where its slot is free and no earlier put of it is left, or waits; `RINGGET` takes the next slot or waits, `RINGREL` clears the consumer's bit of a slot. -/
def Obligations.RingResults : Prop :=
  ∀ (s : State) (gid c : Nat) (lanes : W32) (pc : W64) (x : XOp) (home : Nat),
    let co := s.coil gid c
    let cx := ctxOf s gid c lanes pc x
    let k := (s.group gid).core
    let act := active s gid c lanes x
    let s0 := issuedState s gid c lanes pc x
    let ref := opA x co .i32 (lowOf act)
    let h := ref % 2 ^ 19
    let r := ringRead s home h
    let cl := (s.group gid).cluster
    let b := opB x co .i32 (lowOf act)
    ref / 2 ^ 19 % 2 ^ 5 = 0 → ref < 2 ^ 27 → memberGid s cl (ref / 2 ^ 24 % 8) = some home → h % 64 = 0 → h + 0x540 ≤ localSize s home →
    1 ≤ r.slots → r.slots ≤ 64 → 1 ≤ r.slotsz → r.slotsz ≤ 4096 → MayRelease s gid c act → localBad s home h 0x14 = false →
    (Ready s gid c lanes pc x (namedOf x { a := 1, b := 1 }) →
      (ref / 2 ^ 24 % 8 = (s.group gid).clgroup → (co.thread (lowOf act)).ringIdx = none → b % 128 = 0 → b + r.slotsz ≤ localSize s gid →
        slotFits s r (ringMembers s r) (putIdx s r % r.slots) = true →
        localBad s home (h + 0x40 + 16 * (putIdx s r % r.slots)) 16 = false →
        let u := setLocal (releaseAt s0 k 2) home (h + 0x10) 4 ((putIdx s r + 1) % 2 ^ 32)
        localBad u gid b r.slotsz = false →
        exec (.ringput x) s = .next (
          if mayPut u r (putIdx s r) then testRings (ringDeposit u r (putIdx s r) (cellsBytes (u.group gid).lmem b r.slotsz)) (u.group gid).cluster
          else cx.wait u (laneMask act) (.ringPut home h (putIdx s r % r.slots) b (BitVec.ofNat 32 (putIdx s r)))))) ∧
    (Ready s gid c lanes pc x (namedOf x { a := 1, b := 1, d := 1 }) → b < 64 → r.members.testBit (s.group gid).clgroup = true →
      slotFits s r [gid] (getIdx s r b % r.slots) = true →
      localBad s home (h + 0x440 + 4 * b) 4 = false → localBad s home (h + 0x40 + 16 * (getIdx s r b % r.slots)) 16 = false →
      exec (.ringget x) s = .next (
        if ringReady s r b then acquireAt (cx.write (ringTake s0 r b).2 1 (act.map (fun l => (l, slotAt r (getIdx s r b % r.slots))))) k gid 2
        else cx.wait s0 (laneMask act) (.ringGet x.dst home h b))) ∧
    (Ready s gid c lanes pc x (namedOf x { a := 1, b := 1, c := 1 }) → b < 64 → ∀ i, i < r.slots → opC x co .i32 (lowOf act) = slotAt r i →
      (slotMask s r i).testBit b = true → localBad s home (h + 0x40 + 16 * i) 8 = false →
      exec (.ringrel x) s = .next (let u := releaseAt s0 k 2
        testRings (setLocal u home (h + 0x40 + 16 * i) 8 (slotMask u r i - 2 ^ b)) (u.group gid).cluster))

/-- R212, R213, R375, R376, R377. `CKICK` kicks the copies of its lanes where the queue has room; `BOWAIT` makes each lane wait whose phase has not ended; `WAITALL`, `WAITANY` and `FFREADY` observe tags, with an
acquire; `WAITANY` of no tag raises `ILLEGAL_OPERAND`; `TAGCLR` clears bits. -/
def Obligations.TagResults : Prop :=
  ∀ (s : State) (gid c : Nat) (lanes : W32) (pc : W64) (x : XOp),
    let co := s.coil gid c
    let cx := ctxOf s gid c lanes pc x
    let k := (s.group gid).core
    let act := active s gid c lanes x
    let s0 := issuedState s gid c lanes pc x
    let base := issued s gid c lanes (nextPc pc x)
    let bits := (s.group gid).tagbits
    let m := BitVec.ofNat 64 (opA x co .i64 (lowOf act))
    (Ready s gid c lanes pc x (namedOf x { a := 1 }) → (∀ l ∈ act, opA x co .i32 l % 64 = 0 ∧ opA x co .i32 l + 64 ≤ localSize s gid ∧ localBad s gid (opA x co .i32 l) 8 = false) →
      (s.core k).copyq.length + act.length ≤ 64 → MayRelease s gid c act → exec (.ckick x) s = .next (act.foldl (kick cx) s0)) ∧
    (Ready s gid c lanes pc x (namedOf x { a := 1, b := 1 }) → (∀ l ∈ act, opA x co .i32 l % 16 = 0 ∧ opA x co .i32 l + 16 ≤ localSize s gid ∧ localBad s gid (opA x co .i32 l) 8 = false) →
      exec (.bowait x) s = .next (act.foldl (fun t l =>
        let off := opA x co .i32 l
        let p := (opB x co .i32 l).testBit 0
        if (cellGet (t.group gid).lmem (off + 4)).toNat.testBit 0 = p then cx.wait t (laneMask [l]) (.bo off p) else t) s0)) ∧
    (Ready s gid c lanes pc x (namedOf x { a := 2 }) →
      (m = 0 → exec (.waitall x) s = .next s0) ∧
      (m ≠ 0 → bits &&& m = m → exec (.waitall x) s = .next (acquireAt s0 k gid (tagScopes (s.group gid) m))) ∧
      (bits &&& m ≠ m → exec (.waitall x) s = .next (cx.wait s0 (laneMask act) (.all m))) ∧
      exec (.tagclr x) s = .next (s0.modGroup gid (fun g => { g with tagbits := bits &&& ~~~m, tagScope := g.tagScope.filter (fun e => !m.getLsbD e.1) }))) ∧
    (Ready s gid c lanes pc x (namedOf x { a := 2, d := 2 }) →
      (m = 0 → exec (.waitany x) s = .next (raiseTrap (markIssued s gid c lanes) gid c lanes pc (nextPc pc x) { code := tILLEGAL_OPERAND, cause := laneMask act })) ∧
      (m ≠ 0 → bits &&& m = 0 → exec (.waitany x) s = .next (cx.wait s0 (laneMask act) (.any x.dst m))) ∧
      (∃ co', WritesD base co' x.dst 2 [lowOf act] (fun _ => (bits &&& m).toNat) ∧
        (bits &&& m ≠ 0 → exec (.waitany x) s = .next (acquireAt (after s gid c co') k gid (tagScopes (s.group gid) (bits &&& m))) ∧
          exec (.ffready x) s = .next (acquireAt (after s gid c co') k gid (tagScopes (s.group gid) (bits &&& m)))) ∧
        (bits &&& m = 0 → exec (.ffready x) s = .next (after s gid c co'))))

/-- R124, R125, R378, R381. `LAUNCH` puts its records in the region's launch queue where it has room, after a release; `REGGIVE` returns granules to the group's pool and `REGCLAIM` takes them, or waits. -/
def Obligations.LaunchAndRegisters : Prop :=
  ∀ (s : State) (gid c : Nat) (lanes : W32) (pc : W64) (x : XOp),
    let co := s.coil gid c
    let cx := ctxOf s gid c lanes pc x
    let k := (s.group gid).core
    let act := active s gid c lanes x
    let s0 := issuedState s gid c lanes pc x
    let base := issued s gid c lanes (nextPc pc x)
    let n := opA x co .i32 (lowOf act)
    let limit := min 32 ((s.launchOf gid).rec_.cpg * (s.launchOf gid).rec_.vgran)
    let whole := ∀ l, l < co.threads.length → (co.thread l).st = .exited ∨ laneIn lanes l = true
    (Ready s gid c lanes pc x (namedOf x { a := 2 }) → (∀ l ∈ act, opA x co .i64 l % 256 = 0 ∧ opA x co .i64 l < 2 ^ 57) → MayRelease s gid c act →
      (s.region (k / 8)).launchq.length + act.length ≤ 64 →
      exec (.launch x) s = .next ((releaseAt s0 k 3).modRegion (k / 8) (fun g =>
        { g with launchq := g.launchq ++ act.map (fun l => ((s.group gid).launch, BitVec.ofNat 57 (opA x co .i64 l))) }))) ∧
    (Ready s gid c lanes pc x (namedOf x { a := 1 }) → whole →
      (n = 0 → exec (.reggive x) s = .next s0 ∧ exec (.regclaim x) s = .next s0) ∧
      (1 ≤ n → n < co.granules → (∀ r ∈ co.vEmpty, r < 256 * (co.granules - n)) →
        exec (.reggive x) s = .next (serveClaims gid 32 ((after s gid c { base.clearGranules (co.granules - n) co.granules with granules := co.granules - n }).modGroup gid
          (fun g => { g with pool := g.pool + n })))) ∧
      (1 ≤ n → co.granules + n ≤ limit →
        ((firstClaim (s.group gid) = none ∧ n ≤ (s.group gid).pool) → exec (.regclaim x) s = .next ((after s gid c
          { base.clearGranules co.granules (co.granules + n) with granules := co.granules + n }).modGroup gid (fun g => { g with pool := g.pool - n }))) ∧
        (((firstClaim (s.group gid)).isSome = true ∨ (s.group gid).pool < n) → exec (.regclaim x) s = .next (cx.wait s0 (laneMask act) (.claim n)))))

/-- R107, R112, R117, R379. Task instructions whose control blocks are aligned and readable without an error: `TASKARM` arms each that may be armed, and `TASKARM.DEC` counts each down, lane by lane; `TASKEND` of the whole
coil ends its part, or parks a coil without a task; `TASKEND.ABORT` faults the task. -/
def Obligations.TaskResults : Prop :=
  ∀ (s : State) (gid c : Nat) (lanes : W32) (pc : W64) (x : XOp) (pa leaf : Nat → Nat),
    let co := s.coil gid c
    let k := (s.group gid).core
    let act := active s gid c lanes x
    let s0 := issuedState s gid c lanes pc x
    let la := (s.group gid).launch
    let va := fun l => opA x co .i64 l
    MayRelease s gid c act →
    (Ready s gid c lanes pc x (namedOf x { a := 2 }) → Reaches s gid (act.map va) 64 false .active pa leaf → (∀ l ∈ act, poisoned s (pa (va l)) 64 = false) →
      exec (.taskarmDec x) s = .next (act.foldl (fun t l =>
        let r := decDep t (pa (va l))
        if r.2 then makeReady r.1 la k [(BitVec.ofNat 57 (va l), pa (va l))] else r.1) (releaseAt s0 k 3)) ∧
      (∀ f : Nat → State, f 0 = releaseAt s0 k 3 →
        (∀ i l, act[i]? = some l → ∃ t ready, armTask (f i) la (BitVec.ofNat 57 (va l)) (pa (va l)) = some (t, ready) ∧
          f (i + 1) = (if ready then makeReady t la k [(BitVec.ofNat 57 (va l), pa (va l))] else t)) →
        exec (.taskarm x) s = .next (f act.length))) ∧
    (Ready s gid c lanes pc x [] → lanes = 0xFFFFFFFF →
      ((∀ l ∈ act, (co.thread l).intrap = false) → exec (.taskend x) s = .next (if co.task.isSome then endPart s0 gid c else parkCoil s0 gid c)) ∧
      (∀ t, co.task = some t → exec (.taskendAbort x) s = .next (faultTask s0 gid c
        (match act.find? (fun l => (co.thread l).intrap) with | some l => (co.thread l).trapcode.toNat | none => 0) t.part t.iter)))

/-- R109, R112. Arming a control block that is new, unarmed and well formed sets ARMED, and the task is ready exactly if nothing is left to wait for; a decrement counts DEP down by 1, or marks OVERDEC at 0. -/
def Obligations.TaskRules : Prop :=
  ∀ (s : State) (la pa : Nat) (tcb : BitVec 57), Memory.wf s.mem = true → pa % 64 = 0 → inMailbox pa = false →
    (∀ r, r < 24 → tget (s.region r).cache.dirty (pa / 128) = none) →
    let w := physNat s (pa + 8) 8
    (wState w = 0 → wArmed w = false → (wRq w < 24 ∨ wRq w = 31) → tcbReserved s pa = false →
      ∃ t, armTask s la tcb pa = some (t, wDep w == 0) ∧ physNat t (pa + 8) 8 = w + 2 ^ 35) ∧
    (wDep w ≠ 0 → physNat (decDep s pa).1 (pa + 8) 8 = w - 1 ∧ (decDep s pa).2 = (wDep w == 1 && wArmed w && wState w == 0)) ∧
    (wDep w = 0 → physNat (decDep s pa).1 (pa + 8) 8 = w ||| 2 ^ 46 ∧ (decDep s pa).1.cor.overdec = true)

/-! ## Xamal: matrix and scale instructions -/

/-- R231, R391. For rows of the group: `ACINIT` clears rows to an exponent, `ACNORM` renormalises them, `ACLOAD` writes one mantissa of each; `ACRD` and `ACGUARD` read, and their results land later. Each takes
its place in the matrix queue, which has room. Nothing else changes. (That the rows change as the instruction issues, where R384 applies effects in engine order, is the choice of log 59.) -/
def Obligations.AccumulatorResults : Prop :=
  ∀ (s : State) (gid c : Nat) (pc : W64) (x : XOp),
    let co := s.coil gid c
    let act := active s gid c full x
    let s0 := issuedState s gid c full pc x
    let base := issued s gid c full (nextPc pc x)
    let m := (s.group gid).mx
    let row := (xFields x).row
    let work : MxWork := { row := row, rows := 32 }
    let sound := ∀ t ∈ act, (m.row (row + t)).bad = false
    let sint := fun l => (BitVec.ofNat 32 (opA x co .i32 l)).toInt
    x.ext.present = true → MxRoom s gid c → (∀ t ∈ act, row + t < 128 * (s.launchOf gid).rec_.accg) →
    (Ready s gid c full pc x (namedOf x { a := 1 }) → (∀ t ∈ act, -32768 ≤ sint t ∧ sint t ≤ 32767) →
      ∃ m', exec (.acinit x) s = .next (mxPush (mxSet s0 gid m') gid work) ∧ RowsChanged m m' row act (fun t _ => { ae := sint t, ag := 0, m := [] })) ∧
    (Ready s gid c full pc x (namedOf x {}) → 32 ≤ (xFields x).imm8 → (xFields x).imm8 ≤ 62 → sound →
      ∃ m', exec (.acnorm x) s = .next (mxPush (mxSet s0 gid m') gid work) ∧ RowsChanged m m' row act (fun _ r => renorm r (xFields x).imm8)) ∧
    (Ready s gid c full pc x (namedOf x { a := 2, b := 1 }) → (∀ t ∈ act, opB x co .i32 t < 256) →
      ∃ m', exec (.acload x) s = .next (mxPush (mxSet s0 gid m') gid work) ∧ RowsChanged m m' row act (fun t r => r.set (opB x co .i32 t) (BitVec.ofNat 64 (opA x co .i64 t)).toInt)) ∧
    (Ready s gid c full pc x (namedOf x { b := 1, d := 2 }) → sound → (∀ t ∈ act, opB x co .i32 t < 256) →
      ∃ co', exec (.acrd x) s = .next (mxPush (after s gid c co') gid {}) ∧ AwaitsD base co' x.dst 2 act (fun t => (tgetD (m.row (row + t)).m (opB x co .i32 t) 0).toNat) false) ∧
    (Ready s gid c full pc x (namedOf x { d := 1 }) → sound →
      ∃ co', exec (.acguard x) s = .next (mxPush (after s gid c co') gid {}) ∧
        AwaitsD base co' x.dst 1 act (fun t => (BitVec.ofInt 16 (m.row (row + t)).ae).toNat + 2 ^ 16 * (m.row (row + t)).ag.toNat) false)

/-- R234. `Renorm` with the least s for which every mantissa rounds below 2^target: every mantissa is rounded to M / 2^s and AE grows by s, or, where AE would leave its range, SAT alone is set; an s of 0 changes
nothing. `ACINIT` sets AE to its operand, AG to 0 and every mantissa to 0 (at its issue: the choice of log 59). -/
def Obligations.RenormRule : Prop :=
  (∀ (r : AccRow) (target sh : Nat), 32 ≤ target → target ≤ 62 → sh ≤ 64 →
    (∀ j, j < 256 → (qRne ⟨r.get j, 2 ^ sh⟩).natAbs < 2 ^ target) → (∀ i, i < sh → ∃ j, j < 256 ∧ 2 ^ target ≤ (qRne ⟨r.get j, 2 ^ i⟩).natAbs) →
    let r' := renorm r target
    (32767 < r.ae + sh → r' = { r with ag := r.ag ||| 1 }) ∧
    (r.ae + sh ≤ 32767 → r'.ae = r.ae + sh ∧ r'.ag = r.ag ∧ (∀ j, j < 256 → r'.get j = qRne ⟨r.get j, 2 ^ sh⟩) ∧ (∀ j, 256 ≤ j → r'.get j = r.get j)) ∧
    (sh = 0 → r.ae ≤ 32767 → ∀ j, r'.get j = r.get j)) ∧
  (∀ (s : State) (gid c : Nat) (pc : W64) (x : XOp),
    let act := active s gid c full x
    let row := (xFields x).row
    let sint := fun l => (BitVec.ofNat 32 (opA x (s.coil gid c) .i32 l)).toInt
    x.ext.present = true → MxRoom s gid c → (∀ t ∈ act, row + t < 128 * (s.launchOf gid).rec_.accg) → Ready s gid c full pc x (namedOf x { a := 1 }) →
    (∀ t ∈ act, -32768 ≤ sint t ∧ sint t ≤ 32767) →
    ∃ u, exec (.acinit x) s = .next u ∧
      ∀ t ∈ act, ((u.group gid).mx.row (row + t)).ae = sint t ∧ ((u.group gid).mx.row (row + t)).ag = 0 ∧ ∀ j, ((u.group gid).mx.row (row + t)).get j = 0)

/-- R235. What `ACDRAIN` writes for an element, in the order of the guard bits: NAN, PINF, NINF, SAT, and else the mantissa times 2^AE rounded once; a zero mantissa gives +0. The rule's example drains M[3] = 40 at AE = -6 to FP16. -/
def Obligations.DrainValueRule : Prop :=
  (∀ f ∈ [(10, 0x7FC00000, 0x7F7FFFFF, 0x80000000), (8, 0x7FC0, 0x7F7F, 0x8000), (9, 0x7E00, 0x7BFF, 0x8000), (3, 0x7F, 0x7E, 0x80), (4, 0x7E, 0x7B, 0x80)],
    ∀ (ae : Int) (ag : W16) (m : Int) (satc : Bool),
      let v := drainValue ae ag.toNat m f.1 satc
      (ag.getLsbD 1 = true → v = (f.2.1, 0)) ∧
      (ag.getLsbD 1 = false → ag.getLsbD 2 = true → v = narrow f.1 (.inf false) 0 satc 0) ∧
      (ag.getLsbD 1 = false → ag.getLsbD 2 = false → ag.getLsbD 3 = true → v = narrow f.1 (.inf true) 0 satc 0) ∧
      (ag.getLsbD 1 = false → ag.getLsbD 2 = false → ag.getLsbD 3 = false → ag.getLsbD 0 = true → v = (f.2.2.1 + (if m < 0 then f.2.2.2 else 0), fOF)) ∧
      (ag.getLsbD 1 = false → ag.getLsbD 2 = false → ag.getLsbD 3 = false → ag.getLsbD 0 = false →
        v = narrow f.1 (xOfQ (qMul (qInt m) (pow2 ae))) 0 satc 0 ∧ (m = 0 → v = (0, 0)))) ∧
  (∀ satc, drainValue (-6) 0 40 9 satc = (0x3900, 0))

/-- R230, R263, R384, R392. `ACDRAIN` of rows of the group that hold no error and that no instruction in the queue updates, to aligned addresses that may be written, kicks its tag, records its flags in
every thread, and takes its place in the matrix queue with the value and the address of every element, in ascending row and column, and the translations that its check found. As it retires, at the head of its
core's engine, it writes each value at `GROUP` scope to the backing of its page that is inactive then, and completes its tag. While an instruction in the queue has still to update the rows, the drain takes its place and kicks its
tag all the same, and its coil goes on once that instruction has retired, with the flags recorded. (That an instruction's effect on rows shows at its issue, and how a drain's coil waits, is the choice of log 59.) -/
def Obligations.DrainResult : Prop :=
  (∀ (s : State) (gid c : Nat) (pc : W64) (x : XOp) (pa leaf pb leafb : Nat → Nat),
    let co := s.coil gid c
    let act := active s gid c full x
    let low := lowOf act
    let m := (s.group gid).mx
    let row := (xFields x).row
    let fmt := match x.fn.toNat % 8 with | 0 => 10 | 1 => 8 | 2 => 9 | 3 => 3 | _ => 4
    let size := fmtBits fmt / 8
    let n := opC x co .i32 low
    let stride := (BitVec.ofNat 32 (opB x co .i32 low)).toInt
    let addr := fun (i j : Nat) => (BitVec.ofInt 64 ((opA x co .i64 low : Int) + i * stride + (j * size : Nat))).toNat
    let value := fun i j => drainValue (m.row (row + i)).ae (m.row (row + i)).ag.toNat ((m.row (row + i)).get j) fmt (x.fn.getLsbD 3)
    let vals := (List.range n).flatMap (fun i => (List.range 256).map (fun j => (addr i j, value i j)))
    let ends := opA x co .i64 low :: (List.range n).flatMap (fun i => [addr i 0, addr i 255])
    let fl := vals.foldl (fun f v => f ||| v.2.2) 0
    x.ext.present = true → MxRoom s gid c → Ready s gid c full pc x (namedOf x { a := 2, b := 1, c := 1 }) → 1 ≤ n → n ≤ 512 → row + n ≤ 128 * (s.launchOf gid).rec_.accg → stride % size = 0 →
    Reaches s gid ends size true .active pa leaf → Reaches s gid ends size true .inactive pb leafb → badRows m row n = false →
    let s0 := issuedState s gid c full pc x
    let kicked := tagKick s0 gid (xFields x).imm8
    let d : Drain := { coil := c, tag := (xFields x).imm8, size, pages := drainPages (ctxOf s gid c full pc x) s0 ends, vals := vals.map (fun v => (v.1, v.2.1)), rows := (row, n), forming := none }
    (rowsPending m row n = false → Quiet co (List.range 32) (fun _ => fl) →
      exec (.acdrain x) s = .next ((mxPush kicked gid { drain := some d }).modCoil gid c (fun q => flagged q (List.range 32) (fun _ => fl)))) ∧
    (rowsPending m row n = true →
      exec (.acdrain x) s = .next (mxPush (kicked.modCoil gid c (fun q => { q with drainHeld := true })) gid { drain := some { d with forming := some (full, nextPc pc x, fl) } }))) ∧
  (∀ (s : State) (k gid : Nat) (e : MxEntry) (d : Drain), mxNext s k = some (gid, e) → e.left ≤ 1 → e.load = none → e.drain = some d →
    matrixTurn s k = drainsFormed matrixQueue (tagDone (d.vals.foldl (fun t v =>
      match translate t (fun vpn => match tget d.pages vpn with | some l => .hit l | none => .miss) (s.asidOf gid) v.1 true false .inactive with
      | .ok pa leaf => storeBytes t (s.group gid).core leaf 1 pa (leBytes d.size v.2)
      | _ => t) (s.modMx gid (fun m => { m with queue := m.queue.drop 1 }))) gid d.tag 1) gid) ∧
  (∀ (s : State) (k gid : Nat) (e e' : MxEntry) (rest : List MxEntry) (d : Drain) (lanes : W32) (pc : W64) (fl : Flags), (s.group? gid).isSome = true →
    mxNext s k = some (gid, e) → e.left ≤ 1 → e.load = none → e.drain = none → (s.group gid).mx.queue = e :: e' :: rest →
    e'.drain = some d → d.forming = some (lanes, pc, fl) → (∀ q ∈ rest, ∀ d', q.drain = some d' → d'.forming = none) → Quiet (s.coil gid d.coil) (laneList lanes) (fun _ => fl) →
    matrixTurn s k = (s.modMx gid (fun m => { m with queue := { e' with drain := some { d with forming := none } } :: rest })).modCoil gid d.coil
      (fun q => { flagged q (laneList lanes) (fun _ => fl) with drainHeld := false }))

/-- R226, R227, R231, R232, R390. `MMA` and `MMAS` with legal operands, both head tiles present, bound as their scale registers are and free of errors: both tiles are popped, and each of the 128 rows
accumulates, in each of its 256 columns, the products of the row of A and the column of B, each rounded by itself; the instruction stands in the queue, which has room, for the cycles of its
format and holds its scale registers. Nothing else changes. (That tiles and rows change as the instruction issues, where R384 applies effects in engine order, is the choice of log 59.) -/
def Obligations.MultiplyResults : Prop :=
  ∀ (s : State) (gid c : Nat) (pc : W64) (x : XOp) (ta tb : Tile),
    let f := xFields x
    let m := (s.group gid).mx
    let rec_ := (s.launchOf gid).rec_
    let sa := fslotWord s gid f.fsa
    let sb := fslotWord s gid f.fsb
    let bound := fun (t : Tile) z fs => t.slot.toNat = fs ∧ (z ≠ 63 → (m.z_ z).tag = t.tag ∧ (m.z_ z).slot.toNat = fs)
    ∀ e ∈ [((.mma x : Instr), false), (.mmas x, true)], x.ext.present = true → MxRoom s gid c → Ready s gid c full pc x (namedOf x {}) →
      f.st1 < 2 → 2 ≤ f.st2 → f.st2 < 4 → f.st1 % 2 < rec_.spair → f.st2 % 2 < rec_.spair → f.row + 128 ≤ 128 * rec_.accg →
      (f.za ≠ 63 → f.za < 4 * rec_.zgran) → (f.zb ≠ 63 → f.zb < 4 * rec_.zgran) →
      slotElem sa ≠ 10 → slotElem sb ≠ 10 → elemK (slotElem sa) = elemK (slotElem sb) → slotSpar sb = 0 → (slotSpar sa = 0 ↔ e.2 = false) →
      (slotBsf sa = 0 ↔ f.za = 63) → (slotBsf sb = 0 ↔ f.zb = 63) →
      (tgetD m.streams f.st1 []).head? = some ta → (tgetD m.streams f.st2 []).head? = some tb → bound ta f.za f.fsa → bound tb f.zb f.fsb →
      ta.bad = false → tb.bad = false → zUnread m f.za = false → zUnread m f.zb = false → badZ m f.za = false → badZ m f.zb = false → badRows m f.row 128 = false → (e.2 = true → badMeta sa ta = false) →
      ∃ m', exec e.1 s = .next (mxPush (mxSet (issuedState s gid c full pc x) gid m') gid {
          reads := [f.za, f.zb].filter (· ≠ 63), row := f.row, rows := 128, cycles := max (mmaCycles e.2 (slotElem sa)) (mmaCycles e.2 (slotElem sb)) }) ∧ m' = { m with streams := m'.streams, rows := m'.rows } ∧
        (∀ st, tgetD m'.streams st [] = if st = f.st1 ∨ st = f.st2 then (tgetD m.streams st []).drop 1 else tgetD m.streams st []) ∧
        (∀ r, (f.row ≤ r ∧ r < f.row + 128 → Accumulated (m.row r) (m'.row r) (products sa (m.z_ f.za) ta sb (m.z_ f.zb) tb (r - f.row))) ∧
          (r < f.row ∨ f.row + 128 ≤ r → m'.row r = m.row r))

/-- R223, R224, R388, R389, R393, R394. With a `z` register of the group that holds no error, and room in the matrix queue: `ZLD` and `ZREST` load it, `ZST` and `ZSAVE` store it, the scale arithmetic changes bands, blocks, tag or slot, `ZMAX` gives its largest
effective scale later, and `ZMOV` moves words. A write goes to the name's own physical register, or to a spare while an instruction in the queue reads that; with no spare free it stalls. Nothing
else changes. A `ZLD` checks its pages and binds the register as it issues, and reads memory as the engine performs it; until then an instruction that reads the register waits, and `ZREST`, which reads memory at its issue, waits until the queue
is empty, as `ZST` and `ZSAVE` wait for every earlier access of the queue to memory (when each effect shows is the choice of log 59, what a `ZLD` makes of an error that of log 19). -/
def Obligations.ScaleResults : Prop :=
  ∀ (s : State) (gid c : Nat) (pc : W64) (x : XOp) (pa leaf : Nat → Nat),
    let co := s.coil gid c
    let k := (s.group gid).core
    let act := active s gid c full x
    let low := lowOf act
    let s0 := issuedState s gid c full pc x
    let base := issued s gid c full (nextPc pc x)
    let m := (s.group gid).mx
    let f := xFields x
    let z := m.z_ f.za
    let a := opA x co .i64 low
    let fs := fslotWord s gid f.fsa
    let cur := fslotWord s gid z.slot.toNat
    let rows := if f.imm8 = 0 then 128 else 256
    let bands := if f.imm8 = 0 then 2 else 4
    let spare := m.zTarget (s.launchOf gid).rec_.zgran f.za
    let goes := fun (i : Instr) (z' : ZReg) =>
      (∀ p, spare = some p → exec i s = .next (mxPush (mxSet s0 gid (m.setZ f.za p z')) gid {})) ∧ (spare = none → exec i s = .next s)
    let reads : MxWork := { reads := [f.za] }
    x.ext.present = true → MxRoom s gid c → f.za < 4 * (s.launchOf gid).rec_.zgran →
    (Ready s gid c full pc x (namedOf x { a := 2, b := 1 }) → slotBsf fs ≠ 0 → opB x co .i32 low < 4096 →
      let nb := if slotBlk fs = 3 then 2 * rows else 8 * rows
      let n := nb + (if slotBand fs then 2 * bands else 0)
      let tag := BitVec.ofNat 12 (opB x co .i32 low)
      Reaches s gid (pieces a n) 16 false .active pa leaf →
      (∀ p, spare = some p → exec (.zld x) s = .next (mxPush (mxSet s0 gid (m.setZ f.za p { tag, slot := BitVec.ofNat 3 f.fsa })) gid { load := some {
        phys := p, slot := fs, side := f.imm8, tag, fs := BitVec.ofNat 3 f.fsa, pieces := (pieces a n).map (fun q => (pa q, leaf q)), pages := pagesUsed s0 k (s.asidOf gid) (pieces a n) } })) ∧
      (spare = none → exec (.zld x) s = .next s)) ∧
    (∀ e l, mxNext s k = some (gid, e) → e.left ≤ 1 → e.load = some l → e.drain = none →
      let lrows := if l.side = 0 then 128 else 256
      let nb := if slotBlk l.slot = 3 then 2 * lrows else 8 * lrows
      let src := l.pieces.flatMap (fun p => loadBytes s k p.2 1 p.1 16)
      ∃ t z', matrixTurn s k = drainsFormed matrixQueue t gid ∧ tget (t.group gid).mx.z l.phys = some z' ∧ z'.tag = l.tag ∧ z'.slot = l.fs ∧ z'.bands.length = 4 ∧
        z'.bad = l.pieces.any (fun p => loadBad s k p.2 1 p.1 16) ∧
        (∀ i, i < 2048 → cellGet z'.blocks i = if i < 8 * lrows then (src[if slotBlk l.slot = 3 then i / 4 else i]?).getD 0 else 0) ∧
        (∀ i, i < 4 → bandAt z' i = if slotBand l.slot ∧ i < (if l.side = 0 then 2 else 4) then
          BitVec.ofNat 16 (((src[nb + 2 * i]?).getD 0).toNat + 2 ^ 8 * ((src[nb + 2 * i + 1]?).getD 0).toNat) else 0x3F80)) ∧
    (Ready s gid c full pc x (namedOf x { a := 2 }) → zUnread m f.za = true → exec (.zst x) s = .next s ∧ exec (.zsave x) s = .next s) ∧
    (Ready s gid c full pc x (namedOf x { a := 2 }) → z.bands.length = 4 →
      let side := cellsBytes z.blocks 0 (8 * rows) ++ (z.bands.take bands).flatMap (fun w => leBytes 2 w.toNat)
      let whole := cellsBytes z.blocks 0 2048 ++ z.bands.flatMap (fun w => leBytes 2 w.toNat) ++ leBytes 8 (z.tag.toNat + 2 ^ 12 * z.slot.toNat)
      (zUnread m f.za = false → z.bad = false → Reaches s gid (pieces a side.length) 16 true .active pa leaf →
        exec (.zst x) s = .next (if m.memoryPending then s else mxPush (piecesWritten s0 k pa leaf a side) gid reads)) ∧
      (zUnread m f.za = false → z.bad = false → Reaches s gid (pieces a 2064) 16 true .active pa leaf →
        exec (.zsave x) s = .next (if m.memoryPending then s else mxPush (piecesWritten s0 k pa leaf a whole) gid reads)) ∧
      (Reaches s gid (pieces a 2064) 16 false .active pa leaf → m.queue ≠ [] → exec (.zrest x) s = .next s) ∧
      (Reaches s gid (pieces a 2064) 16 false .active pa leaf → m.queue = [] → (∀ p ∈ pieces a 2064, loadBad s k (leaf p) 1 (pa p) 16 = false) →
        let src := pieceBytes s0 k pa leaf a 129
        let noted := (pieces a 2064).foldl (fun t q => loadNote t k (leaf q) 1 (pa q) 16) s0
        let w := leNat (src.drop 2056)
        w < 2 ^ 15 → ∃ z', exec (.zrest x) s = .next (mxPush (mxSet noted gid (m.setZ f.za (m.phys f.za) z')) gid {}) ∧ z'.bad = false ∧ z'.tag.toNat = w % 2 ^ 12 ∧ z'.slot.toNat = w / 2 ^ 12 ∧ z'.bands.length = 4 ∧
          (∀ i, i < 2048 → cellGet z'.blocks i = (src[i]?).getD 0) ∧
          (∀ i, i < 4 → bandAt z' i = BitVec.ofNat 16 (((src[2048 + 2 * i]?).getD 0).toNat + 2 ^ 8 * ((src[2049 + 2 * i]?).getD 0).toNat)))) ∧
    (Ready s gid c full pc x (namedOf x { a := 1, b := 1 }) → zUnread m f.za = false → z.bad = false → opB x co .i32 low < 16 →
      (∃ z', goes (.zmulp2 x) z' ∧ BandsChanged z z' (opB x co .i32 low)
        (bandTimes (.fin (pow2 (max (-600) (min 600 (BitVec.ofNat 32 (opA x co .i32 low)).toInt)))))) ∧
      (opA x co .i32 low < 2 ^ 16 → ∃ z', goes (.zmulb x) z' ∧ BandsChanged z z' (opB x co .i32 low) (bandTimes (valueOf 8 (opA x co .i32 low))))) ∧
    (Ready s gid c full pc x (namedOf x {}) → zUnread m f.za = false → z.bad = false → slotBsf cur = 2 → slotBsf fs = 1 → slotBand fs = true → slotElem cur = slotElem fs → slotBlk cur = slotBlk fs →
      slotSpar cur = slotSpar fs → goes (.zcvt x) { (List.range bands).foldl convertBand z with slot := BitVec.ofNat 3 f.fsa }) ∧
    (Ready s gid c full pc x (namedOf x { a := 1 }) → zUnread m f.za = false → z.bad = false → opA x co .i32 low < 4096 → slotBsf cur = slotBsf fs → slotBlk cur = slotBlk fs →
      goes (.ztag x) { z with tag := BitVec.ofNat 12 (opA x co .i32 low), slot := BitVec.ofNat 3 f.fsa }) ∧
    (Ready s gid c full pc x (namedOf x { d := 1 }) → zUnread m f.za = false → z.bad = false → slotBsf cur ≠ 0 →
      ∃ co' v, exec (.zmax x) s = .next (mxPush (after s gid c co') gid reads) ∧ AwaitsD base co' x.dst 1 act (fun _ => v) false ∧
        ((∃ e ∈ sideScales cur z f.imm8, xIsNan e = true) → v = qnan 10) ∧
        ((∀ e ∈ sideScales cur z f.imm8, xIsNan e = false) →
          ∃ e ∈ sideScales cur z f.imm8, (∀ e' ∈ sideScales cur z f.imm8, 0 ≤ xCmp e e') ∧ v = (narrow 10 e 0 false 0).1)) ∧
    (Ready s gid c full pc x (namedOf x { b := 1, d := 1 }) → zUnread m f.za = false → z.bad = false → opB x co .i32 low ≤ 482 →
      ∃ co', exec (.zmovR x) s = .next (mxPush (after s gid c co') gid reads) ∧ WritesD base co' x.dst 1 act (fun t => zWord z (opB x co .i32 low + t))) ∧
    (Ready s gid c full pc x (namedOf x { a := 1, b := 1 }) → zUnread m f.za = false → z.bad = false → opB x co .i32 low ≤ 482 → z.bands.length = 4 → Memory.wf z.blocks = true →
      ∃ z', goes (.zmovW x) z' ∧ z'.tag = z.tag ∧ z'.slot = z.slot ∧
        ∀ w, w < 514 → zWord z' w = if opB x co .i32 low ≤ w ∧ w - opB x co .i32 low ∈ act then opA x co .i32 (w - opB x co .i32 low) % 2 ^ 32 else zWord z w)

/-- R215, R383, R384, R395. With room in the matrix queue: `SPOP` removes the head tile of a stream of the group, and `SQRY` writes how many tiles stand there and the tag and slot of the head. A matrix or scale instruction whose issue group is not
the whole coil raises `ILLEGAL_CONVERGENCE` before any other check; while the queue is full, or an instruction of another coil is still in its issue checks, it stalls (that it waits for its place before its convergence is examined is the choice of log 19, and that a tile
goes as `SPOP` issues, of log 59). -/
def Obligations.StreamResults : Prop :=
  (∀ (s : State) (gid c : Nat) (lanes : W32) (pc : W64) (x : XOp), Site s gid c lanes pc → lanes ≠ full →
    ∀ i ∈ [(.mma x : Instr), .mmas x, .acinit x, .acnorm x, .acdrain x, .acload x, .acrd x, .acguard x, .zld x, .zst x, .zmulp2 x, .zmulb x, .zcvt x, .zmax x,
      .ztag x, .zmovR x, .zmovW x, .zsave x, .zrest x, .spop x, .sqry x],
      (MxRoom s gid c → exec i s = .next (raiseTrap (markIssued s gid c lanes) gid c lanes pc (pc + 16) { code := tILLEGAL_CONVERGENCE, cause := lanes })) ∧
      (¬ MxRoom s gid c → exec i s = .next s)) ∧
  ∀ (s : State) (gid c : Nat) (pc : W64) (x : XOp),
    let m := (s.group gid).mx
    let st := (xFields x).st1
    let tiles := tgetD m.streams st []
    x.ext.present = true → MxRoom s gid c → st % 2 < (s.launchOf gid).rec_.spair →
    (Ready s gid c full pc x (namedOf x {}) → tiles ≠ [] →
      exec (.spop x) s = .next (mxPush (mxSet (issuedState s gid c full pc x) gid { m with streams := tput m.streams st (tiles.drop 1) }) gid {})) ∧
    (Ready s gid c full pc x (namedOf x { d := 1 }) →
      ∃ co', exec (.sqry x) s = .next (mxPush (after s gid c co') gid {}) ∧ WritesD (issued s gid c full (nextPc pc x)) co' x.dst 1 (active s gid c full x)
        (fun _ => match tiles.head? with | some t => tiles.length + 2 ^ 4 * t.tag.toNat + 2 ^ 16 * t.slot.toNat | none => 0))

/-! ## Xamal: graphics -/

/-- R347, R348. With an open pass, or the pass that the instruction opens: `EMITV` writes the vertex record of each lane; `EMITP` submits the triangle of each lane in ascending order, and where one finds no room it stalls: the
triangles before it stay submitted, and it goes on with the others as they were read. After its pass has ended a
geometry instruction has no effect. (That an `EMITV` needs room for the bytes that it writes, and no more, is the choice of log 33; what a cancelled pass does with its instructions, and what a half-submitted `EMITP` goes on with, of log 31.) -/
def Obligations.GeometryResults : Prop :=
  ∀ (s u : State) (gid c : Nat) (lanes : W32) (pc : W64) (x : XOp) (id : Nat),
    let co := s.coil gid c
    let cx := ctxOf s gid c lanes pc x
    let act := active s gid c lanes x
    let s0 := issuedState s gid c lanes pc x
    let n := emitK x
    let attrs : List Named := (List.range n).map (fun i => { isS := false, n := vregOf x.b + 4 + i, w := 1, trap := trapBit x.b })
    let offs := fun l => [0, 8, 16].map (fun b => opC x co .i32 l + 96 * (opA x co .i32 l / 2 ^ b % 2 ^ 8))
    (passGate cx s0 = .past →
      (Ready s gid c lanes pc x (namedOf x { a := 1, b := 4 } ++ attrs) → exec (.emitv x) s = .next s0) ∧
      (Ready s gid c lanes pc x (namedOf x { a := 1, b := 1, c := 1 }) → exec (.emitp x) s = .next s0)) ∧
    ((passGate cx s0 = .open_ id ∧ u = s0) ∨ (passGate cx s0 = .closed ∧ openPass s0 (s.group gid).launch co.pass.toNat = some u ∧ passGate cx u = .open_ id) →
      (Ready s gid c lanes pc x (namedOf x { a := 1, b := 4 } ++ attrs) →
        (∀ l ∈ act, opA x co .i32 l % 16 = 0 ∧ opA x co .i32 l + 32 + 4 * n ≤ localSize s gid) →
        exec (.emitv x) s = .next (act.foldl (fun t l => localWrite t gid (opA x co .i32 l)
          (leBytes 16 n ++ leBytes 16 (opB x co .b128 l) ++ leBytes (4 * n) (co.vNat l (vregOf x.b + 4) n))) u)) ∧
      (Ready s gid c lanes pc x (namedOf x { a := 1, b := 1, c := 1 }) → ∀ ts : List (Nat × List CVert × W32 × BitVec 3),
        (emitLeft cx = none ∧
          (∀ l ∈ act, opA x co .i32 l < 2 ^ 24 ∧ opB x co .i32 l ≠ 0 ∧ ∃ n, n ≤ 16 ∧ ∀ o ∈ offs l, o % 16 = 0 ∧ o + 32 + 4 * n ≤ localSize s gid ∧ (readVertex s gid o).1 = n ∧
            localBad s gid o (32 + 4 * n) = false) ∧
          ts = act.map (fun l => (l, (offs l).map (fun o => (readVertex u gid o).2), BitVec.ofNat 32 (opB x co .i32 l), x.fn.setWidth 3))) ∨
        (∃ e, emitLeft cx = some e ∧ ts = e.left ∧ ∀ t ∈ ts, t.2.1.length = 3) →
        ∀ (f : Nat → State) (n : Nat), f 0 = u → n ≤ ts.length →
          (∀ i l v0 v1 v2 vis rate, i < n → ts[i]? = some (l, [v0, v1, v2], vis, rate) → submitTri (f i) id v0 v1 v2 vis rate = (f (i + 1), true)) →
          (n = ts.length → exec (.emitp x) s = .next ((f n).modCoil gid c (fun q => { q with emitting := none }))) ∧
          (∀ l v0 v1 v2 vis rate, ts[n]? = some (l, [v0, v1, v2], vis, rate) → (submitTri (f n) id v0 v1 v2 vis rate).2 = false →
            (n = 0 → exec (.emitp x) s = .next s) ∧
            (0 < n → exec (.emitp x) s =
              .next ((f n).modCoil gid c (fun q => { q with emitting := some { pc, lanes, left := ts.drop n }, threads := co.threads })))))) ∧
    (passGate cx s0 = .closed → openPass s0 (s.group gid).launch co.pass.toNat = none → emitLeft cx = none →
      (Ready s gid c lanes pc x (namedOf x { a := 1, b := 1, c := 1 }) → (∀ l ∈ act, opA x co .i32 l < 2 ^ 24 ∧ opB x co .i32 l ≠ 0 ∧
        ∃ n, n ≤ 16 ∧ ∀ o ∈ offs l, o % 16 = 0 ∧ o + 32 + 4 * n ≤ localSize s gid ∧ (readVertex s gid o).1 = n ∧ localBad s gid o (32 + 4 * n) = false) →
        exec (.emitp x) s = .next s))

/-- R349, R350, R352. In a shading wave: `ATTRI` gives each lane the attribute of its triangle at its fragment, or +0 beyond the attributes that the triangle has, and records its flags; `COVER` narrows the lane's
coverage and gives what is left. Nothing else changes. `TBLD` reads the pixel of each lane's own tile, and its colour lands as FP32; `TBST` encodes four FP32 values and stores the pixel at `DEVICE` scope, lane by lane. -/
def Obligations.FragmentResults : Prop :=
  (∀ (s : State) (gid c : Nat) (lanes : W32) (pc : W64) (x : XOp) (fr : Nat → ThreadFrag),
    let co := s.coil gid c
    let act := active s gid c lanes x
    let base := issued s gid c lanes (nextPc pc x)
    (∀ l ∈ act, (co.thread l).frag = some (fr l)) →
    (∀ (fg : Nat → Frag) (tri : Nat → Tri), Ready s gid c lanes pc x (namedOf x { a := 1, b := 1, d := 1 }) →
      (∀ l ∈ act, opA x co .i32 l < 16 ∧ opB x co .i32 l % 4 ≠ 3 ∧ fragOf s (fr l) = some (fg l) ∧ (fg l).tri = some (tri l)) →
      let val := fun l => if opA x co .i32 l < (tri l).flat.length then
        let r := attrAt (tri l) (opA x co .i32 l) (opB x co .i32 l % 4) (fg l).ex (fg l).ey
        ((narrow 10 r.1 0 false 0).1, r.2 ||| (narrow 10 r.1 0 false 0).2) else (0, 0)
      Quiet co act (fun l => (val l).2) →
      ∃ co', exec (.attri x) s = .next (after s gid c co') ∧ WritesD (flagged base act (fun l => (val l).2)) co' x.dst 1 act (fun l => (val l).1)) ∧
    (Ready s gid c lanes pc x (namedOf x { a := 1, d := 1 }) →
      let left := fun l => (fr l).info.extractLsb' 5 16 &&& BitVec.ofNat 16 (opA x co .i32 l)
      ∃ co', exec (.cover x) s = .next (after s gid c co') ∧
        WritesD (eachLane base act (fun l t => { t with frag := some { fr l with info := ((fr l).info &&& ~~~(0x1FFFE0 : W32)) ||| ((left l).setWidth 32 <<< 5) } }))
          co' x.dst 1 act (fun l => (left l).toNat))) ∧
  (∀ (s : State) (gid c : Nat) (lanes : W32) (pc : W64) (x : XOp) (va pa leaf : Nat → Nat),
    let co := s.coil gid c
    let k := (s.group gid).core
    let act := active s gid c lanes x
    let n := pixelBytes x.fn.toNat
    (∀ l ∈ act, PixelOk s gid c x va l) →
    (Ready s gid c lanes pc x (namedOf x { a := 1, d := 4 }) → Reaches s gid (act.map va) n false .active pa leaf →
      (∀ l ∈ act, loadBad s k (leaf (va l)) 3 (pa (va l)) n = false) →
      ∃ co', exec (.tbld x) s =
          .next ((act.foldl (fun t l => loadNote t k (leaf (va l)) 3 (pa (va l)) n) (issuedState s gid c lanes pc x)).modCoil gid c (fun _ => co')) ∧ AwaitsD (issued s gid c lanes (nextPc pc x)) co' x.dst 4 act
        (fun l => quad ((decodePixel x.fn.toNat (loadNat s k (leaf (va l)) 3 (pa (va l)) n)).map Ch.fp32)) false) ∧
    (Ready s gid c lanes pc x (namedOf x { a := 1, b := 4 }) → Reaches s gid (act.map va) n true .active pa leaf →
      exec (.tbst x) s = .next (act.foldl (fun t l => storeBytes t k (leaf (va l)) 3 (pa (va l))
        (leBytes n (encodePixel x.fn.toNat ((List.range 4).map (fun i => opB x co .b128 l / 2 ^ (32 * i) % 2 ^ 32))))) (issuedState s gid c lanes pc x))))

/-- R353, R354, R355. A texture instruction whose descriptors and texels are aligned, valid and readable completes, and D of each lane receives later: with `TEXS` and `TEXL` the sample at its level, with `TEXG`
one channel of the four texels of the footprint; where the L1 has room for the lines, nothing changes outside the cores and their caches. -/
def Obligations.TextureResults : Prop :=
  ∀ (s : State) (gid c : Nat) (lanes : W32) (pc : W64) (x : XOp) (pa leaf : Nat → Nat),
    let co := s.coil gid c
    let k := (s.group gid).core
    let act := active s gid c lanes x
    let at_ := fun l => opA x co .i64 l
    let tex := fun l => parseTex (loadNat s k (leaf (at_ l)) 1 (pa (at_ l)) 32)
    let u := fun l => opB x co .i64 l % 2 ^ 32
    let v := fun l => opB x co .i64 l / 2 ^ 32 % 2 ^ 32
    let texel := fun t n va => loadNat t k (leaf va) 1 (pa va) n
    let reads := fun (t : LaneTaps) => ((t.taps.getD []).filter (fun p => p.1 ≠ 0)).filterMap (·.2)
    Reaches s gid (act.map at_) 32 false .active pa leaf → (∀ l ∈ act, loadBad s k (leaf (at_ l)) 1 (pa (at_ l)) 32 = false ∧ (tex l).ok = true) →
    ∀ e ∈ [((.texs x : Instr), 0, fun l => LaneTaps.mk l (tex l).fmt (sampleTaps (tex l) 0 (tex l).bilinear (u l) (v l)), false),
      (.texl x, 1, fun l => LaneTaps.mk l (tex l).fmt (sampleTaps (tex l) (min (opC x co .i32 l) (tex l).lm1) (tex l).bilinear (u l) (v l)), false),
      (.texg x, 1, fun l => LaneTaps.mk l (tex l).fmt ((sampleTaps (tex l) 0 true (u l) (v l)).map (fun ps => ps.map (fun p => (65536, p.2)))), true)],
      Ready s gid c lanes pc x (namedOf x { a := 2, b := 2, c := e.2.1, d := 4 }) →
      (∀ l ∈ act, Reaches s gid (reads (e.2.2.1 l)) (pixelBytes (tex l).fmt) false .active pa leaf) →
      ∃ t, exec e.1 s = .next t ∧ (l1Held (s.core k).l1 + 160 ≤ l1Lines → t = { s with cor := t.cor }) ∧
        ((∀ l ∈ act, ∀ va ∈ reads (e.2.2.1 l), loadBad t k (leaf va) 1 (pa va) (pixelBytes (tex l).fmt) = false) →
        AwaitsD (issued s gid c lanes (nextPc pc x)) (t.coil gid c) x.dst 4 act (fun l =>
          if e.2.2.2 then quad ((((e.2.2.1 l).taps).getD []).map (fun p =>
            (((tapColour (tex l).fmt (texel t (pixelBytes (tex l).fmt)) p.2)[opC x co .i32 l % 4]?).map Ch.fp32).getD 0))
          else sampleValue (e.2.2.1 l) (texel t (pixelBytes (tex l).fmt))) false)

/-! ## Swevar -/

/-- R167, R168, R186, R420. The sequencer operations: what each does to its `q` register, which lands at the end of the vc, and which bundle follows. `SYNC` reaches the row's barrier, `BANKLOCK` replaces the lock
in force, and `BANDEND` ends the band. Nothing else changes. -/
def Obligations.SequencerResults : Prop :=
  ∀ (s : State) (k slot : Nat), OnGlaze s k slot →
    let g := s.gl k
    let go := fun n => s.modGl k (fun g => { g with seqNext := n })
    let q := fun (n : BitVec 4) => tgetD g.q n.toNat 0
    exec .sqnop s = .next (go (g.seqNext + 1)) ∧
    (∀ n t, exec (.sqloop n t) s = .next (flyG (go (if q n - 1 = 0 then g.seqNext + 1 else t.toNat)) k slot 1 (.q n.toNat (q n - 1)))) ∧
    (∀ n cond t, exec (.sqbr n cond t) s = .next (go (if sqTaken cond.toNat (q n) then t.toNat else g.seqNext + 1))) ∧
    (∀ n imm, exec (.sqset n imm) s = .next (flyG (go (g.seqNext + 1)) k slot 1 (.q n.toNat (imm.signExtend 32)))) ∧
    (∀ n imm, exec (.sqadd n imm) s = .next (flyG (go (g.seqNext + 1)) k slot 1 (.q n.toNat (q n + imm.signExtend 32)))) ∧
    exec .swSync s = .next (s.modGl k (fun g => { g with seqNext := g.seqNext + 1, inSync := true, syncs := g.syncs + 1 })) ∧
    (∀ n banks, exec (.banklock n banks) s =
      .next (s.modGl k (fun g => { g with seqNext := g.seqNext + 1, lockSet := if n = 0 then 0 else banks, lockLeft := n.toNat }))) ∧
    (g.phase = .running → exec .bandend s = .next (s.modGl k (fun g => { g with seqNext := g.seqNext + 1, phase := .draining })))

/-- R406, R414, R421, R422. A scalar operation of a glaze core puts its result in flight at latency 1, and one of a kiln core is a pending write of its bundle: in both the value is the one of its entry. `LDS`
and `STS` reach the core's own memory, and on a glaze core the band context; `PRED` repeats its pattern. Nothing else changes. -/
def Obligations.ScalarResults : Prop :=
  ∀ (s : State) (k slot : Nat) (d a b c : BitVec 5) (cond : BitVec 3) (imm : W16) (short : BitVec 13),
    let x := aaddr s a imm
    exec .swScalarNop s = .next s ∧
    (OnGlaze s k slot →
      (∀ e ∈ scalarTable s d a b c cond imm short, exec e.1 s = .next (flyG s k slot 1 (.a d.toNat e.2))) ∧
      (x < 2 ^ 20 →
        exec (.lds d a imm) s = .next (if anyBad (s.gl k).spBad x 4 = true then abortBand s k tMACHINE_CHECK
          else flyG s k slot 1 (.a d.toNat (BitVec.ofNat 32 (leNat (cellsBytes (s.gl k).sp x 4))))) ∧
        exec (.sts d a imm) s = .next (flyG s k slot 1 (.sp x ((leBytes 4 (areg s d).toNat).map some)))) ∧
      (0xFFFFFF00 ≤ x →
        exec (.lds d a imm) s = .next (flyG s k slot 1 (.a d.toNat (BitVec.ofNat 32 (ctxWord (s.gl k).ctx (x - 0xFFFFFF00))))) ∧
        exec (.sts d a imm) s = .next s) ∧
      (2 ^ 20 ≤ x → x < 0xFFFFFF00 →
        exec (.lds d a imm) s = .next (abortBand s k tACCESS_VIOLATION) ∧ exec (.sts d a imm) s = .next (abortBand s k tACCESS_VIOLATION)) ∧
      (∀ p : BitVec 3, ∃ v, exec (.pred p imm) s = .next (flyG s k slot 1 (.p p.toNat v (BitVec.allOnes 512))) ∧
        ∀ i, i < 512 → v.getLsbD i = imm.getLsbD (i % 16))) ∧
    (OnKiln s k →
      (∀ e ∈ scalarTable s d a b c cond imm short, exec e.1 s = .next { s with kwrites := s.kwrites ++ [(0, d.toNat, e.2)] }) ∧
      exec (.lds d a imm) s = .next { s with kwrites := s.kwrites ++ [(0, d.toNat, BitVec.ofNat 32 (leNat (cellsBytes (s.kiln k).data (x % 2 ^ 18) 4)))] } ∧
      exec (.sts d a imm) s = .next { s with kwrites := s.kwrites ++ [(1, x % 2 ^ 18, areg s d)] })

/-- R400, R406, R418, R419, R423, R424, R425, R426, R427. A vector operation puts its result in flight at its latency: the enabled elements have the values of its entry, the others stay as they are. V2 of a bundle
that follows an `MXM` too closely does nothing. (`VSHR` with FN[5] of an unsigned type, and the enables of a `VCVT` that narrows, are the choices of log 20.) -/
def Obligations.VectorResults : Prop :=
  ∀ (s : State) (k slot : Nat) (x : VOp), OnGlaze s k slot →
    let g := s.gl k
    let b := typeBits x.ty.toNat
    exec .swVectorNop s = .next s ∧
    (slot = 5 → g.vc < g.mxmUntil → (∀ e ∈ vecTable g x, exec e.i s = .next s) ∧ exec (.vcmp x) s = .next s ∧ exec (.vcvt x) s = .next s ∧ exec (.mxm x) s = .next s) ∧
    ((slot = 5 → g.mxmUntil ≤ g.vc) →
      (∀ e ∈ vecTable g x, ∃ regs masks, exec e.i s = .next (flyG s k slot e.lat (.w x.d.toNat regs masks)) ∧
        ElementsAre regs masks e.dst e.regs (4096 / e.src) (fun i => if enabledAt g x.pred e.src i then some (e.val i) else none)) ∧
      (8 ≤ b → ∃ v m, exec (.vcmp x) s = .next (flyG s k slot 2 (.p (x.d.toNat % 8) v m)) ∧
        ∀ j, j < 512 → m.getLsbD j = enabledAt g x.pred b (8 * j / b) ∧
          v.getLsbD j = (enabledAt g x.pred b (8 * j / b) && vecCond x.ty.toNat x.fn.toNat (velem g x x.a (8 * j / b)) (velem g x x.b (8 * j / b)))) ∧
      (let bs := typeBits (x.fn.toNat % 16)
        let value := fun i => vcvtValue (x.fn.toNat % 16) x.ty.toNat (x.fn.toNat / 16 % 4) (x.fn.getLsbD 6) ((tgetD g.w x.a.toNat 0).toNat / 2 ^ (bs * i) % 2 ^ bs)
        ∃ regs masks, exec (.vcvt x) s = .next (flyG s k slot 2 (.w x.d.toNat regs masks)) ∧
          (bs ≤ b → ElementsAre regs masks b (b / bs) (4096 / bs) (fun i => if enabledAt g x.pred bs i then some (value i) else none)) ∧
          (b < bs → ElementsAre regs masks b 1 (4096 / b) (fun i =>
            if 4096 / bs ≤ i then some 0 else if enabledAt g x.pred b i then some (value i) else none))) ∧
      (let rows := if x.ty.toNat = 7 then 4 else 8
        let fmt := if x.ty.toNat = 7 then 8 else typeFmt x.ty.toNat
        let out := if x.ty.toNat = 7 then 10 else 8
        let l := tgetD g.latch (x.fn.toNat % 4) (false, [])
        let av := fun i => valueOf fmt ((tgetD g.w x.a.toNat 0).toNat / 2 ^ (fmtBits fmt * i) % 2 ^ fmtBits fmt)
        let y := fun i => if l.1 = (x.ty.toNat == 7) then qnan out else
          sumOnce out ((List.range 64).map (fun t => mulX (av (i / 64 * 64 + t)) (valueOf fmt ((l.2[64 * t + i % 64]?).getD 0).toNat)))
        ∃ regs masks, exec (.mxm x) s = .next (flyG (s.modGl k (fun g => { g with mxmUntil := g.vc + 4 })) k slot 12 (.w x.d.toNat regs masks)) ∧
          ElementsAre regs masks (fmtBits out) 2 (rows * 64) (fun i => some (y i))))

/-- R400, R406, R428, R429. The special-function slot: the functions of the enabled elements, reductions of groups of elements into a latch, and the move of a latch to a register. -/
def Obligations.SpecialSlotResults : Prop :=
  ∀ (s : State) (k slot : Nat) (x : FOp), OnGlaze s k slot →
    let g := s.gl k
    let b := typeBits x.ty.toNat
    let old := tgetD g.ps (x.d.toNat % 4) []
    let grp := 2 ^ (x.fn.toNat / 4 % 8)
    exec .swSfNop s = .next s ∧
    (∀ e ∈ sfTable x, ∃ regs masks, exec e.1 s = .next (flyG s k slot 8 (.w x.d.toNat regs masks)) ∧
      ElementsAre regs masks b 1 (4096 / b)
        (fun i => if enabledAt g x.pred b i then some (special e.2 (typeFmt x.ty.toNat) (felem g x i) 0 0).1 else none)) ∧
    (∃ regs masks, exec (.psmov x) s = .next (flyG s k slot 8 (.w x.d.toNat regs masks)) ∧
      ElementsAre regs masks 32 1 128 (fun i => if enabledAt g x.pred 32 i then some (tgetD (tgetD g.ps (x.a.toNat % 4) []) i 0).toNat else none)) ∧
    (∃ lanes, exec (.swRed x) s = .next (flyG s k slot 6 (.ps (x.d.toNat % 4) lanes)) ∧ lanes.length = 128 ∧
      ∀ j, j < 128 →
        let parts := ((List.range grp).map (fun i => grp * j + i)).filter (enabledAt g x.pred b)
        let vals := parts.map (fun i => typeX x.ty.toNat (felem g x i)) ++ (if x.fn.getLsbD 5 then [valueOf 10 (tgetD old j 0).toNat] else [])
        lanes[j]? = some (
          if j < 4096 / b / grp then some (BitVec.ofNat 32 (if vals = [] then 0 else redLane (x.fn.toNat % 4) vals))
          else if x.fn.getLsbD 5 then none else some 0))

/-- R186, R187, R430, R431, R432, R433, R434, R435, R436, R437. The memory slots on addresses that they reach, and the SYNC field: what is in flight, fetched, delivered or set. A slot whose address reaches nothing
aborts the band. (A `FETCH` takes the address space, and the backing, that its band read at its start: the choice of log 38; when its bytes come is free, log 70.) -/
def Obligations.GlazeMemoryResults : Prop :=
  ∀ (s : State) (k slot : Nat) (x : MOp), OnGlaze s k slot →
    let g := s.gl k
    let ea := fun lo => (((tgetD g.a x.a.toNat 0 + x.imm.setWidth 32) >>> lo) <<< lo).toNat
    let line := (tgetD g.a (x.d.toNat % 32) 0).toNat
    let width := (s.head g.ctx.head).timing.hactive.toNat
    let dst := (tgetD g.a x.a.toNat 0).toNat / 32 * 32
    let e := if x.d.getLsbD 2 then 1 else 2
    exec .swMemoryNop s = .next s ∧ exec .swSyncNop s = .next s ∧
    (∀ w, spWindow g true (ea 6) 512 = some w →
      (∃ r m, exec (.spld x) s = .next (if spPoisoned s k w (ea 6 % 2 ^ 20) 512 = true then abortBand s k tMACHINE_CHECK else flyG s k slot 3 (.w x.d.toNat [r] [m])) ∧
        ElementsAre [r] [m] 8 1 512 (fun i => if enabledAt g x.pred 8 i then some (((spBytes s k w (ea 6 % 2 ^ 20) 512)[i]?).getD 0).toNat else none)) ∧
      exec (.spst x) s = .next (flyG s k slot 1 (.sp (w * 2 ^ 20 + ea 6 % 2 ^ 20) ((List.range 512).map (fun i =>
        if enabledAt g x.pred 8 i then some ((tgetD g.w x.d.toNat 0).extractLsb' (8 * i) 8) else none))))) ∧
    (spWindow g true (ea 6) 512 = none →
      exec (.spld x) s = .next (abortBand s k tACCESS_VIOLATION) ∧ exec (.spst x) s = .next (abortBand s k tACCESS_VIOLATION)) ∧
    (32 ≤ g.gq.length ∨ g.sparse.left = 0 → ea 4 < 2 ^ 20 → (∀ o ∈ g.gq.take 32, ea 4 + 16 * o.toNat + 16 ≤ 2 ^ 20) →
      let bytes := (g.gq.take 32).flatMap (fun o => cellsBytes g.sp (ea 4 + 16 * o.toNat) 16)
      ∃ r m, exec (.gath x) s = .next (if ∃ o ∈ g.gq.take 32, anyBad g.spBad (ea 4 + 16 * o.toNat) 16 = true then abortBand s k tMACHINE_CHECK
          else flyG (s.modGl k (fun g => { g with gq := g.gq.drop 32 })) k slot 6 (.w x.d.toNat [r] [m])) ∧
        ElementsAre [r] [m] 8 1 512 (fun i => if enabledAt g x.pred 8 i then some ((bytes[i]?).getD 0).toNat else none)) ∧
    (g.fetches.length < 16 → dst + x.imm.toNat ≤ 2 ^ 20 → dst < 2 ^ 20 →
      exec (.fetch x) s = .next { s.modGl k (fun g => { g with fetches := g.fetches ++ [{
        m1 := slot == 8, src := g.ctx.srcbase.toNat + line, dst, len := x.imm.toNat, zeros := g.ctx.gen == 0, asid := g.ctx.asid, shift := g.ctx.shift, frame := g.roundFrame, round := g.round
        left := List.range ((x.imm.toNat + 31) / 32), due := s.time + 55 * (1 + Config.fetchDelay s.free) }] }) with free := s.free + 1 }) ∧
    (line = g.nextLine → line < g.ctx.line0 + g.ctx.nlines → ea 6 + 8 * width ≤ 2 ^ 20 → ea 6 < 2 ^ 20 → lineWaits s g (ea 6) = false →
      exec (.lineout x) s = .next (if anyBad g.spBad (ea 6) (8 * width) = true then abortBand s k tMACHINE_CHECK else deliverLine (s.modGl k (fun g => { g with nextLine := g.nextLine + 1 })) g.ctx line (words64 width (cellsBytes g.sp (ea 6) (8 * width))))) ∧
    (∀ p, bandPose s g = some p →
      exec (.poseget x) s = .next (flyG s k slot 3 (.w x.d.toNat [BitVec.ofNat 4096 (leNat (p.take 64))] [BitVec.allOnes 4096]))) ∧
    exec (.srcgen x) s = .next (flyG (flyG s k slot 1 (.a (x.d.toNat % 32) (g.ctx.gen.setWidth 32))) k slot 1
      (.a (x.d.toNat % 32 + 1) (BitVec.ofNat 32 (g.ctx.gen.toNat / 2 ^ 32)))) ∧
    (ea 6 + 4096 * e ≤ 2 ^ 20 → exec (.mxl x) s = .next (if anyBad g.spBad (ea 6) (4096 * e) = true then abortBand s k tMACHINE_CHECK else flyG s k slot 4 (.latch (x.d.toNat % 4) (x.d.getLsbD 2)
      ((List.range 4096).map (fun i => BitVec.ofNat 16 (leNat (cellsBytes g.sp (ea 6 + e * i) e))))))) ∧
    (ea 4 + 16 ≤ 2 ^ 20 → ∃ st : Sparse, exec (.sixcfg x) s = .next (if anyBad g.spBad (ea 4) 16 = true then abortBand s k tMACHINE_CHECK else flyG s k slot 1 (.six st)) ∧
      let d := leNat (cellsBytes g.sp (ea 4) 16)
      st = { meta_ := d % 2 ^ 20, rle := d.testBit 20, left := d / 2 ^ 32 % 2 ^ 32, base := BitVec.ofNat 16 (d / 2 ^ 64 % 2 ^ 16), rate := 2 ^ (x.d.toNat % 4) }) ∧
    (∀ (n : BitVec 2) (f : BitVec 4),
      (n.toNat + 1 ≤ (tgetD g.f f.toNat 0).toNat → exec (.fwait n f) s = .next (flyG s k slot 1 (.sub f.toNat (n.toNat + 1)))) ∧
      ((tgetD g.f f.toNat 0).toNat < n.toNat + 1 → exec (.fwait n f) s = .next s) ∧
      exec (.fpost n f) s = .next (flyG s k slot 1 (.flag f.toNat (n.toNat + 1))) ∧ exec (.fclr f) s = .next (flyG s k slot 1 (.clr f.toNat)))

/-- R406, R407, R437. At the end of a vc a single result that is due lands: a scalar, predicate or `q` register holds its value, the elements of a vector register under its mask theirs and the rest as before, and
a flag saturates at 65,535. A result that is not due stays in flight. -/
def Obligations.LandingRule : Prop :=
  ∀ (s : State) (k : Nat) (f : InFlight), (s.gl k).flight = [f] → f.slot < 10 →
    let g := s.gl k
    let t := (endVc s k).gl k
    (g.vc < f.at_ → t = { g with vc := g.vc + 1, vcTime := some s.time }) ∧
    (f.at_ ≤ g.vc → t.vc = g.vc + 1 ∧ t.flight = [] ∧ (portsOf f.res ≤ 3 → ∀ e ∈ t.regBad, e ∈ g.regBad ∧ e ∉ wholeRegs f.res) ∧
      (∀ n v, f.res = .a n v → ∀ m, tgetD t.a m 0 = if m = n then v else tgetD g.a m 0) ∧
      (∀ n v, f.res = .q n v → ∀ m, tgetD t.q m 0 = if m = n then v else tgetD g.q m 0) ∧
      (∀ n v k, f.res = .p n v k → ∀ m, tgetD t.p m 0 = if m = n then (tgetD g.p n 0 &&& ~~~k) ||| (v &&& k) else tgetD g.p m 0) ∧
      (∀ n v k, f.res = .w n [v] [k] → ∀ m, tgetD t.w m 0 = if m = n then (tgetD g.w n 0 &&& ~~~k) ||| (v &&& k) else tgetD g.w m 0) ∧
      (∀ n c, f.res = .flag n c → ∀ m, (tgetD t.f m 0).toNat = if m = n then min 65535 ((tgetD g.f n 0).toNat + c) else (tgetD g.f m 0).toNat))

/-! ## Kiln control words -/

/-- R76, R438. The control words: the fc that each takes, the bundle that follows, and the registers that it writes at its end. `IORD` of a port that the core may read gives its value, and a refused one 0 with
BADIO; `IOWR` performs the port's write; through MEMWIN a refused read gives all ones, with BADIO, and a refused write sets it; `EVPOP` takes the oldest record of a queue that the core owns: of PKT its packet is then held by KC0, of ACCT plain launches take the direct path again once 64 records
have room, of DSP the launches whose reports waited for room end; and of an empty queue or one of another core a record with source 0xFF; `WAITCYC` ends at the next fc
at its place in the minor frame; one that begins a slot of the table whose start has passed ends at once, and a late slot counts in SLIP (the choice of log 5). -/
def Obligations.KilnControlResults : Prop :=
  ∀ (s : State) (k : Nat), OnKiln s k →
    let c := s.kiln k
    let b := spent s k 1
    let put := fun (t : State) (l : List (Nat × Nat × W32)) => { t with kwrites := t.kwrites ++ l }
    let go := fun (t : State) (n : BitVec 12) => { t with knext := some n }
    exec .kcNext s = .next b ∧
    (∀ t, exec (.kcJmp t) s = .next (go b t)) ∧
    (∀ a t, exec (.kcBrz a t) s = .next (if areg s a = 0 then go b t else b) ∧ exec (.kcBrnz a t) s = .next (if areg s a ≠ 0 then go b t else b) ∧
      exec (.kcCall a t) s = .next (go (put b [kwrite a.toNat (c.pc.toNat + 1)]) t) ∧
      exec (.kcRet a) s = .next (go b ((areg s a).setWidth 12))) ∧
    (∀ (a : BitVec 5) (port : BitVec 10), port.toNat < 0x200 →
      let v := portValue (spent s k 4) k port.toNat
      let pair : W64 := areg s (a + 1) ++ areg s a
      (k ∈ (portCores port.toNat).getD [] →
        exec (.kcIord a port) s = .next (put (spent s k 4) [kwrite a.toNat v, kwrite (a.toNat + 1) (v / 2 ^ 32)]) ∧
        exec (.kcIowr a port) s = .next (portWrite (spent s k 2) k port.toNat pair)) ∧
      (k ∉ (portCores port.toNat).getD [] →
        exec (.kcIord a port) s = .next (setBadIo (put (spent s k 4) [kwrite a.toNat 0, kwrite (a.toNat + 1) 0]) k) ∧
        exec (.kcIowr a port) s = .next (setBadIo (spent s k 2) k))) ∧
    (∀ (a : BitVec 5) (port : BitVec 10), 0x200 ≤ port.toNat →
      let pair : W64 := areg s (a + 1) ++ areg s a
      (∀ v, memwinRead (spent s k 256) k port = some v →
        exec (.kcIord a port) s = .next (put (memwinNote (spent s k 256) k port) [kwrite a.toNat v, kwrite (a.toNat + 1) (v / 2 ^ 32)])) ∧
      (memwinRead (spent s k 256) k port = none →
        exec (.kcIord a port) s = .next (setBadIo (put (spent s k 256) [kwrite a.toNat (2 ^ 64 - 1), kwrite (a.toNat + 1) ((2 ^ 64 - 1) / 2 ^ 32)]) k)) ∧
      (memwinWrite (spent s k 2) k port pair = none → exec (.kcIowr a port) s = .next (setBadIo (spent s k 2) k)) ∧
      (∀ u, memwinWrite (spent s k 2) k port pair = some u → exec (.kcIowr a port) s = .next u)) ∧
    (∀ (off : BitVec 10),
      let minor := fun (t : Nat) (u : State) => if off = 0 then u.modKiln k (fun q => { q with lastMinor := t }) else u
      (∀ f i late, slotDue s c off = some (f, i, late) → exec (.kcWaitcyc off) s = .next (minor (s.time + 110) (s.modKiln k (fun q =>
        { q with busy := s.time + 110, nextMinor := f, nextSlot := i + 1, slip := if late then satInc q.slip else q.slip })))) ∧
      (slotDue s c off = none →
        (∀ t, waitEnd s off.toNat = some t → exec (.kcWaitcyc off) s = .next (minor t (waitUntil s k t))) ∧
        (waitEnd s off.toNat = none → exec (.kcWaitcyc off) s = .next (s.modKiln k (fun q => { q with waitcyc := some off }))))) ∧
    (∀ t, let c' := (waitUntil s k t).kiln k
      c' = { c with busy := t, waitcyc := none, inSlot := s.fw.booted, nextMinor := c'.nextMinor, nextSlot := c'.nextSlot }) ∧
    (∀ (a : BitVec 5) (src : BitVec 3),
      let quad := fun v => [kwrite a.toNat v, kwrite (a.toNat + 1) (v / 2 ^ 32), kwrite (a.toNat + 2) (v / 2 ^ 64), kwrite (a.toNat + 3) (v / 2 ^ 96)]
      (∀ r rest, queueOwner src.toNat = k → 3 ≤ src.toNat → s.events src.toNat = r :: rest →
        exec (.kcEvpop a src) s = .next (put ((spent s k 2).setEvents src.toNat rest) (quad r.toNat))) ∧
      (∀ q r rest, src.toNat = q → q < 3 → k = 0 → s.events q = r :: rest →
        let t := put ((spent s k 2).setEvents q rest) (quad r.toNat)
        (q = 0 → exec (.kcEvpop a src) s = .next (popPacket t)) ∧
        (q = 1 → exec (.kcEvpop a src) s = .next { t with fw := { t.fw with acctHeld := if rest.length + 64 ≤ 1024 then false else t.fw.acctHeld } }) ∧
        (q = 2 → exec (.kcEvpop a src) s = .next (retryEnds t))) ∧
      (queueOwner src.toNat = k → s.events src.toNat = [] → ∃ v, v % 2 ^ 8 = 0xFF ∧
        exec (.kcEvpop a src) s = .next { put (spent s k 2) (quad v) with free := s.free + 2 }) ∧
      (queueOwner src.toNat ≠ k → ∃ v, v % 2 ^ 8 = 0xFF ∧
        exec (.kcEvpop a src) s = .next { put (setBadIo (spent s k 2) k) (quad v) with free := s.free + 2 })) ∧
    (∀ (off : Nat) t, off < 1024 → s.fw.booted = true → s.fw.bootTime ≤ s.time → waitEnd s off = some t →
      s.time < t ∧ t ≤ s.time + 1024 * 110 ∧ (t - s.fw.bootTime) % 110 = 0 ∧ (t - s.fw.bootTime) / 110 % 1024 = off ∧
      ∀ u, s.time < u → u < t → (u - s.fw.bootTime) % 110 = 0 → (u - s.fw.bootTime) / 110 % 1024 ≠ off)

/-! ## Events of the module -/

/-- R23, R24, R28, R29, R30, R31, R32, R35, R36, R66, R69, R71, R77, R78, R207. Resets, boot, parking, removal, attestation, updates and the kiln watchdog: under its condition each of these events has the effect that
the rule gives it (where firmware learns a core's temperature, and what an image holds, are the choices of logs 52 and 5; which state resets keep, when a kiln core that its watchdog restarts begins and which of its registers survive, and what an update copies, those of
logs 44, 25, 53 and 57). -/
def Obligations.ModuleResults : Prop :=
  ∀ (s : State),
    (exec .moduleReset s = .next (fresh s .booting true) ∧ exec .inputVoltageFault s = .next (fresh s .held false) ∧
      exec .thermalTrip s = .next (fresh s .off s.mod.vinOk)) ∧
    (∀ unit kind payload,
      exec (.thermalSensorReading unit kind ⟨payload, [], []⟩) s = .next (postEvent s 7 (evRec 7 kind.toNat unit.toNat payload)) ∧
      (∀ hot cool, ∃ t, exec (.thermalSensorReading unit kind ⟨payload, hot, cool⟩) s = .next t ∧
        t.fw.events = (postEvent s 7 (evRec 7 kind.toNat unit.toNat payload)).fw.events ∧
        (∀ k, k ∈ cool → k ∉ hot → tget t.mod.ceiling k = none) ∧
        (∀ k, k ∉ hot → coreClock t k = coreClock s k ∧
          coreFreq t k = if k ∈ cool ∧ ∀ e ∈ s.cor.groups, e.2.core = k → e.2.saved = true then 3300 else coreFreq s k)) ∧
      ∀ k, k < 192 → 2825 ≤ coreFreq s k → ∃ t, exec (.thermalSensorReading unit kind ⟨payload, [k], []⟩) s = .next t ∧
        t.fw.events = (postEvent s 7 (evRec 7 kind.toNat unit.toNat payload)).fw.events ∧ coreFreq t k = coreFreq s k - 25 ∧
        tget t.mod.ceiling k = some (coreFreq s k - 25) ∧ coreClock t k = coreClock s k) ∧
    (s.mod.cond = .booting → (∀ e ∈ s.fw.kilns, e.2.stopped = true) →
      let slot := fun (b : Bool) => tget s.mod.flash (if b then 1 else 0)
      let a := s.mod.activeSlot
      (∀ i, slot a = some i → Passing s i → exec .moduleBoot s = .next (runs s a i)) ∧
      (∀ j, (∀ i, slot a = some i → ¬ Passing s i) → slot (!a) = some j → Passing s j → exec .moduleBoot s = .next (runs s (!a) j)) ∧
      ((∀ b i, slot b = some i → ¬ Passing s i) → exec .moduleBoot s = .next (s.modMod (fun m => { m with cond := .failed })))) ∧
    (s.mod.cond = .booting → s.fw.kilns ≠ [] →
      let t := { s with
        mod := { s.mod with cond := .running, fuse := max s.mod.fuse (s.mod.raiseFuse.getD 0), raiseFuse := none, bootSlotChanged := false }
        cmd := { s.cmd with scanEnable := match tget s.mod.flash (if s.fw.slot then 1 else 0) with | some i => i.scanEnable | none => s.cmd.scanEnable }
        fw := { s.fw with booted := true, bootTime := s.time, kilns := s.fw.kilns.map (fun e => (e.1, { e.2 with lastMinor := s.time })) } }
      let u := match tget s.mod.flash (if s.fw.slot then 1 else 0) with | some i => t.modMod (loadMaps · i) | none => t
      exec .bootComplete s = .next (if s.mod.bootSlotChanged then unitRecord u 9 0 else u)) ∧
    (s.mod.modState ≠ 2 → exec .surpriseRemoval s =
      .next ((fresh s .removed s.mod.vinOk).modMod (fun m => { m with icl := [(0, { st := .down }), (1, { st := .down })] }))) ∧
    (s.mod.modState = 2 → exec .moduleRemoval s = .next (fresh s .removed s.mod.vinOk)) ∧
    exec .modQuiesceGo s = .next (if s.mod.modState = 0 then s.modMod (fun m => { m with modState := 1, cond := .quiescing })
      else s.modMod (fun m => { m with modBadWr := true })) ∧
    (s.mod.modState = 1 → drained s = true → exec .modulePark s = .next
      { s.modMod (fun m => { m with modState := 2, cond := .parked }) with dpy := { s.dpy with heads := s.dpy.heads.map (fun e => (e.1, { e.2 with blank := true })) } }) ∧
    (∀ key, (key ≠ 0x5752 → exec (.modResetKey key) s = .next (s.modMod (fun m => { m with modBadWr := true }))) ∧
      (key = 0x5752 → ∃ t, exec (.modResetKey key) s = .next t ∧ t = { fresh s .booting s.mod.vinOk with
            time := s.time, mem := t.mem, poison := t.poison, mod := t.mod, cor := { (fresh s .booting s.mod.vinOk).cor with cores := t.cor.cores } } ∧
        (∀ k, k < 192 → coreClock t k = coreClock s k ∧ t.core k = { clock := (t.core k).clock, clockFrac := (t.core k).clockFrac, clockAt := (t.core k).clockAt }) ∧
        (∀ e, e ∈ t.mem ↔ e ∈ s.mem ∧ (e.1 < devTop ∨ (hostBase ≤ e.1 ∧ e.1 < hostTop))) ∧ (∀ x, x ∈ t.poison ↔ (x ∈ s.poison ∨ ∃ u ∈ s.l2bad, u / 4 = x) ∧ 32 * x < devTop) ∧
        t.mod = { (fresh s .booting s.mod.vinOk).mod with svcCe := s.mod.svcCe, svcUe := s.mod.svcUe })) ∧
    (∀ k, s.fw.booted = true → k < 4 → (s.kiln k).lastMinor + 2048 * 110 ≤ s.time →
      let fc := (framePos s).toNat
      let major := s.fw.bootTime + (fc / 65536 + (if fc % 65536 = 0 ∧ s.fw.updState = 3 then 0 else 1)) * (65536 * 110)
      exec (.kilnWatchdogRestart k) s = .next (reportUnit (s.modKiln k (fun c =>
        { kilnAtEntry c major with restarts := if c.restarts = 255 then 255 else c.restarts + 1 })) 9 k)) ∧
    exec .attCtlGo s = .next (if s.mod.attState = 1 then s.modMod (fun m => { m with attBusyWr := true }) else s.modMod (fun m => { m with attState := 1 })) ∧
    (s.mod.attState = 1 →
      let a := s.mod.attAddr.toNat * 4096
      let q := quoteBytes s (physBytes s a 32)
      (inHost a 65536 = true → linkDown s = false →
        exec .attQuoteComplete s = .next ((deviceLines s a q).modMod (fun m => { m with attState := 2, attLen := BitVec.ofNat 16 ((q.length + 15) / 16) }))) ∧
      (inHost a 65536 = false ∨ linkDown s = true → exec .attQuoteComplete s = .next (s.modMod (fun m => { m with attState := 3 })))) ∧
    exec .fwUpdGo s = .next (if s.fw.updState = 1 ∨ s.fw.updState = 2 ∨ s.fw.updState = 3 then s.modFw (fun f => { f with updBusyWr := true })
      else s.modFw (fun f => { f with updState := 1, updCode := 0, upd := none })) ∧
    (s.fw.updState = 1 →
      let i := readImage (physBytes s s.fw.updAddr.toNat s.fw.updLen.toNat)
      exec .fwUpdateVerified s = .next ((s.modMod (fun m => { m with flash := tput m.flash (if s.fw.slot then 0 else 1) i })).modFw (fun f =>
        { f with updState := 2, upd := some i }))) ∧
    (∀ i, s.fw.updState = 2 → s.fw.upd = some i →
      let code := updateCode s s.fw.updLen.toNat i
      (code ≠ 0 → exec .fwUpdateVerified s = .next (s.modFw (fun f => { f with updState := 5, updCode := BitVec.ofNat 4 code, upd := none }))) ∧
      (code = 0 → exec .fwUpdateVerified s = .next (s.modFw (fun f =>
        { f with updState := 3, kilns := f.kilns.map (fun e => (e.1, { e.2 with hidden := (i.code[e.1]?).getD [] })) })))) ∧
    (∀ i, s.fw.upd = some i → s.fw.updState = 3 → (framePos s).toNat % 65536 = 0 →
      exec .fwBankChange s = .next
        ((s.modMod (fun m => { m with
          activeSlot := !s.fw.slot, ceThreshold := max 1 (min 65535 i.ceThreshold), ethAddr := i.eth
          log := logImage m.log { kind := 2, slot := if s.fw.slot then 0 else 1, secver := BitVec.ofNat 8 i.secver, digest := i.digest } })).modFw (fun f =>
            { f with slot := !s.fw.slot, secver := BitVec.ofNat 6 i.secver, updState := 4, upd := none,
                     kilns := f.kilns.map (fun k => (k.1, kilnAtEntry (kilnLoad { k.2 with hidden := [] } i k.1) s.time)) })))

/-- R12, R13, R14, R15, R16, R17, R18, R19, R26, R37, R39, R101. Memory channels, links, messages that arrive, retired units and the service ring: under its condition each of these events has the effect that the rule gives it. (A second lane that fails and the kinds of records of
links, and when a message is a duplicate, are the choices of log 23; MEM_RSV_CTL.BORROW of a refused write that of log 24; a core that retires, that of log 30; its lost groups, of log 42; an error's place and its record, of log 54; a link's spare lane, of log 56.) -/
def Obligations.ChannelAndLinkResults : Prop :=
  ∀ (s : State),
    (∀ chan, chan < 64 → (s.chan chan).nextWindow ≤ s.time → exec (.displayCreditWindow chan) s = .next
      ((s.modMod (fun m => { m with dispBwNow := m.dispBw, borrowNow := m.borrow })).modChan chan
        (fun c => { c with credit := (s.mod.dispBw.toNat : Int) * 1500, nextWindow := (s.time / 132000 + 1) * 132000 }))) ∧
    (∀ unit, (tgetD s.mod.windows unit {}).nextWindow ≤ s.time → exec (.classShareWindow unit) s = .next (s.modMod (fun m =>
      { m with windows := tput m.windows unit { nextWindow := (s.time / 132000 + 1) * 132000, share := (List.range 4).map (fun n => (tgetD s.disp.bw n 16).toNat),
                                                 dsh := displayWays unit s.dpy.ways.toNat,
                                                 ways := (List.range 4).map (fun n => (tgetD s.disp.ways n 0xFFFF).toNat &&& (0xFFFF - displayWays unit s.dpy.ways.toNat)) } }))) ∧
    (∀ chan fails pa, 1 ≤ fails → inDevice pa 1 = true → chanOf pa = chan →
      let t := postFree (s.modChan chan (fun c => { c with crcErr := true })) 5 chan
      exec (.gddrCrcError chan fails pa) s = .next (if 5 ≤ fails ∧ pa / 32 ∉ s.poison then { t with poison := pa / 32 :: s.poison } else t)) ∧
    (∀ corrected,
      let t := s.modMod (fun m => { m with svcCe := m.svcCe + BitVec.ofNat 64 corrected })
      exec (.eccScrub corrected none) s = .next t ∧
      ∀ e, exec (.eccScrub corrected (some e)) s = .next (
        let unit := match e with | .other u => u | _ => 0
        let u := postFree (strike (t.modMod (fun m => { m with svcUe := m.svcUe + 1 })) e) 5 unit
        match strikeAddr e with | some pa => chanRecord u 8 unit (BitVec.ofNat 64 (pa / 4096 * 4096)) 0 | none => u)) ∧
    (∀ gid c r l, (s.group? gid).isSome = true → c < (s.group gid).coils.length → r < 256 → l < 32 → ∀ n l', l' < 32 →
      ({ isS := false, n, w := 1 } : Named).struck ((strike s (.vreg gid c r l)).coil gid c) l' =
        (({ isS := false, n, w := 1 } : Named).struck (s.coil gid c) l' || decide (l' = l ∧ n / 2 = r / 2))) ∧
    (∀ gid c r, (s.group? gid).isSome = true → c < (s.group gid).coils.length → r < 256 → ∀ n l',
      ({ isS := true, n, w := 1 } : Named).struck ((strike s (.sreg gid c r)).coil gid c) l' =
        (({ isS := true, n, w := 1 } : Named).struck (s.coil gid c) l' || decide (n / 2 = r / 2))) ∧
    (∀ pa, poisoned (strike s (.l2 pa)) pa 1 = true ∧ ∀ a, a / 8 ≠ pa / 8 → poisoned (strike s (.l2 pa)) a 1 = poisoned s a 1) ∧
    (∀ gid off, (s.group? gid).isSome = true → off < localSize s gid → localBad (strike s (.localMem gid off)) gid off 1 = true) ∧
    (∀ frame corrected, frame < 2 ^ 27 →
      let c := chanOf (frame * 4096)
      let old := tgetD s.mod.frameCe frame (0, false)
      let n := old.1 + corrected
      let cross := old.2 = false ∧ s.mod.ceThreshold ≤ n
      let t := (s.modMod (fun m => { m with frameCe := tput m.frameCe frame (n, old.2 || decide (s.mod.ceThreshold ≤ n)) })).modChan c
        (fun c => { c with ceCount := BitVec.ofNat 16 (min 65535 (c.ceCount.toNat + corrected)) })
      exec (.pageRetirement ⟨frame, corrected⟩) s = .next (
        if cross then chanRecord (postFree t 5 c) 1 c (BitVec.ofNat 64 (frame * 4096)) (BitVec.ofNat 64 n) else t)) ∧
    (∀ chan, chan < 64 → (s.chan chan).st.toNat < 2 → exec (.channelEvacuation chan) s =
      .next (chanRecord (s.modChan chan (fun c => { c with st := 2 })) 2 chan 0 ((s.chan chan).ceCount.setWidth 64))) ∧
    (∀ chan, (s.chan chan).st = 2 → exec (.evacDone chan) s =
      .next (chanRecord (s.modChan chan (fun c => { c with st := 3 })) 3 chan 0 ((s.chan chan).ceCount.setWidth 64))) ∧
    (∀ (val : W32) k, exec (.memRsvCtlWrite (.kiln k) val) s = .next (s.modKiln k (fun c => { c with clamp := true })) ∧
      exec (.memRsvCtlWrite .host val) s = .next (s.modMod (fun m => { m with
        badWr := (m.badWr && !val.getLsbD 7) || decide (64 < val.toNat % 128)
        dispBw := if 64 < val.toNat % 128 then m.dispBw else val.setWidth 7
        borrow := val.getLsbD 8 }))) ∧
    (∀ port, port < 2 → (s.iclPort port).st ≠ .down →
      ((s.iclPort port).spareUsed = false → exec (.iclLaneFail port) s = .next (s.modIcl port (fun i => { i with st := .retraining, spareUsed := true }))) ∧
      ((s.iclPort port).spareUsed = true → exec (.iclLaneFail port) s = .next (reportUnit (s.modIcl port (fun i => { i with st := .down })) 7 port)) ∧
      exec (.iclPortFail port) s = .next (reportUnit (s.modIcl port (fun i => { i with st := .down })) 7 port)) ∧
    (∀ port, (s.iclPort port).st = .retraining → exec (.iclRetrainDone port) s = .next (reportUnit (s.modIcl port (fun i => { i with st := .up })) 6 port)) ∧
    exec .iclBothPortsFail s = .next (failPort (failPort s 0) 1) ∧
    (∀ port, port < 2 → (s.iclPort port).st = .down → s.mod.cond ≠ .removed → exec (.iclLinkReturn port) s = .next (serveCarry (s.modIcl port (fun _ => {})))) ∧
    (∀ port, port < 8 → exec (.ethLaneFail port) s = .next (reportUnit (s.modMod (fun m => { m with ethLanes := tput m.ethLanes port 4 })) 6 (2 + port))) ∧
    (∀ val : W32, exec (.iftRtoWrite val) s = .next (s.modMod (fun m => { m with
      iftRto := if val.setWidth 16 = (0 : W16) then 1 else val.setWidth 16
      iftBadWr := (m.iftBadWr && !val.getLsbD 16) || decide (val.setWidth 16 = (0 : W16)) }))) ∧
    (∀ m, displayRuns s = false → exec (.iftMessageReceive m) s = .next s) ∧
    (∀ (m : IftMsg) asid, displayRuns s = true → fabricAsid s m.fabric = some asid →
      let old := (s.mod.inCopies.find? (fun c => c.src = m.src && c.copy = m.copy)).getD { src := m.src, copy := m.copy }
      let new := { old with landed := old.landed ++ [(m.offset, m.data.length)] }
      (∀ a ∈ rangePages (m.dst.toNat + m.offset) m.data.length, (landingPa s asid a).isSome = true) →
      (∀ p, m.pub = some p → (pubEntry s asid p.toNat).isSome = true) → (∀ e ∈ old.landed, e.1 ≠ m.offset) →
      let t := (landBytes asid (m.dst.toNat + m.offset) m.data s).modMod (fun w =>
        { w with iftAnswer := some { to_ := m.src, copy := m.copy, offset := m.offset, refused := false }, inCopies := s.mod.inCopies.filter (fun c => !(c.src = m.src && c.copy = m.copy)) ++ [new] })
      let u := match m.flag with | some (c, f) => engineFlag t c.toNat f.toNat 1 | none => t
      exec (.iftMessageReceive m) s = .next (if (new.landed.map (·.2)).foldl (· + ·) 0 < m.total then t
        else match m.pub with | some p => publishEntry u asid p.toNat | none => u)) ∧
    (∀ m : IftMsg, displayRuns s = true →
      let answer := fun refused => s.modMod (fun w => { w with iftAnswer := some { to_ := m.src, copy := m.copy, offset := m.offset, refused } })
      let old := (s.mod.inCopies.find? (fun c => c.src = m.src && c.copy = m.copy)).getD { src := m.src, copy := m.copy }
      let ok := fun asid => (∀ a ∈ rangePages (m.dst.toNat + m.offset) m.data.length, (landingPa s asid a).isSome = true) ∧
        ∀ p, m.pub = some p → (pubEntry s asid p.toNat).isSome = true
      (fabricAsid s m.fabric = none → exec (.iftMessageReceive m) s = .next (answer true)) ∧
      (∀ asid, fabricAsid s m.fabric = some asid →
        (¬ ok asid → exec (.iftMessageReceive m) s = .next (answer true)) ∧
        (ok asid → (∃ e ∈ old.landed, e.1 = m.offset) → exec (.iftMessageReceive m) s = .next (answer false)))) ∧
    (∀ slice, slice < 128 → tgetD s.mod.sliceSpares (slice / 32) 2 ≠ 0 →
      let n := tgetD s.mod.sliceSpares (slice / 32) 2
      ∀ bad, exec (.sliceRetire ⟨slice, bad⟩) s = .next (reportUnit (((bad.filter (fun l => homeSlice (128 * l) = slice || displaySlice (128 * l) = slice)).foldl
        poisonLine s).modMod (fun m => { m with
        sliceSpares := tput m.sliceSpares (slice / 32) (n - 1)
        slicePhys := tput m.slicePhys slice (BitVec.ofNat 6 (((freeSlices m.slicePhys (slice / 32)).head?).getD (34 - n))) })) 5 slice)) ∧
    (∀ slice bad h, slice < 128 → tgetD s.mod.sliceSpares (slice / 32) 2 = 0 → hostSlice s slice = some h →
      exec (.sliceLossNoSpare ⟨slice, bad⟩) s = .next (reportUnit (((bad.filter (fun l => homeSlice (128 * l) = slice || displaySlice (128 * l) = slice)).foldl
        poisonLine s).modMod (fun m => { m with
        slicePhys := (sharers s slice).foldl (fun t n => tput t n (BitVec.ofNat 6 (physSlice s h))) m.slicePhys
        sliceShared := m.sliceShared ++ ((h :: sharers s slice).filter (fun n => !m.sliceShared.contains n)) })) 5 slice)) ∧
    (∀ core, core < 192 → core ∉ s.mod.coreGone → regionOf core ∉ s.mod.spareUsed →
      let gs := (s.cor.groups.filter (fun e => e.2.core = core && !e.2.saved)).map (·.1)
      let t := if core ∈ s.mod.retiring then s else { s with mod := { s.mod with retiring := s.mod.retiring ++ [core] } }
      (gs.all (groupReady t) = false → exec (.coreRetire core) s = .next t) ∧
      (gs.all (groupReady t) = true →
        let u := (releaseAt (gs.foldl quietGroup t) core 3).modCore core (fun c => { c with l1 := {}, tlb := [], predictor := [], owned := [] })
        let v := { u with mod := { u.mod with
          retiring := u.mod.retiring.erase core, spareUsed := u.mod.spareUsed ++ [regionOf core], corePhys := tput u.mod.corePhys core 8 } }
        let w := gs.foldl (fun s g => resumeGroup s g core (s.group g).slot0 (s.group g).slots) v
        exec (.coreRetire core) s = .next (reportUnit (gs.foldl (fun s g => match pendingIn (s.group g) with
          | some (c, lane, addr) => containAt (s.modCoil g c (fun co => { co with stopped := true })) g c lane ((s.coil g c).thread lane).pc addr
          | none => s) w) 4 core))) ∧
    (∀ core, core < 192 → core ∉ s.mod.coreGone → regionOf core ∈ s.mod.spareUsed →
      ∃ t, exec (.coreRetireNoSpare core) s = .next (reportUnit t 4 core) ∧ t.mod = { s.mod with coreGone := s.mod.coreGone ++ [core] } ∧
        t.cor = { s.cor with cores := t.cor.cores } ∧ (t.core core).flags = [] ∧
        (∀ e ∈ s.cor.groups, e.2.core = core → e.2.saved = false → ∀ c, tget t.disp.clusters e.2.cluster = some c → c.stopping = true)) ∧
    (∀ r, exec (.serviceRecordPost r) s = .next (postRecord s r)) ∧
    (∀ val : W64, exec (.svcRingWrite val) s = .next (if s.mod.svcW ≠ s.mod.svcR then s.modMod (fun m => { m with svcBadWr := true })
      else serveCarry (s.modMod (fun m => { m with svcBase := val.extractLsb' 12 40, svcSlots := BitVec.ofNat 4 (max 4 (val.toNat / 2 ^ 52 % 16)) })))) ∧
    (∀ val : W32, exec (.svcRidxWrite val) s = .next (if val ≠ s.mod.svcW ∧ (val - s.mod.svcW).toNat < 2 ^ 31 then s.modMod (fun m => { m with svcBadWr := true })
      else serveCarry (s.modMod (fun m => { m with svcR := val })))) ∧
    (∀ copy msg m, s.mod.outMsgs.find? (fun m => m.copy = copy && m.msg = msg) = some m →
      let t := s.modMod (fun w => { w with outMsgs := w.outMsgs.filter (· ≠ m) })
      (∀ c, s.copy? copy = some c →
        let u := match c.owner with | some (gid, _, _) => if c.desc.boEn then countBo t gid c.desc.bo (-(m.len : Int)) else t | none => t
        exec (.iftAck copy msg) s = .next (if u.mod.outMsgs.any (fun m => m.copy = copy) ∨ c.st ≠ .remote then u else u.modCopy copy (fun c => { c with st := .landed }))) ∧
      (s.copy? copy = none → exec (.iftAck copy msg) s = .next t) ∧
      (m.sent + s.mod.iftRto.toNat * 132000 ≤ s.time →
        (m.resends < 16 → exec (.iftResendTimeout copy msg) s = .next (s.modMod (fun w =>
          { w with outMsgs := w.outMsgs.map (fun o => if o = m then addressed s { m with resends := m.resends + 1 } else o) }))) ∧
        (16 ≤ m.resends → exec (.iftResendTimeout copy msg) s = .next ((s.modMod (fun w => { w with outMsgs := w.outMsgs.filter (fun m => m.copy ≠ copy) })).modCopy copy
          (fun c => { c with st := .failed, status := 1 }))))) ∧
    (∀ copy, (∃ m ∈ s.mod.outMsgs, m.copy = copy) → exec (.iftRefusal copy) s =
      .next ((s.modMod (fun w => { w with outMsgs := w.outMsgs.filter (fun m => m.copy ≠ copy) })).modCopy copy (fun c => { c with st := .failed, status := 1 })))

/-! ## Registers and the companion processor -/

/-- R5, R13, R16, R34, R66, R76, R79, R99, R101, R102, R103, R120, R190, R191, R268, R282. A write of a register by an agent that may make it is the register's write, and one by a kiln core that may not sets its BADIO; registers that
only hold a value read back as written; the registers with limits take what lies within them and flag what does not. The companion processor reads and writes
host and device memory, mailboxes and registers, and its `SC` atomics on device memory wait for the position of the port that carries them. (What a refused or a wide write of a register does, and where a read's data appear, are the choices of log 24.) -/
def Obligations.RegisterResults : Prop :=
  ∀ (s : State),
    (∀ off wide val v w, readHub s off = some (v, w) → (w = true → wide = true) →
      (∀ k, (mayWrite (.kiln k) off = true → exec (.hubRegisterWrite (.kiln k) off wide val) s = .next (writeHub s (.kiln k) off val)) ∧
        (mayWrite (.kiln k) off = false → exec (.hubRegisterWrite (.kiln k) off wide val) s = .next (setBadIo s k))) ∧
      (hostReaches s = true → mayWrite .host off = true → exec (.hubRegisterWrite .host off wide val) s = .next (writeHub s .host off val)) ∧
      (mayWrite .host off = false → exec (.hubRegisterWrite .host off wide val) s = .next s)) ∧
    (∀ by_ val, ∀ e ∈ [(0x2040, 2 ^ 52 - 1), (0x8040, 2 ^ 52 - 2 ^ 12), (0x8808, 2 ^ 52 - 2 ^ 21), (0x8810, 2 ^ 52 - 2 ^ 14)],
      readHub (writeHub s by_ e.1 val) e.1 = some (val.toNat &&& e.2, true)) ∧
    (∀ pa n bs, hostRead s pa n = some bs → exec (.iclHostAccess (.read pa n)) s =
      .next ((if inDevice pa n then recallLines s 192 pa n else s).modMod (fun m => { m with hostData := bs }))) ∧
    (hostReaches s = true →
      (∀ pa bs, mmioBase ≤ pa → pa < mmioBase + 2 ^ 26 → inMailbox pa = true → exec (.iclHostAccess (.write pa bs)) s = .next (putPhys s pa bs)) ∧
      (∀ pa bs, mmioBase ≤ pa → pa < mmioBase + 2 ^ 26 → inMailbox pa = false → bs.length = 4 ∨ bs.length = 8 →
        exec (.iclHostAccess (.write pa bs)) s = exec (.hubRegisterWrite .host (pa - mmioBase) (decide (bs.length = 8)) (BitVec.ofNat 64 (leNat bs))) s)) ∧
    (∀ pa bs, inHost pa bs.length = true ∨ (hostReaches s = true ∧ inDevice pa bs.length = true ∧ unreachable s pa = false ∧ (mmioBase ≤ pa → mmioBase + 2 ^ 26 ≤ pa)) →
      ∃ t, exec (.iclHostAccess (.write pa bs)) s = .next t ∧ t = { hostWrite s pa bs with poison := t.poison, l2bad := t.l2bad } ∧
        (∀ x, x ∈ t.poison ↔ x ∈ (hostWrite s pa bs).poison ∧ ¬ (pa ≤ 32 * x ∧ 32 * x + 32 ≤ pa + bs.length)) ∧
        ∀ x, x ∈ t.l2bad ↔ x ∈ (hostWrite s pa bs).l2bad ∧ ¬ (pa ≤ 8 * x ∧ 8 * x + 8 ≤ pa + bs.length)) ∧
    (∀ pa (v : W64), inHost pa 8 = true ∨ (hostReaches s = true ∧ inDevice pa 8 = true) → pa % 8 = 0 → poisoned s pa 8 = false →
      let u := recallRegions s (pa / 128)
      let old := physNat u pa 8
      exec (.iclHostAccess (.atomicAdd pa v false)) s =
        .next ((hostWrite u pa (leBytes 8 ((old + v.toNat) % 2 ^ 64))).modMod (fun m => { m with hostData := leBytes 8 old })) ∧
      (inDevice pa 8 = false → exec (.iclHostAccess (.atomicAdd pa v true)) s = exec (.iclHostAccess (.atomicAdd pa v false)) s) ∧
      (inDevice pa 8 = true → ∃ o : ScOp, o.kind = 4 ∧ o.va = pa ∧ o.data = v.toNat ∧ ∃ t, exec (.iclHostAccess (.atomicAdd pa v true)) s = .next t ∧
        t = { s with xlat := { s.xlat with scWaiting := t.xlat.scWaiting } } ∧
        ∀ k, tgetD t.xlat.scWaiting k [] = tgetD s.xlat.scWaiting k [] ++ (if k = 212 + (carrierOf s pa).getD 0 then [o] else []))) ∧
    (∀ k (port : BitVec 10) ra, k < 4 → 0x200 ≤ port.toNat →
      (∀ v, memwinRead s k port = some v → exec (.memwinAccess k port ra none) s = .next (putPair (memwinNote s k port) k ra v)) ∧
      (memwinRead s k port = none → exec (.memwinAccess k port ra none) s = .next (setBadIo (putPair s k ra (2 ^ 64 - 1)) k)) ∧
      (∀ v t, memwinWrite s k port v = some t → exec (.memwinAccess k port ra (some v)) s = .next t) ∧
      (∀ v, memwinWrite s k port v = none → exec (.memwinAccess k port ra (some v)) s = .next (setBadIo s k))) ∧
    (∀ n (val : W32), n < 4 →
      let wbad := if val.getLsbD 16 then s.disp.waysBad.erase n else s.disp.waysBad
      let bbad := if val.getLsbD 7 then s.disp.bwBad.erase n else s.disp.bwBad
      let share := val.toNat % 128 + (((List.range 4).filter (· ≠ n)).map (classShare s)).sum
      exec (.waysClassWrite n val) s = .next (if val.setWidth 16 = (0 : W16) then { s with disp := { s.disp with waysBad := wbad.erase n ++ [n] } }
        else { s with disp := { s.disp with waysBad := wbad, ways := tput s.disp.ways n (val.setWidth 16) } }) ∧
      exec (.bwClassWrite n val) s = .next (if 64 < share then { s with disp := { s.disp with bwBad := bbad.erase n ++ [n] } }
        else { s with disp := { s.disp with bwBad := bbad, bw := tput s.disp.bw n (BitVec.ofNat 7 (val.toNat % 128)) } })) ∧
    (∀ val : W64,
      ((∀ e ∈ s.cor.groups, e.2.saved = false) →
        exec (.savePoolWrite false val) s = .next { s with disp := { s.disp with poolBase := val.extractLsb' 16 36 } } ∧
        exec (.savePoolWrite true val) s = .next { s with disp := { s.disp with poolUnits := val.setWidth 16, poolBad := s.disp.poolBad && !val.getLsbD 16 } }) ∧
      ((∃ e ∈ s.cor.groups, e.2.saved = true) → ∀ b, exec (.savePoolWrite b val) s = .next { s with disp := { s.disp with poolBad := true } })) ∧
    (∀ val : W64,
      ((∀ e ∈ s.cmd.queues, e.2.st = .unmapped) →
        exec (.qtabBaseWrite val) s = .next (s.modCmd (fun c => { c with qtab := val.extractLsb' 18 34 })) ∧
        exec (.asTabBaseWrite val) s = .next { s with xlat := { s.xlat with asTab := val.extractLsb' 20 32 } }) ∧
      ((∃ e ∈ s.cmd.queues, e.2.st ≠ .unmapped) →
        exec (.qtabBaseWrite val) s = .next (s.modCmd (fun c => { c with mapErr := true })) ∧
        exec (.asTabBaseWrite val) s = .next { s with xlat := { s.xlat with badWr := true } })) ∧
    (∀ val : W32, exec (.scanCtlWrite val) s = .next (s.modCmd (fun c => { c with
      scanBadWr := (c.scanBadWr && !val.getLsbD 4) || decide (10 < val.toNat % 16)
      qmax := if 10 < val.toNat % 16 then c.qmax else val.setWidth 4
      scanEnable := val.getLsbD 9 }))) ∧
    (∀ val : W64,
      (let n := max 1 (min val.toNat 200)
        let t := s.modFw (fun f => { f with ageLimit := n })
        exec (.ageLimitWrite val) s = .next (if n = val.toNat then t else t.modKiln 1 (fun c => { c with clamp := true }))) ∧
      (let n := max (2 ^ 16) (min val.toNat (2 ^ 28))
        let t := s.modFw (fun f => { f with oswdog := n })
        exec (.oswdogWrite val) s = .next (if n = val.toNat then t else t.modKiln 2 (fun c => { c with clamp := true })))) ∧
    (∀ val : W64,
      let t := { s with dpy := { s.dpy with headSel := val.setWidth 32, member := val.extractLsb' 32 16, synthEn := val.extractLsb' 48 4 } }
      let moves := ∃ h, h < 4 ∧ s.dpy.synthEn.getLsbD h = true ∧ t.dpy.synthEn.getLsbD h = true ∧ mappedCores s h ≠ mappedCores t h
      (moves → exec (.dispRowMapWrite val) s = .next { s with dpy := { s.dpy with mapBad := true } }) ∧
      (¬ moves → exec (.dispRowMapWrite val) s = .next { t with dpy := { t.dpy with mapBad := s.dpy.mapBad && !val.getLsbD 52 } })) ∧
    (∀ val : W32, exec (.dispCacheCtlWrite val) s = .next { s with dpy := { s.dpy with
      waysBad := (s.dpy.waysBad && !val.getLsbD 4) || decide (8 < val.toNat % 16)
      ways := if 8 < val.toNat % 16 then s.dpy.ways else val.setWidth 4 } }) ∧
    (∀ head (val : W32),
      let lines := val.toNat % 2 ^ 7
      let lead := val.toNat / 2 ^ 11 % 2 ^ 10
      let ahead := val.toNat / 2 ^ 21 % 2 ^ 10
      exec (.bandCfgWrite head val) s = .next (s.modHead head (fun d =>
        if lines = 0 ∨ 64 < lines ∨ lead < 8 ∨ ahead = 0 then { d with cfgBad := true }
        else { d with cfgBad := d.cfgBad && !val.getLsbD 31, cfg := { d.cfg with bandLines := lines, guard := val.toNat / 2 ^ 7 % 2 ^ 4, poseLead := lead, leadLines := ahead } }))) ∧
    (∀ head (val : W64), exec (.memheadWrite head val) s = .next (s.modHead head (fun d =>
      { d with mhBase := val.extractLsb' 12 40, mhSlots := BitVec.ofNat 4 (min 4 (val.toNat / 2 ^ 52 % 16)) })))

/-! ## Queues and packets -/

/-- R40, R43, R45, R46, R47, R48, R66, R76. The command interface: mapping, unmapping, restarting and reloading a queue; one poll of a queue that is due, in a read slot (their places are the choice of log 60, and what UNMAP does with a status page that cannot be written, the index before the first poll, and RESTART's interval that of log 61); a packet that KC0 submits; a wait that is read again or
runs out. -/
def Obligations.QueueResults : Prop :=
  ∀ (s : State) (qid : Nat),
    let q := s.queue qid
    (∀ d, readQueue s qid = some d →
      (qid < 4096 → q.st = .unmapped → exec (.qmapMap qid) s = .next (openQueue s qid d { running := q.running })) ∧
      (q.st = .error → exec (.qmapRestart qid) s = .next (openQueue s qid d q)) ∧
      (q.st ≠ .unmapped →
        let t := s.modQueue qid (fun q => { q with desc := { q.desc with cls := d.cls, prio := d.prio, direct := d.direct, ivmax := d.ivmax } })
        exec (.qmapReload qid) s = .next (if d.prio = q.desc.prio then t else toDispatcher t (.queuePrio qid d.prio)))) ∧
    (readQueue s qid = none → exec (.qmapMap qid) s = .next (mapError s) ∧ exec (.qmapRestart qid) s = .next (mapError s) ∧ exec (.qmapReload qid) s = .next (mapError s)) ∧
    (q.st ≠ .unmapped →
      let t := (dropTags s qid).modQueue qid (fun q => { q with st := .unmapped, err := 0, buf := [], wait := none, scanErr := none, phase := none })
      exec (.qmapUnmap qid) s = .next (closePhase
        ((queueWrite t q.desc q.desc.rptr.toNat (leBytes 4 q.r.toNat ++ leBytes 4 0)).getD (recordError t qid 8)) q.phase)) ∧
    (q.st = .unmapped → exec (.qmapUnmap qid) s = .next (mapError s)) ∧
    (scannerRuns s = true → pollSlot s = true → dueQueue s = some qid →
      let t := s.modCmd (fun c => { c with reads := c.reads + 1, lastQid := qid, late := c.late || decide (q.due + 4 * 132000 < s.time) })
      (readW t q = none → exec .scannerPoll s = .next (settleScanError (t.modQueue qid (fun q => { q with scanErr := some 6 })) qid)) ∧
      (∀ w, readW t q = some w →
        let iv := if w ≠ q.wSeen then 32 * 132 else min (2 * q.interval) (2 ^ min q.desc.ivmax s.cmd.qmax.toNat * (32 * 132))
        let u := (hubNote t q.desc.asid.toNat q.desc.wptr.toNat 4).modQueue qid (fun q => { q with interval := iv, due := s.time + iv, wSeen := w })
        exec .scannerPoll s = .next (settleScanError
          (if 2 ^ q.desc.ringLog2 < (w - q.r).toNat then u.modQueue qid (fun q => { q with scanErr := some 2 }) else fetchBatches qid 3 u) qid))) ∧
    (∀ (val : W64) p, val.toNat % 2 ^ 12 = qid → val.toNat / 2 ^ 12 % 16 = 0 → val.toNat / 2 ^ 48 = 0 → oldestHeld q = some p → val.toNat / 2 ^ 16 % 2 ^ 32 = p.idx.toNat →
      let act := s.fw.submit.toNat / 2 ^ 57 % 16
      let t := s.modQueue qid (fun q => { q with
        buf := q.buf.map (fun b => if b.idx = p.idx then { b with place := .submitted, act, addr := s.fw.submit.setWidth 57 } else b) })
      ∀ e ∈ [((.dspSubmitLaunch val : Instr), 0), (.dspSubmitGraph val, 1), (.dspSubmitPerform val, 2), (.dspSubmitReject val, 3)], e.2 = act →
        exec e.1 s = .next (startHead t qid (fun b => b.idx = p.idx))) ∧
    (∀ w pa v, q.st = .waiting → q.wait = some w → w.due ≤ s.time → (∀ r ∈ q.running, ∀ id x, r.2 ≠ .launchWait id x) → readCounter s q.desc.asid w.cnt = some (pa, v) →
      let t := hubNote s q.desc.asid.toNat w.cnt.toNat 8
      exec (.waitRecheck qid) s = .next (
        if w.val.toNat ≤ v then storeStatus (t.modQueue qid (fun q => { q with st := .active, wait := none })) qid
        else t.modQueue qid (fun q => { q with wait := some ({ w with pa }.again s.time (pollCeiling s q)) }))) ∧
    (∀ w t, q.st = .waiting → q.wait = some w → w.deadline = some t → t ≤ s.time → exec (.waitTimeout qid) s = .next (failWait s qid 4)) ∧
    (∀ t, q.scanErr = none →
      let u := s.modQueue qid (fun q => { q with buf := q.buf.drop 1, r := q.r + 1, running := q.running.filter (fun r => !pendingDone s r.2) })
      queueWrite u q.desc q.desc.rptr.toNat (leBytes 4 (q.r + 1).toNat) = some t → takeHead s qid = t)

/-- R51, R52, R53, R54, R55, R56, R57, R58, R59, R60, R61, R62. The oldest packet of a queue, where it may start and is valid, starts as its command: R passes it, and what the command names happens or begins. A packet that is
not valid puts its queue into ERROR. (That R passes a WAIT whose condition is false, and what KC0's submission of another command does, are the choices of logs 50 and 36.) -/
def Obligations.PacketResults : Prop :=
  ∀ (s : State) (qid : Nat) (p : Packet), startable s qid = some p →
    let q := s.queue qid
    let done := fun t => takeHead t qid
    let cmd := fun n => p.command = n ∧ packetOk q.desc.cls p = true
    let w := p.word
    let cnt := fun i => BitVec.ofNat 57 (w i)
    let counter := fun i => readCounter s q.desc.asid (cnt i)
    (packetOk q.desc.cls p = false → ∀ e ∈ [((.pktNop qid : Instr), 0), (.pktLaunch qid, 1), (.pktGraph qid, 2), (.pktCopy qid, 3), (.pktWait qid, 4), (.pktSignal qid, 5),
      (.pktPhase qid, 6), (.pktPresent qid, 8), (.pktFence qid, 9)], p.command = e.2 → exec e.1 s = .next (enterError s qid 1)) ∧
    (cmd 0 → exec (.pktNop qid) s = .next (done s)) ∧
    (cmd 1 →
      let kc0 := p.place == .submitted && p.act == 0
      let l : Launch := { recAddr := if kc0 then p.addr else cnt 1, asid := q.desc.asid, qid, phase := q.phase, viaKc0 := kc0, direct := !kc0 }
      let wcnt := if p.op = 1 then cnt 2 else 0
      let u := hubNote s q.desc.asid.toNat wcnt.toNat 8
      let m := newLaunch (phaseJoin u q.phase) { l with waiting := true }
      let now := fun (t : State) =>
        let n := newLaunch (phaseJoin t q.phase) { l with waiting := false }
        done (addRunning (toDispatcher n.2 (.launch n.1)) qid p.idx (.launch n.1))
      (wcnt = 0 → exec (.pktLaunch qid) s = .next (now s)) ∧
      (wcnt ≠ 0 → ∀ pa v, readCounter s q.desc.asid wcnt = some (pa, v) →
        (w 3 % 2 ^ 64 ≤ v → exec (.pktLaunch qid) s = .next (now u)) ∧
        (v < w 3 % 2 ^ 64 → exec (.pktLaunch qid) s = .next (done (addRunning m.2 qid p.idx
          (.launchWait m.1 { cnt := wcnt, val := BitVec.ofNat 64 (w 3), pa, due := s.time + 32 * 132 })))))) ∧
    (cmd 2 →
      let kc0 := p.place == .submitted && p.act == 1
      let id := s.disp.nextGraph
      let g : Graph := { qid, asid := q.desc.asid, descAddr := if kc0 then p.addr else cnt 1, nl := if p.op = 2 then w 2 % 2 ^ 16 else 0, phase := q.phase, viaKc0 := kc0 }
      let t := phaseJoin s q.phase
      let u := { t with disp := { t.disp with graphs := tput t.disp.graphs id g, nextGraph := id + 1 } }
      exec (.pktGraph qid) s = .next (done (addRunning (toDispatcher u (.graph id)) qid p.idx (.graph id)))) ∧
    (cmd 3 →
      (hubBytes s q.desc.asid.toNat (cnt 1).toNat 64 = none → exec (.pktCopy qid) s = .next (done s)) ∧
      (∀ bs, hubBytes s q.desc.asid.toNat (cnt 1).toNat 64 = some bs →
        let d := parseDesc bs
        let r := hubCopy s qid p.idx q.desc.asid (cnt 1) d (w 2)
        exec (.pktCopy qid) s = .next (if d.kind ∈ [2, 3, 6] then enterError s qid 1 else done (addRunning r.2 qid p.idx (.copy r.1))))) ∧
    (cmd 4 → ∀ pa v, counter 1 = some (pa, v) →
      let us := w 3 % 2 ^ 32
      let x : QWait := { cnt := cnt 1, val := BitVec.ofNat 64 (w 2), pa, deadline := if us = 0 then none else some (s.time + us * 132000), due := s.time + 32 * 132 }
      let u := hubNote s q.desc.asid.toNat (cnt 1).toNat 8
      let t := done (u.modQueue qid (fun q => { q with st := .waiting, wait := some x }))
      exec (.pktWait qid) s = .next (if w 2 % 2 ^ 64 ≤ v then done u else if (t.queue qid).st = .waiting then storeStatus t qid else t)) ∧
    (cmd 4 → counter 1 = none → exec (.pktWait qid) s = .next (enterError s qid 5)) ∧
    (cmd 5 →
      let r := hubUpdate (releaseAll s) q.desc.asid.toNat (w 1 % 2 ^ 57) (fun v => if (w 3).testBit 0 then (v + w 2) % 2 ^ 64 else w 2)
      (∀ t, r = some t → exec (.pktSignal qid) s = .next (done t)) ∧ (r = none → exec (.pktSignal qid) s = .next (enterError (releaseAll s) qid 5))) ∧
    (cmd 6 →
      let id := s.disp.nextPhase
      let t := { s with
        cmd := { s.cmd with phases := tput s.cmd.phases id { qid, num := BitVec.ofNat 32 (w 1), pcnt := cnt 2, asid := q.desc.asid } }
        disp := { s.disp with nextPhase := id + 1 } }
      exec (.pktPhase qid) s = .next (done (closePhase (t.modQueue qid (fun q => { q with phase := some id })) q.phase))) ∧
    (cmd 7 →
      (w 1 % 16 = 1 → exec (.pktJobctlCancel qid) s = .next (done (toDispatcher s (.cancel (some q.desc.asid) (cnt 2) (w 1 / 2 ^ 4 % 16))))) ∧
      (w 1 % 16 = 2 → exec (.pktJobctlSetPriority qid) s = .next (done (toDispatcher s (.prio (some q.desc.asid) (cnt 2) (w 1 / 2 ^ 4 % 16) (w 1 / 2 ^ 8 % 16)))))) ∧
    (cmd 8 →
      let asid := q.desc.asid.toNat
      let n := w 1 % 2 ^ 12
      (pubReadable s asid n = true → (pubEntry s asid n).isSome = true →
        let t := publishEntry (releaseCores s 3) asid n
        exec (.pktPresent qid) s = .next (done ((List.range 4).foldl (fun t h =>
          if (w 1).testBit (16 + h) then t.modHead h (fun d => { d with srcFrame := BitVec.ofNat 64 (w 2) }) else t) t))) ∧
      (pubReadable s asid n = false ∨ pubEntry s asid n = none → exec (.pktPresent qid) s = .next (enterError s qid 7))) ∧
    (cmd 9 → exec (.pktFence qid) s = .next (done (releaseCores s (if (w 1).testBit 0 then 4 else 3))))

/-! ## The dispatcher and its tasks -/

/-- R75, R76, R90, R95, R100, R276, R283, R284, R287, R289, R319. A decision takes every event that has reached the dispatcher through its five steps in their order; a group whose coils have completed returns what it
held; a window of episodes moves 25 MHz from the best core to the worst, of which one with no resident group is at 3.3 GHz again (that a window's scores go with BAL_EN = 0 is the choice of log 28); a pre-emption request, a cancel and a priority reach the next decision; and a cluster whose groups can all be stopped is saved with the next serial, or, where a
register holds an error, its launch is contained. -/
def Obligations.DispatchResults : Prop :=
  ∀ (s : State),
    (let evs := s.disp.inbox
     let t := checkTasks { s with disp := { s.disp with inbox := [] } }
     exec .dispatcherDecision s = .next (settlePreempt (settlePause (refreshHeads (placeOnce (refreshHeads
       (decideAccepts (decidePrios (decideCancels (decideExits t evs) evs) evs) evs))))))) ∧
    (∀ gid g, s.group? gid = some g → g.started = true → g.saved = false → (∀ co ∈ g.coils, co.complete = true) → (∀ e ∈ s.cor.copies, (e.2.owner.map (·.1)) ≠ some gid) →
      g.mx.queue = [] → (s.cluster g.cluster).render = none →
      let t := dropGroup (forgetGroup s gid) gid
      exec (.groupComplete gid) s = .next (testCbar { t with disp := { t.disp with
        clusters := tupd t.disp.clusters g.cluster (fun c => { c with completed := c.completed ++ [gid] }), inbox := t.disp.inbox ++ [.groupExit g.cluster] } } g.cluster)) ∧
    (∀ region,
      let l := tgetD s.mod.balance region []
      let rs := episodeRanks l.length l
      let score := coreScore rs
      let counted := fun (k : Nat) => ∃ q, (k, q) ∈ rs
      let t := { s with mod := { s.mod with episodes := tput s.mod.episodes region 0, balance := tput s.mod.balance region [] } }
      (tgetD s.mod.episodes region 0 < s.fw.balWindow.toNat + 1 → exec (.energyRebalance region) s = .next s) ∧
      (s.fw.balWindow.toNat + 1 ≤ tgetD s.mod.episodes region 0 →
        (s.fw.balEn = false → exec (.energyRebalance region) s = .next t) ∧
        (∀ w b, counted w → counted b → w ≠ b →
          (∀ k, counted k → qLe (score k) (score w) = true ∧ (qLe (score w) (score k) = true → w ≤ k)) →
          (∀ k, counted k → qLe (score b) (score k) = true ∧ (qLe (score k) (score b) = true → k ≤ b)) →
          s.fw.balEn = true → coreFreq s w < 3600 → coreFreq s w < tgetD s.mod.ceiling w 3600 → 2800 < coreFreq s b →
          exec (.energyRebalance region) s = .next (postFree (idleCore (idleCore (setFreq (setFreq t w (coreFreq s w + 25)) b (coreFreq s b - 25)) w) b) 3 w)))) ∧
    (∀ lcnt, ∀ e ∈ [((.preemptSuspend lcnt : Instr), 1), (.preemptRequeue lcnt, 2), (.preemptResume lcnt, 3)],
      exec e.1 s = .next (toDispatcher s (.preempt lcnt e.2))) ∧
    (∀ val : W64,
      exec (.dspCancel val) s = .next (toDispatcher s (.cancel none (val.setWidth 57) (val.toNat / 2 ^ 57 % 8))) ∧
      exec (.dspPrio val) s = .next (toDispatcher s (.prio none (val.setWidth 57) (val.toNat / 2 ^ 57 % 8) (val.toNat / 2 ^ 60)))) ∧
    (∀ cluster cl, tget s.disp.clusters cluster = some cl → cl.stopping = true →
      let gs := cl.groups.filter (fun g => (s.group? g).isSome)
      let t := gs.foldl quietGroup s
      let put := fun (u : State) (f : Cluster → Cluster) => { u with disp := { u.disp with clusters := tupd u.disp.clusters cluster f } }
      (∀ g ∈ gs, groupReady s g = true) →
      ((∀ g ∈ gs, pendingIn (t.group g) = none) →
        let u := { t with disp := { t.disp with serial := t.disp.serial + 1 } }
        let v := cl.areas.foldl (fun v a => saveArea v a.1 (t.disp.serial + 1).toNat a.2.1) u
        let w := (gs.map (fun g => (v.group g).core)).foldl idleCore (gs.foldl (fun v g => v.modGroup g (fun g => { g with saved := true })) v)
        exec (.clusterSave cluster) s = .next (settlePreempt (settlePause
          ((put w (fun c => { c with stopping := false, saved := true, serial := t.disp.serial + 1 })).modLaunch cl.launch (fun l => { l with saved := l.saved ++ [cluster] }))))) ∧
      (∀ g c lane addr pre post, gs = pre ++ g :: post → (∀ h ∈ pre, pendingIn (t.group h) = none) → pendingIn (t.group g) = some (c, lane, addr) →
        let u := (put t (fun c => { c with stopping := false, areas := [] })).modCoil g c (fun co => { co with stopped := true })
        exec (.clusterSave cluster) s = .next (settlePreempt (containAt u g c lane ((t.coil g c).thread lane).pc addr))))

/-- R97. `BestFit` finds the region with the fewest cores that have room, of those with enough, the lower on a tie, and takes its cores of least room, the lower index first; without such a region it finds none.
(A region here holds the eight cores from 8g.) -/
def Obligations.PlacementRule : Prop :=
  ∀ (s : State) (r : LaunchRec) (need : Nat) (allowed : List Nat), allowed.Pairwise (· < ·) →
    let roomy := fun (g k : Nat) => 8 * g ≤ k ∧ k < 8 * g + 8 ∧ coreOpen s k = true ∧ 1 ≤ roomOn s k r
    let count := fun (g : Nat) => ((List.range 8).filter (fun i => coreOpen s (8 * g + i) && decide (1 ≤ roomOn s (8 * g + i) r))).length
    ((bestFit s r need allowed = none) ↔ ∀ g ∈ allowed, count g < need) ∧
    (∀ g cores, bestFit s r need allowed = some (g, cores) →
      g ∈ allowed ∧ need ≤ count g ∧ (∀ h ∈ allowed, need ≤ count h → count g < count h ∨ (count g = count h ∧ g ≤ h)) ∧
      cores.length = need ∧ cores.Nodup ∧ (∀ k ∈ cores, roomy g k) ∧
      (∀ k ∈ cores, ∀ j, roomy g j → j ∉ cores → roomOn s k r < roomOn s j r ∨ (roomOn s k r = roomOn s j r ∧ k < j)))

/-- R56, R104, R105, R107, R108, R112, R115, R118, R119, R120, R209, R210, R211, R212, R213, R258. Tasks and copies: a task unit starts the next task on a parked worker, a worker whose task has ended completes it, KC1's decisions on a faulted
task, and the close of a pool (a control block that cannot be read as its task completes, and a machine check in a worker, are the choices of log 26; a copy's poisoned descriptor or bytes those of log 22); a core's copy engine reads a descriptor, lands bytes, counts them in the barrier object, and completes a copy; a load-block ends. -/
def Obligations.TaskAndCopyResults : Prop :=
  ∀ (s : State),
    (∀ region tcb launch rest, (s.region region).faults = (tcb, launch) :: rest → region < 24 →
      let t := s.modRegion region (fun r => { r with faults := rest })
      exec (.taskDecideLeave region) s = .next { t with cor := { t.cor with tcbLeft := t.cor.tcbLeft ++ [(tcb, launch)] } } ∧
      exec (.taskDecideCancelSubgraph region) s = .next (cancelFrom (t.launch launch).asid (2 ^ 40) [some tcb.toNat] t) ∧
      (∀ pa, tcbPa t (t.launch launch).asid.toNat tcb.toNat = some pa →
        let w := (tcbGet t pa 8 8).1
        let u := tcbPut (tcbGet t pa 8 8).2 pa 8 8 (setField (setField w 32 3 1) 43 3 (min 7 (field w 43 3 + 1)))
        exec (.taskDecideRetry region) s = .next (appendReady u (if wRq w = 31 then region else wRq w) (wPrio w) tcb launch))) ∧
    (∀ region, (s.region region).faults = [] ∨ 24 ≤ region →
      ∀ i ∈ [(.taskDecideRetry region : Instr), .taskDecideCancelSubgraph region, .taskDecideLeave region],
        exec i s = .next { s with cor := { s.cor with taskBad := true } }) ∧
    (∀ region prio e gid c,
      let r := (unread_ s region).foldl (fun s x => beginTask s x.1 x.2) s
      pickTask r region = some (prio, e, gid, c) →
      let t := setReady r region prio ((tgetD (r.region region).ready prio []).erase e)
      exec (.taskStart region) s = .next (beginTask (t.modCoil gid c (fun co =>
        { co with parked := false, task := some { tcb := e.tcb, launch := e.launch, part := 0, iter := 0, pro := 0, ker := 0, epi := 0, trip := 0, itreg := 0, hasEpi := false, reading := true } })) gid c)) ∧
    (∀ gid c t, (s.coil gid c).task = some t →
      ((s.coil gid c).stopped = true → exec (.taskFaultListEntry gid c) s = .next (machineCheckTask s gid c)) ∧
      (t.faulted = true → (s.coil gid c).stopped = false → exec (.taskFaultListEntry gid c) s = .next (enterFault s gid c)) ∧
      (t.ending = true → (s.coil gid c).stopped = false → (s.group gid).saved = false → (∀ e ∈ s.cor.copies, ∀ w, e.2.owner = some w → ¬ (w.1 = gid ∧ w.2.1 = c)) →
        (∀ q ∈ (s.group gid).mx.queue, ∀ d, q.drain = some d → d.coil ≠ c) →
        let k := (s.group gid).core
        let asid := (s.launch t.launch).asid.toNat
        let u := releaseAt s k 3
        (tcbPa u asid t.tcb.toNat = none → exec (.completeTask gid c) s = .next (parkCoil (postFree u 5 0) gid c)) ∧
        (∀ pa, tcbPa u asid t.tcb.toNat = some pa →
          let v := setTaskState u pa 3
          let w := decBatch v t.launch k (successors v asid pa)
          let flag := physNat w (pa + 0x38) 8
          exec (.completeTask gid c) s = .next (parkCoil (if bit flag 0 then engineFlag w (field flag 1 8) (field flag 9 6) 1 else w) gid c)))) ∧
    (∀ launch, allPlaced s launch = true → noTasks s launch = true →
      let mine := s.cor.groups.filter (fun (g : Nat × Group) => g.2.launch = launch)
      (∀ g ∈ mine, ∀ co ∈ g.2.coils, co.parked = true ∨ co.complete = true) →
      exec (.taskPoolClose launch) s = .next (mine.foldl (fun s g => (List.range g.2.coils.length).foldl (fun s c =>
        if (s.coil g.1 c).parked then endThreads (s.modCoil g.1 c (fun co => { co with parked := false })) g.1 c (List.range 32) false else s) s) s)) ∧
    (∀ core id rest c gid coil lane, (s.core core).copyq = id :: rest → s.copy? id = some c → c.owner = some (gid, coil, lane) →
      let t := s.modCore core (fun c => { c with copyq := rest })
      let d := parseDesc (cellsBytes (t.group gid).lmem c.off 64)
      let e : Copy := { c with desc := d }
      let r := ringRead t gid d.aux
      exec (.copyDescriptorFetch core) s = .next (
        if localBad t gid c.off 64 = true then copyPoison t id c c.off
        else if groupCopyOk t gid c.asid d = false then finishCopy t id e 2
        else if d.kind = 6 ∧ c.ringIdx = none then
          (setLocal t gid (d.aux + 0x10) 4 ((putIdx t r + 1) % 2 ^ 32)).modCopy id (fun _ => { e with st := .running, ringIdx := some (BitVec.ofNat 32 (putIdx t r)) })
        else t.modCopy id (fun _ => { e with st := .running }))) ∧
    (∀ id bytes c, s.copy? id = some c → c.st = .running → mayMove s id c = true →
      let r := movePieces id bytes (min bytes (copyTotal s c - c.done)) s
      let t := match c.owner with
        | some (gid, _, _) => if c.desc.boEn = true ∧ c.desc.kind ≠ 5 ∧ r.2 ≠ 0 then countBo r.1 gid c.desc.bo (-(r.2 : Int)) else r.1
        | none => r.1
      exec (.copyBytesLand id bytes) s = .next (match t.copy? id with
        | some d => if d.st = .running ∧ copyTotal t d ≤ d.done then copyRead t id d else t
        | none => t)) ∧
    (∀ id c, s.copy? id = some c → (∀ w, c.owner = some w → (s.group w.1).saved = false) →
      (c.st = .landed → spareWaits s c = false → exec (.copyComplete id) s = .next (finishCopy s id c 0)) ∧
      (c.st = .landed → spareWaits s c = true → exec (.copyComplete id) s = .next s) ∧
      (c.st = .failed → exec (.copyComplete id) s = .next (finishCopy s id c c.status))) ∧
    (∀ fill b, tget s.cor.blocks fill = some b → exec (.ldblkFillComplete fill) s = .next (if b.sc = true then s else finishBlock s fill))

/-! ## Translation, timers and renders -/

/-- R198, R200, R204, R240, R242, R243, R244, R255, R277, R279, R321, R360, R370, R373. A walk that ends, the replies of KC2 to a fault, invalidations; results that land, the timers of a coil, the wheel of SC operations, the sweep of dirty lines, and the
grants, watchdog and retries of ordered sections. (Which accesses an invalidation waits for, and that it writes every core's dirty bytes back, is log 22; the lanes that take `OS_GAP` and a full table log 16; where a swept line goes log 45.) -/
def Obligations.TranslationAndCoreResults : Prop :=
  ∀ (s : State),
    (∀ i m, tget s.xlat.merge i = some m → m.posted = false → m.fail = 0 →
      (∀ l, walk s m.asid (m.vpn * 4096) = .leaf l →
        let t := hubPagesFill ((attachedCores (holdAs s m.asid) m).foldl (fun t k => fillTlb t k m.asid m.vpn l) (holdAs s m.asid)) m l
        exec (.pageWalkComplete i) s = .next (if m.kind = 1 ∧ leafW l = false then m.att.foldl (fun t a => waitFault t i a) (postFault t i)
          else m.att.foldl (fun t a => answerEngine (wakeFault t i a) a) { t with xlat := { t.xlat with merge := tdel t.xlat.merge i } })) ∧
      (walk s m.asid (m.vpn * 4096) = .absent → exec (.pageWalkComplete i) s = .next (m.att.foldl (fun t a => waitFault t i a) (postFault s i))) ∧
      (walk s m.asid (m.vpn * 4096) = .bad → exec (.pageWalkComplete i) s = .next (failEntry s i tACCESS_VIOLATION))) ∧
    (∀ (n : BitVec 12),
      (∀ m, tget s.xlat.merge n.toNat = some m → m.posted = true →
        exec (.fqReplay n) s = .next (
          let t := s.modMerge n.toNat (fun m => { m with posted := false, seq := s.xlat.walks })
          { t with xlat := { t.xlat with walks := t.xlat.walks + 1 } }) ∧ exec (.fqReplayFail n) s = .next (failEntry s n.toNat tPAGE_FAULT)) ∧
      ((∀ m, tget s.xlat.merge n.toNat = some m → m.posted = false) →
        exec (.fqReplay n) s = .next (setBadIo s 2) ∧ exec (.fqReplayFail n) s = .next (setBadIo s 2))) ∧
    (∀ val : W32, exec (.tlbiGo val) s = .next (
      if s.xlat.busy then { s with xlat := { s.xlat with badWr := true } }
      else { s with xlat := { s.xlat with
        tlbiAsid := val.setWidth 16, tlbiPages := val.extractLsb' 16 10, tlbiAllVa := val.getLsbD 26, tlbiAllAsid := val.getLsbD 27, busy := val.getLsbD 28 } })) ∧
    (s.xlat.busy = true → s.xlat.tlbiFrom = none →
      let x := s.xlat
      let keep := fun (l : List (Nat × Nat × Nat)) => l.filter (fun e => !tlbiHits x e.1 e.2.1 (leafSize e.2.2))
      let t := { s with
        cor := { s.cor with
          cores := s.cor.cores.map (fun (e : Nat × Core) => (e.1, { e.2 with tlb := keep e.2.tlb }))
          regions := s.cor.regions.map (fun (e : Nat × Region) => (e.1, { e.2 with tlb := keep e.2.tlb }))
          copies := s.cor.copies.map (fun (e : Nat × Copy) => (e.1, { e.2 with pages := e.2.pages.filter (fun p => !tlbiHits x e.2.asid.toNat p.1 (leafSize p.2)) })) }
        xlat := { s.xlat with
          merge := x.merge.filter (fun (e : Nat × Merge) => !tlbiHits x e.2.asid e.2.vpn 0)
          asCopies := x.asCopies.filter (fun (e : Nat × W64 × W64) => !(x.tlbiAllAsid || (x.tlbiAllVa && e.1 == x.tlbiAsid.toNat)))
          tlbiFrom := some s.cor.order } }
      let u := (x.merge.filter (fun (e : Nat × Merge) => tlbiHits x e.2.asid e.2.vpn 0)).foldl
        (fun u e => e.2.att.foldl (fun u a => answerEngine (wakeFault u e.1 a) a) u) t
      (tlbiWaits u (u.xlat.tlbiFrom.getD 0) = true → exec .tlbiComplete s = .next u) ∧
      (tlbiWaits u (u.xlat.tlbiFrom.getD 0) = false →
        let v := (u.cor.cores.map (·.1)).foldl (fun v k => releaseAt v k 3) u
        exec .tlbiComplete s = .next { v with xlat := { v.xlat with busy := false, tlbiFrom := none } })) ∧
    (∀ o, s.xlat.busy = true → s.xlat.tlbiFrom = some o →
      (tlbiWaits s o = true → exec .tlbiComplete s = .next s) ∧
      (tlbiWaits s o = false →
        let v := (s.cor.cores.map (·.1)).foldl (fun v k => releaseAt v k 3) s
        exec .tlbiComplete s = .next { v with xlat := { v.xlat with busy := false, tlbiFrom := none } })) ∧
    (∀ core,
      let old := fun (c : Cache) => (c.dirty.filter (fun e => decide (e.2.since + ccTicks s core 65536 ≤ s.time))).map (·.1)
      let t := (old (s.core core).l1).foldl (fun t l => l1WriteBack t core l 3) s
      let old' := fun (c : Cache) => (c.dirty.filter (fun e => decide (e.2.since + ccTicks t core 65536 ≤ t.time))).map (·.1)
      exec (.dirtyLineSweep core) s = .next ((old' (t.region (regionOf core)).cache).foldl (fun t l => regionWriteBack t (regionOf core) l) t)) ∧
    (let pos := s.xlat.wheel % 256
     let ops := tgetD s.xlat.scWaiting pos []
     (ops = [] → exec .scWheelPosition s = .next { s with xlat := { s.xlat with wheel := s.xlat.wheel + 1 } }) ∧
     (ops ≠ [] → exec .scWheelPosition s = .next ((ops.take 8).foldl performSc { s with xlat := { s.xlat with
        wheel := s.xlat.wheel + 1, scWaiting := if ops.length ≤ 8 then tdel s.xlat.scWaiting pos else tput s.xlat.scWaiting pos (ops.drop 8) } }))) ∧
    (∀ gid c l rest, (s.coil gid c).landings = l :: rest →
      let co := l.regs.foldl (fun co r => if l.bad then co.badReg l.addr r else co.landReg r) (s.coil gid c)
      exec (.longLatencyLand gid c) s = .next (settleCoil (s.modCoil gid c (fun _ => { co with landings := rest })) gid c)) ∧
    (∀ gid c,
      let co := s.coil gid c
      ((s.launchOf gid).rec_.fair = true → (if co.fairtime = 0 then 65536 else co.fairtime) ≤ co.stickyCount →
        exec (.fairnessTimerExpiry gid c) s = .next (s.modCoil gid c (fun co => { co with turnOver := true }))) ∧
      (∀ l rest, watchdogLanes s gid c = l :: rest →
        let t := serveClaims gid 32 (withdrawWaits s gid c (laneMask ((l :: rest).filter (fun k => decide ((co.thread k).pc = (co.thread l).pc)))))
        let path := pathOf (t.coil gid c) l
        let pc := ((t.coil gid c).thread l).pc
        exec (.watchdogExpiry gid c) s = .next (raiseTrap (t.modCoil gid c (fun co => co.mapLanes path (fun th => { th with wdogFrom := coreCycles t (t.group gid).core }))) gid c path pc pc
          { code := tWATCHDOG, cause := laneMask ((l :: rest).filter (laneIn path)) })) ∧
      exec (.sleepHoldEnd gid c) s = .next (s.modCoil gid c (fun co =>
        { co with threads := co.threads.map (fun t => if t.heldUntil ≤ coreCycles s (s.group gid).core then { t with heldUntil := 0 } else t) }))) ∧
    (∀ slice entry,
      exec (.osGrant slice entry) s = .next (grantKey s slice entry) ∧
      (∀ e, tget (s.slice slice).keys entry = some e → keyExpired s e = true →
        let here := fun (q : W16 × BitVec 8 × W32 × Waiter) => q.1 = e.asid && q.2.1 = e.dom && q.2.2.1 = e.key && !q.2.2.2.skip
        let t := (modKey s slice entry (fun e => { e with waiters := e.waiters.filter (·.skip), wdog := 0 })).modSlice slice
          (fun t => { t with overflow := t.overflow.filter (fun q => !here q) })
        exec (.osWatchdogExpiry slice entry) s = .next
          ((e.waiters.filter (fun w => !w.skip) ++ ((s.slice slice).overflow.filter here).map (·.2.2.2)).foldl (fun t w => raiseGap t e.key w) t)) ∧
      (∃ u, exec (.osOverflowRetry slice) s = .next u ∧ u.slices = s.slices ∧ u.mem = s.mem ∧
        ∀ gid g c co n pre r post, s.group? gid = some g → g.coils[c]? = some co → co.waits = pre ++ r :: post → r.wait = .table slice n → n ≤ coreCycles s g.core →
          (∀ q ∈ pre ++ post, ∀ m, q.wait = .table slice m → coreCycles s g.core < m) →
          (keyFull s slice = true ∧ 64 ≤ (s.slice slice).overflow.length →
            u.coil gid c = { co with waits := pre ++ { r with wait := .table slice (coreCycles s g.core + 1024) } :: post }) ∧
          (¬ (keyFull s slice = true ∧ 64 ≤ (s.slice slice).overflow.length) → u.coil gid c = co.wake r r.lanes)))

/-- R133, R142, R147, R153, R154, R157. A tile render gives its next 32 fragments to a free coil; the blend unit applies fragments in their order, a killed one without effect; a render whose fragments are applied and whose cluster is done
retires; a pass that has nothing left ends with its status and its counter. (That coil 0 of a shading group takes the trap of a parameter word is the choice of log 33; that an end of the shading launch cancels the pass, of log 31.) -/
def Obligations.RenderResults : Prop :=
  ∀ (s : State),
    (∀ n r gid c, tget s.gfx.renders n = some r → freeCoil s r.cluster = some (gid, c) → r.nextFrag < r.frags.length →
      let wave := (r.frags.drop r.nextFrag).take 32
      let rec_ := (s.launchOf gid).rec_
      let g := s.group gid
      let old := s.coil gid c
      let pc : W64 := rec_.code.setWidth 64 + rec_.entry.setWidth 64
      let thread := fun (i : Nat) => match wave[i]? with
        | some f => ({ pc, lastIssue := s.cor.order, wdogFrom := coreCycles s g.core, frag := some (threadFrag r n (r.nextFrag + i) f) } : Thread)
        | none => { pc, st := .exited }
      let co : Coil := { threads := (List.range 32).map thread, s := g.params, granules := rec_.vgran, role := old.role, shading := true }
      let t := ((s.modGroup gid (fun g =>
        { g with pool := if old.granules = 0 then g.pool - rec_.vgran else g.pool, coils := lmod (fun _ => co) g.coils c })).modRender n (fun r =>
          { r with nextFrag := r.nextFrag + wave.length })).modPass r.pass (fun p => { p with shaded := p.shaded + wave.length })
      exec (.waveStart n) s = .next (if c = 0 then takeParamTrap t gid else t)) ∧
    (∀ n r f p, tget s.gfx.renders n = some r → r.frags[r.applied]? = some f → tget s.gfx.passes r.pass = some p → f.done = true →
      let step := fun (t : State) => t.modRender n (fun r => { r with applied := r.applied + 1 })
      (f.result = none → exec (.blendApply n) s = .next (step s)) ∧
      (∀ regs cover, f.result = some (regs, cover) → exec (.blendApply n) s = .next (step (applyFrag s p f regs cover)))) ∧
    (∀ n r, tget s.gfx.renders n = some r → r.frags.length ≤ r.applied →
      let gs := (s.cluster r.cluster).groups
      (∀ g ∈ gs, (∀ co ∈ (s.group g).coils, co.complete = true) ∧ (s.group g).mx.queue = [] ∧ ∀ e ∈ s.cor.copies, (e.2.owner.map (·.1)) ≠ some g) →
      let t := gs.foldl (fun t g => releaseAt t (t.group g).core 3) s
      let done := fun (t : State) => ∀ p, tget t.gfx.passes r.pass = some p →
        let u := gs.foldl (fun u g => dropGroup (forgetGroup u g) g) (freeRenderKeys t p.asid r)
        let v : State := { u with
          gfx := { u.gfx with renders := tdel u.gfx.renders n }
          disp := { u.disp with
            clusters := tupd u.disp.clusters r.cluster (fun c => { c with render := none, completed := c.groups })
            inbox := u.disp.inbox ++ [DEvent.groupExit r.cluster] } }
        let w := v.modPass r.pass (fun p => { p with renders := p.renders + 1 })
        ∀ q, tget w.gfx.passes r.pass = some q →
          exec (.tileRenderRetire n) s = .next (
            if q.flushing = true ∧ q.todo = [] ∧ (∀ e ∈ w.gfx.renders, e.2.pass ≠ r.pass) then w.modPass r.pass (fun p => { p with flushing := false, tiles := [], records := 0 }) else w)
      done t) ∧
    (∀ n p, tget s.gfx.passes n = some p → p.stage ≠ .ended →
      let settled := fun (t : State) => t.modPass n (fun p => { p with stage := .ended })
      (p.code = 1 → (s.launch p.launch).ended.isSome = true → exec (.passEnd n) s = .next (settled (reportPass s p))) ∧
      (p.code = 2 → exec (.passEnd n) s = .next ((reportPass s p).modPass n (fun p => { p with stage := .ended, todo := [], visTodo := [], batch := [], tiles := [] }))) ∧
      (p.code = 0 → p.stage = .rendering → p.todo = [] → (∀ e ∈ s.gfx.renders, e.2.pass ≠ n) → (∀ e ∈ s.disp.clusters, e.2.launch ≠ p.shadeLaunch) →
        exec (.passEnd n) s = .next (settled (reportPass (closeLaunch s p.shadeLaunch .ok) p))))

/-! ## The display -/

/-- R165, R167, R168, R169, R183, R188, R408, R409, R432. The rows: a round starts where its time has come, a row time issues a bundle, a full FIFO stops a row and room lets it go on, a `SYNC` is released when every member has arrived; a band starts with the first
bundle of its round, its drain ends, and a round still active at its last deadline is given up; a piece of a fetch lands, a fetch whose pieces have landed completes, and offsets are pushed. (That a round whose first band is no multiple of the members starts at the next one,
and what a core that joins begins with, is the choice of log 37; that a band samples SRC_ASID at its start, of log 38; the order and the times of a fetch's pieces, of log 70.) -/
def Obligations.RowResults : Prop :=
  ∀ (s : State),
    (∀ head,
      let d := s.head head
      displayRuns s = true → d.on = true → d.row.active = false → d.row.stopped = false → (d.row.first = 0 → d.mode = none ∨ d.trains = false) → d.dueAt d.row.frame d.row.first ≤ s.time * 256 →
      let t := (adoptMap s head).modHead head (fun d =>
        if d.row.first ≠ 0 then d
        else
          { d with
            cfgs := (d.cfgs.filter (fun e => decide (d.frame ≤ e.1 + 8))).filter (fun e => decide (e.1 ≠ d.row.frame)) ++ [(d.row.frame, d.cfg)]
            row := { d.row with kernel := d.kernel.getD d.row.kernel }
            kernel := none })
      let e := t.head head
      let n := roundSize e
      let first := (e.row.first + n - 1) / n * n
      (first ≠ e.row.first → exec (.roundStart head) s = .next (t.modHead head (fun d => d.nextRound first))) ∧
      (first = e.row.first → (e.synth = false ∨ e.row.members = []) → exec (.roundStart head) s = .next (endRound t head)) ∧
      (first = e.row.first → e.synth = true → e.row.members ≠ [] → ∃ u, exec (.roundStart head) s = .next u ∧
        u.head head = { e with
          roundLate := e.roundLate || decide (e.dueAt e.row.frame first < (e.row.endAt : Int) * 256)
          row := { e.row with active := true, first, bundle := 0, syncWait := false, syncNo := 0, startAt := s.time }
          bands := (u.head head).bands } ∧
        (∀ i, i < n → first + i < e.nbands e.row.frame → ((u.head head).bandOf e.row.frame (first + i)).map (·.core) = some e.row.members[i]?) ∧
        u = t.modHead head (fun _ => u.head head))) ∧
    (∀ head,
      let d := s.head head
      let t := s.modHead head (fun d => { d with row := { d.row with time := d.row.time + 1 } })
      d.row.stopped = false → rowFull s head = false →
      exec (.rowBundleIssue head) s = .next (if d.row.active = true ∧ d.row.syncWait = false then issueBundle t head else t)) ∧
    (∀ head, (s.head head).row.stopped = false → (∃ k ∈ (s.head head).row.members, 2048 ≤ fifoCount s head k) →
      exec (.rowStop head) s = .next (s.modHead head (fun d => { d with overrun := true, row := { d.row with stopped := true } }))) ∧
    (∀ head, (s.head head).row.stopped = true → (∀ k ∈ (s.head head).row.members, fifoCount s head k < 2048) →
      exec (.rowResume head) s = .next (s.modHead head (fun d => { d with row := { d.row with stopped := false } }))) ∧
    (∀ head,
      let d := s.head head
      d.row.syncWait = true → (∀ r k, d.row.members[r]? = some k → syncArrived s head r k = true) →
      exec (.syncRelease head) s = .next ((d.row.members.foldl (fun t k => t.modGl k (fun g => { g with inSync := false })) s).modHead head (fun e =>
        { e with row := { e.row with syncWait := false, syncNo := e.row.syncNo + 1 } }))) ∧
    (∀ core h e rest rank,
      let t := s.modGl core dropStale
      let g := t.gl core
      let d := t.head h
      g.row = some h → g.fifo = e :: rest → e.cores.findIdx? (· = core) = some rank → g.phase = .idle → e.due ≤ d.row.time →
      let b := e.round + rank
      let r := sampleSource t h
      let c : BandCtx :=
        { rank, head := h, band := b, line0 := d.line0 e.frame b, nlines := d.nlines e.frame b, gen := r.1.gen, srcbase := r.1.srcbase,
          shift := r.1.shift, members := e.cores.length, cores := e.cores, frame := e.frame, asid := d.src.asid }
      exec (.bandStart core) s = .next ((r.2.modGl core (fun g =>
        let g : Glaze := if g.clearNext = true then { row := some h, fifo := g.fifo, vc := g.vc } else g
        { g with
          ctx := c, phase := .running, syncs := 0, inSync := false, nextLine := c.line0, seqNext := 0, round := e.round, roundFrame := e.frame
          begun := true, served := 0, sixDone := false })).modHead h (fun d =>
          (d.touch e.frame b).modBand e.frame b (fun x =>
            if x.deadline then { x with started := true, core := some core }
            else { x with started := true, core := some core, gen := c.gen, srcbase := c.srcbase, shift := c.shift, src := d.src })))) ∧
    (∀ core, (s.gl core).phase = .draining → (s.gl core).flight = [] → exec (.bandDrainEnd core) s = .next (s.modGl core (fun g => { g with phase := .idle }))) ∧
    (∀ head,
      let d := s.head head
      let last := min (d.row.first + d.row.members.length) (d.nbands d.row.frame) - 1
      d.row.active = true → (d.row.startAt : Int) * 256 ≤ d.deadlineAt d.row.frame last → d.deadlineAt d.row.frame last < (s.time + 55) * 256 →
      exec (.roundTimeout head) s = .next (abandonRound s head)) ∧
    (∀ core m1 f, (s.gl core).fetches.find? (fun f => f.m1 = m1) = some f →
      (f.left = [] → exec (.fetchComplete core m1) s =
        .next (s.modGl core (fun g => { g with fetches := g.fetches.erase f, f := flagUp g.f (if m1 then 15 else 14) 1 }))) ∧
      (f.left ≠ [] → exec (.fetchComplete core m1) s = .next s)) ∧
    (∀ core f i, f.left[Config.fetchPiece s.free % f.left.length]? = some i →
      let g := s.gl core
      let n := min 32 (f.len - 32 * i)
      let to_ := f.dst + 32 * i
      let bytes := sourceBytes s f.asid.toNat f.shift (f.src + 32 * i) n
      let land := fun (t : State) (bs : List Byte) =>
        { (useBanks t core to_ n).modGl core (fun g => { g with
            fetches := g.fetches.replace f { f with left := f.left.erase i, due := t.time + 55 * (1 + Config.fetchDelay t.free) }
            sp := cellsWrite g.sp to_ bs, spBad := spSound g.spBad to_ (bs.map some) }) with free := t.free + 1 }
      let gone := s.modGl core (fun g => { g with fetches := g.fetches.erase f })
      (s.time < f.due ∨ bankLocked g to_ n = true ∨ bankUsed s g to_ n = true → landPiece s core f = s) ∧
      (f.due ≤ s.time → bankLocked g to_ n = false → bankUsed s g to_ n = false →
        (f.zeros = true → landPiece s core f = land s (List.replicate n 0)) ∧
        (f.zeros = false → ∀ bs, bytes = .ok bs → landPiece s core f = land (chargeSource s f.asid.toNat f.shift (f.src + 32 * i) n) bs) ∧
        (f.zeros = false → ∀ e, bytes = .error e → landPiece s core f = if g.roundFrame = f.frame ∧ g.round = f.round then abortBand gone core e else gone))) ∧
    (∀ core, bankUsed s (s.gl core) (metaAt (s.gl core).sparse) 1 = false →
      let g := s.gl core
      let t := pushOffsets core g.sparse.rate s
      exec (.gqPush core) s = .next (if (t.gl core).gq = g.gq then t
        else useBanks t core (metaAt g.sparse) (min (metaAt (t.gl core).sparse + 1) (2 ^ 20) - metaAt g.sparse)))

/-- R175, R177, R178, R179, R180, R192, R193. Requests of the host and commands of KC3, each with its result; the snapshot and the latch of a pose, the deadline of a band, the lines that scan out, and the end of a frame, at which a new timing or OFF acts, and a timing whose link does not train changes nothing. (The moment of the homography, the
HEADEV of each texel that fails and the sample of SRC_ASID are the choice of log 38; where a new timing begins, and when its link trains, of log 39.) -/
def Obligations.HeadResults : Prop :=
  ∀ (s : State) (head : Nat),
    let d := s.head head
    (∀ e ∈ [((.hreqModeSet head : Instr), 1), (.hreqKernelLoad head, 2), (.hreqHeadOff head, 3)],
      (d.hreqState = 1 → exec e.1 s = .next (s.modHead head (fun d => { d with hreqBusy := true }))) ∧
      (d.hreqState ≠ 1 → exec e.1 s = .next (postHeadev (s.modHead head (fun d => { d with hreqState := 1, hreqOp := e.2 })) 0x10 head [e.2]))) ∧
    (∀ val : W64, val.toNat / 2 ^ 3 % 4 = head →
      ∀ e ∈ [((.headCmdSetTiming val : Instr), 1), (.headCmdLoadKernel val, 2), (.headCmdOff val, 3), (.headCmdRefuse val, 4)], val.toNat % 8 = e.2 →
        (val.getLsbD 5 = true → d.hreqState ≠ 1 → exec e.1 s = .next (setBadIo s 3)) ∧
        (val.getLsbD 5 = false ∨ d.hreqState = 1 →
          let c : HeadCmd := { cmd := e.2, hostReq := val.getLsbD 5, recd := val.toNat / 2 ^ 6 % 2 ^ 46 * 64, code := val.toNat / 2 ^ 52 % 16 }
          let t := s.modHead head (fun d => { d with cmds := d.cmds ++ [c] })
          exec e.1 s = .next (if d.cmds = [] then beginCmd t head else t))) ∧
    (∀ c rest r, d.cmds = c :: rest → d.result = some r →
      let t := postHeadev s 0x11 head (if r = 5 then [c.cmd, r, d.badEntry.toNat % 256, d.badEntry.toNat / 256] else [c.cmd, r])
      exec (.headCmdComplete head) s = .next (beginCmd (t.modHead head (fun e =>
        if c.hostReq then
          { e with cmds := rest, result := none, hreqState := if r = 0 then 2 else 3, hreqCode := BitVec.ofNat 4 r, hreqEntry := if r = 5 then d.badEntry else 0 }
        else { e with cmds := rest, result := none })) head)) ∧
    (∀ seq : W64, exec (.poseSnapshot head seq) s = .next (if head < 4 then snapshotPose s head (leBytes 8 seq.toNat) else s)) ∧
    (∀ band f, d.on = true → (framesAhead d).find? (fun f => d.awaits f band && ((d.bandOf f band).bind (·.pose)).isNone) = some f → d.latchAt f band < (s.time + 55) * 256 →
      exec (.poseLatch head band) s = .next
        (formHomography (s.modHead head (fun d => (d.touch f band).modBand f band (fun x => { x with pose := some (poseAtStart s d) }))) head f band)) ∧
    (∀ band f, d.on = true → (framesAhead d).find? (fun f => d.awaits f band && !(((d.bandOf f band).map (·.deadline)).getD false)) = some f → d.deadlineAt f band < (s.time + 55) * 256 →
      let t := s.modHead head (fun d => d.touch f band)
      let started := ((d.bandOf f band).map (·.started)).getD false
      let r := sampleSource t head
      let u := if started = true then t
        else r.2.modHead head (fun d => d.modBand f band (fun x => { x with gen := r.1.gen, srcbase := r.1.srcbase, shift := r.1.shift, src := d.src }))
      exec (.bandDeadline head band) s = .next (formHomography (u.modHead head (fun d => d.modBand f band (fun x => { x with deadline := true }))) head f band)) ∧
    (∀ x, displayRuns s = true → d.on = true → d.scanning = false → d.line < d.timing.vactive.toNat → d.lineAt d.frame d.line ≤ s.time * 256 →
      d.bandOf d.frame (d.line / (d.cfgFor d.frame).bandLines) = some x → x.deadline = true →
      let n := d.timing.hactive.toNat
      let shows := fun (t : State) (px : List W64) =>
        (if d.timing.iface = 3 then memoryLine t d px else t).modHead head (fun e => { e with
          fifo := e.fifo.filter (fun q => !(decide (q.1 = d.frame) && decide (q.2.2.1 = d.line))), scanning := true, blank := false
          shown := if d.timing.iface = 3 then d.shown else some (d.frame, d.line, px.map (linkPixel d.timing.outBits.toNat)) })
      (∀ e, d.fifo.find? (fun e => e.1 = d.frame && e.2.2.1 = d.line) = some e → exec (.lineScanout head) s = .next (shows s e.2.2.2)) ∧
      (d.fifo.find? (fun e => e.1 = d.frame && e.2.2.1 = d.line) = none →
        let r := bisqueLine s x d.line n
        let t := s.modHead head (fun d => { d with bisque := d.bisque + 1 })
        exec (.lineScanout head) s = .next (shows (reportReads (chargeLine t x d.line n) head r.2) r.1))) ∧
    (displayRuns s = true → d.on = true → d.scanning = true →
      let b := d.line / (d.cfgFor d.frame).bandLines
      let t := if d.timing.iface = 3 ∧ d.line + 1 = d.timing.vactive.toNat then mhWrite s (mhSlot d) [BitVec.ofNat 64 (d.frame + 1)] else s
      (s.time * 256 < d.lineAt d.frame (d.line + 1) → exec (.lineScanout head) s = .next s) ∧
      (d.lineAt d.frame (d.line + 1) ≤ s.time * 256 → exec (.lineScanout head) s = .next (t.modHead head (fun e =>
        { (e.modBand d.frame b (fun x => { x with scanned := x.scanned + 1 })) with line := d.line + 1, scanning := false }.prune s.gl)))) ∧
    (∀ t, d.trains = false → applyMode s head t = setResult (s.modHead head (fun d => { d with mode := none })) head 4) ∧
    (d.on = false →
      (∀ t, d.mode = some t → exec (.headFrameEnd head) s = .next (applyMode s head t)) ∧
      (d.mode = none → d.offPending = true → exec (.headFrameEnd head) s = .next (setResult (s.modHead head (fun d => { d with offPending := false })) head 0))) ∧
    (d.on = true → d.timing.vactive.toNat ≤ d.line → d.lineAt (d.frame + 1) 0 ≤ s.time * 256 →
      let u := s.modHead head (fun d => { d with frameStart := (d.lineAt (d.frame + 1) 0).toNat, frame := d.frame + 1, line := 0 })
      (∀ t, d.mode = some t → exec (.headFrameEnd head) s = .next (applyMode u head t)) ∧
      (d.mode = none → d.offPending = true → exec (.headFrameEnd head) s = .next
        (setResult ((clearFrames u head).modHead head (fun d => { d with offPending := false, timing := { d.timing with iface := 0 } })) head 0)) ∧
      (d.mode = none → d.offPending = false → exec (.headFrameEnd head) s = .next u))

/-! ## The machine as a whole -/

/-- R305, R325, R333, R346, R366, R373, R390, R398, R400, R403, R407, R413, R423. Words that the spec writes out, or that follow bit by bit from its layouts, decode to the instructions that they stand for, and the words that it calls illegal do not decode. -/
def Obligations.DecodeWords : Prop :=
  decode (.xamal 0x11180C0102001100 none) = some (.iadd { msk := 3, mn := false, dst := .v 3, a := .v 1 false, b := .s 2 true, c := .v 0 false, fn := 0, ext := .none }) ∧
  decode (.xamal 0x11180C0102001180 none) = none ∧
  decode (.xamal 0xC078140600000002 (some 0x0B000040)) =
    some (.ld { msk := 15, mn := false, dst := .v 5, a := .v 6 false, b := .v 0 false, c := .v 0 false, fn := 2, ext := .m 0x40 3 1 false 0 0 0 0 0 }) ∧
  decode (.xamal 0x8178000407001010 (some 0xFFFFFFC0)) =
    some (.brc { msk := 15, mn := false, dst := .v 0, a := .v 4 false, b := .s 7 false, c := .v 0 false, fn := 0x10, ext := .b 0xFFFFFFC0 }) ∧
  decode (.xamal 0x0878060000000000 none) = some (.mwait { msk := 15, mn := false, dst := .m 1, a := .v 0 false, b := .v 0 false, c := .v 0 false, fn := 0, ext := .none }) ∧
  decode (.xamal 0x0878040000000000 none) = none ∧
  decode (.xamal 0xB078100500060006 (some 0x6A)) =
    some (.cvt { msk := 15, mn := false, dst := .v 4, a := .v 5 false, b := .v 0 false, c := .v 6 false, fn := 6, ext := .c 10 3 0 }) ∧
  decode (.xamal 0x21F80C0102030000 none) = some (.ffma { msk := 15, mn := false, dst := .v 3, a := .v 1 false, b := .v 2 false, c := .v 3 false, fn := 0, ext := .none }) ∧
  decode (.xamal 0x21F80C0102030010 none) = none ∧
  decode (.xamal 0xD0781C0401004000 (some 0x03000000)) =
    some (.atom { msk := 15, mn := false, dst := .v 7, a := .s 4 false, b := .v 1 false, c := .v 0 false, fn := 0, ext := .m 0 3 0 false 0 0 0 0 0 }) ∧
  decode (.xamal 0x5A780C0501028000 none) = some (.osenter { msk := 15, mn := false, dst := .v 3, a := .imm 5, b := .v 1 false, c := .v 2 false, fn := 0, ext := .none }) ∧
  decode (.xamal 0xE878000000000000 (some 0x2011182D)) =
    some (.mma { msk := 15, mn := false, dst := .v 0, a := .v 0 false, b := .v 0 false, c := .v 0 false, fn := 0, ext := .x 1 3 2 6 1 2 128 0 }) ∧
  decode (.xamal 0xFFFFFFFFFFFFFFFF (some 0)) = none ∧
  decode (.scalar 0x84210004) = some (.swAddImm 1 1 4) ∧
  decode (.vec 0x31A030420C00) = some (.vfma { ty := 6, pred := 8, d := 3, a := 1, b := 2, c := 3, fn := 0 }) ∧
  decode (.vec 0x0C0440420008) = some (.vmul { ty := 0, pred := 1, d := 4, a := 1, b := 2, c := 0, fn := 8 }) ∧
  decode (.mem 0x0C0A200200) = some (.spld { pred := 8, d := 5, a := 2, imm := 512 }) ∧
  decode (.sf 0x0B404080) = some (.vrcp { ty := 6, pred := 8, d := 2, a := 1, fn := 0 }) ∧
  decode (.sf 0x0B404081) = none ∧
  decode (.seq 0x11D00012) = none ∧
  decode (.seq 0x11A00012) = some (.sqbr 3 2 0x12) ∧
  decode (.sync 0x65) = some (.fwait 2 5) ∧
  decode (.kc 0x22800123) = some (.kcBrz 5 0x123) ∧
  decode (.kc 0xA0000000) = none ∧
  decodeBundle (BitVec.ofNat 384 (0x84210004 * 2 ^ 32 + 0x31A030420C00 * 2 ^ 96 + 0x0C0A200200 * 2 ^ 272 + 0x000321 * 2 ^ 360)) =
    some { s0 := .swAddImm 1 1 4, v0 := .vfma { ty := 6, pred := 8, d := 3, a := 1, b := 2, c := 3, fn := 0 }, m0 := .spld { pred := 8, d := 5, a := 2, imm := 512 }, ports := 0x321 }

/-- R296, R297, R299, R300, R397, R398, R399, R400, R401, R402, R403, R405, R413. Decoding and encoding agree: every instruction that has an encoding and obeys its rules is what its words decode to, with every operand as it was; and the words of whatever decodes are the words
that the encoder writes, so that no bit is dropped and no word stands for two instructions. The bits of a Swevar or kiln bundle are the words of its slots in their places and its port allotment. -/
def Obligations.RoundTrip : Prop :=
  (∀ i e, encodingOk i = true → encode i = some e → decode e = some i) ∧
  (∀ i e, decode e = some i → encode i = some e ∧ encodingOk i = true) ∧
  (∀ w b, decodeBundle w = some b → encodeBundle b = w ∧ bundleOk b = true) ∧
  (∀ w b, decodeKiln w = some b → encodeKiln b = w)

/-- R194, R195, R196, R300, R406, R413, R414. A step runs the decoded instruction: at the turn of a coil, of a glaze core or of a kiln core the bytes at its pc are decoded and exec runs what they stand for; at the turn of an event exec runs that row; with nothing planned the step plans the turns
that are due, and an elapse is time alone. (That the part's agents take turns, and in which order, is the model's choice: log 2.) -/
def Obligations.StepRunsDecoded : Prop :=
  ∀ (s : State) (rest : List Turn),
    let t := { s with agenda := rest }
    (∀ i, s.agenda = .ev i :: rest → step s = exec i t) ∧
    (∀ d i, s.agenda = .due d :: rest → DueRow t d i → (∀ qid, d = .packet qid → (t.queue qid).buf ≠ []) → step s = exec i t) ∧
    (∀ n, s.agenda = .elapse n :: rest → step s = .next { t with time := t.time + n }) ∧
    (s.agenda = [] → step s = .next { s with agenda := planTurns s }) ∧
    (∀ gid c path change w0 w1 i, s.agenda = .coil gid c :: rest → mayIssue t gid c = true →
      let u := goesTo t (exec (.fairnessTimerExpiry gid c) t)
      let now := coreCycles u (u.group gid).core
      nextPath now (u.launchOf gid).rec_.fair (u.coil gid c) = some (path, change) →
      let v := if change = true ∧ (u.coil gid c).turnOver = false then u.modCoil gid c (fun co => { co with turnOver := true }) else u
      let lanes := eligible now (u.coil gid c) path
      let pc := ((u.coil gid c).thread (lowestLane path)).pc
      let x := { v with cur := .coil gid c lanes pc }
      pc.toNat % 8 = 0 → fetchWord x gid pc = .ok w0 → (w0 / 2 ^ 63 % 2 = 1 → fetchWord x gid (pc + 8) = .ok w1) → (w0 / 2 ^ 63 % 2 = 0 → w1 = 0) →
      decodeXamal w0 w1 = .ok i →
      ∃ y, exec i x = .next y ∧
        step s = .next (if tookSlot t y gid c then selectSlot { y with cur := .none } gid c else { y with cur := .none })) ∧
    (∀ k, s.agenda = .matrix k :: rest → step s = .next (matrixTurn t k)) ∧
    (∀ gid, s.agenda = .param gid :: rest → step s = .next (loadParams t gid)) ∧
    (∀ k, s.agenda = .fetch k :: rest → step s = .next ((t.gl k).fetches.foldl (fun u f => landPiece u k f) t)) ∧
    (∀ k, s.agenda = .inbound k :: rest → step s = .next (landInbound t k)) ∧
    (∀ k, s.agenda = .glaze k :: rest → remoteHead t k = true → step s = .next (keepBanks t k)) ∧
    (∀ k, s.agenda = .glazeLate k :: rest → remoteHead t k = false ∨ (t.gl k).vcTime = some t.time → step s = .next t) ∧
    (∀ k e w b tail turn, s.agenda = turn :: rest → (turn = .glaze k ∧ remoteHead t k = false ∨ turn = .glazeLate k ∧ remoteHead t k = true ∧ (t.gl k).vcTime ≠ some t.time) →
      let g := t.gl k
      g.phase = .running → g.fifo = e :: tail → g.inSync = false → e.due ≤ (t.head g.ctx.head).row.time → e.frame = g.roundFrame → e.round = g.round → e.bad = false →
      e.bundle = some w → decodeBundle w = some b → sixAhead g b = none → bundleWaits t g b = false → bundleBad g b = false →
      (g.served + 1 < bundleDcs t g b →
        step s = .next ((takeBanks t k b).modGl k (fun g => { g with served := g.served + 1 }))) ∧
      (bundleDcs t g b ≤ g.served + 1 →
        step s = .next (endVc ((countLock (inTurn (.glaze k) (actingSlots g b) (takeBanks (t.modGl k (fun g => { g with fifo := tail })) k b)) k b).modGl k
          (fun g => { g with served := 0, sixDone := false })) k))) ∧
    (∀ k b, s.agenda = .kiln k :: rest →
      let c := t.kiln k
      c.stopped = false → c.busy ≤ t.time → c.waitcyc = none → decodeKiln ((c.code[c.pc.toNat]?).getD 0) = some b →
      step s = .next (endKiln k (inTurn (.kiln k) (kilnSlots b) t)))

/-- R7, R11, R239. No step stops the machine, and memory keeps its one form: a step from a state whose memory lists addresses strictly rising, none with the value that an unlisted address reads as, gives a next state whose memory does. -/
def Obligations.StepInvariant : Prop :=
  ∀ (s : State), Memory.wf s.mem = true → ∃ t, step s = .next t ∧ Memory.wf t.mem = true

/-- R24, R29, R30, R31, R175. After module reset the part boots: memory lists nothing and is in its form, no queue is mapped, nothing is resident or in flight, every kiln core is held until its image is loaded, and the agenda is empty. (The registers whose value the spec does not state, and that flash holds no
image, are the model's choice: log 4, log 5, log 7.) -/
def Obligations.ResetState : Prop :=
  let s := State.reset
  s.mem = [] ∧ Memory.wf s.mem = true ∧ s.poison = [] ∧ s.mod.cond = .booting ∧ s.mod.modState = 0 ∧ s.agenda = [] ∧ s.cur = .none ∧
  s.cmd.queues = [] ∧ s.cor.groups = [] ∧ s.cor.copies = [] ∧ s.disp.launches = [] ∧ s.disp.inbox = [] ∧ s.xlat.merge = [] ∧ s.xlat.busy = false ∧
  (∀ k, (s.kiln k).stopped = true ∧ (s.kiln k).pc = 0) ∧ s.fw.booted = false ∧
  (∀ h, (s.head h).timing.iface = 0 ∧ (s.head h).synth = false ∧
    poseFloats (s.head h).poseBuf = [0x3F800000, 0, 0, 0, 0x3F800000, 0, 0, 0, 0x3F800000, 0, 0, 0] ∧ (s.head h).poseBuf.drop 36 = List.replicate 28 0 ∧
    (s.head h).mailbox = (s.head h).poseBuf)
end

