-- ==== Sys2Proof/Laws/Tab.lean ====
section
/-! SUPPORT. What a sparse table reads after an update: the key written, every other key, a key deleted. -/
namespace Sys2Proof.Laws

theorem tget_tput {α : Type} (t : Tab α) (k j : Nat) (x : α) : tget (tput t k x) j = if j = k then some x else tget t j := by
  induction t with
  | nil => by_cases h : j = k <;> simp [tput, tget, h]; intro e; exact absurd e.symm h
  | cons e t ih =>
    obtain ⟨i, y⟩ := e
    simp only [tput]
    split
    · by_cases h : j = k
      · subst h; simp [tget]
      · simp [tget, h]; intro e; exact absurd e.symm h
    · split
      · rename_i _ hk; subst hk
        by_cases h : j = k
        · subst h; simp [tget]
        · simp only [tget, h, if_false]; rw [if_neg (fun e => h e.symm), if_neg (fun e => h e.symm)]
      · simp only [tget]
        split
        · rename_i _ hk hij; subst hij; rw [if_neg]; exact fun e => hk e.symm
        · exact ih

@[simp] theorem tget_tput_same {α : Type} (t : Tab α) (k : Nat) (x : α) : tget (tput t k x) k = some x := by
  rw [tget_tput, if_pos rfl]

theorem tget_tput_other {α : Type} (t : Tab α) {k j : Nat} (x : α) (h : j ≠ k) : tget (tput t k x) j = tget t j := by
  rw [tget_tput, if_neg h]

theorem tgetD_tput {α : Type} (t : Tab α) (k j : Nat) (x d : α) : tgetD (tput t k x) j d = if j = k then x else tgetD t j d := by
  unfold tgetD; rw [tget_tput]; split <;> rfl

@[simp] theorem tgetD_tput_same {α : Type} (t : Tab α) (k : Nat) (x d : α) : tgetD (tput t k x) k d = x := by
  rw [tgetD_tput, if_pos rfl]

theorem tgetD_tput_other {α : Type} (t : Tab α) {k j : Nat} (x d : α) (h : j ≠ k) : tgetD (tput t k x) j d = tgetD t j d := by
  rw [tgetD_tput, if_neg h]

theorem tget_tdel {α : Type} (t : Tab α) (k j : Nat) : tget (tdel t k) j = if j = k then none else tget t j := by
  induction t with
  | nil => simp [tdel, tget]
  | cons e t ih =>
    obtain ⟨i, y⟩ := e
    by_cases h : i = k
    · have : tdel ((i, y) :: t) k = tdel t k := by simp [tdel, h]
      rw [this, ih]; by_cases hj : j = k
      · simp [hj]
      · simp only [hj, if_false, tget]; rw [if_neg]; intro e; exact hj (e.symm.trans h)
    · have : tdel ((i, y) :: t) k = (i, y) :: tdel t k := by simp [tdel, h]
      rw [this]; simp only [tget]; split
      · rename_i hij; subst hij; rw [if_neg h]
      · exact ih

theorem tget_tmod {α : Type} (t : Tab α) (k j : Nat) (d : α) (f : α → α) :
    tget (tmod t k d f) j = if j = k then some (f (tgetD t k d)) else tget t j := tget_tput ..

theorem tgetD_tmod {α : Type} (t : Tab α) (k j : Nat) (d : α) (f : α → α) :
    tgetD (tmod t k d f) j d = if j = k then f (tgetD t k d) else tgetD t j d := tgetD_tput ..

@[simp] theorem tgetD_tmod_same {α : Type} (t : Tab α) (k : Nat) (d : α) (f : α → α) :
    tgetD (tmod t k d f) k d = f (tgetD t k d) := tgetD_tput_same ..

end Sys2Proof.Laws
end

