-- ==== Sys2Proof/Laws/State.lean ====
section
/-! SUPPORT. The updates of a part of the state: every other part stays, and the part that changes reads as it was written. -/
namespace Sys2Proof.Laws
open Sys2Proof.Machine

@[simp] theorem modHead_time (s : State) (h : Nat) (f : Head → Head) : (s.modHead h f).time = s.time := rfl
@[simp] theorem modHead_agenda (s : State) (h : Nat) (f : Head → Head) : (s.modHead h f).agenda = s.agenda := rfl
@[simp] theorem modHead_cur (s : State) (h : Nat) (f : Head → Head) : (s.modHead h f).cur = s.cur := rfl
@[simp] theorem modHead_free (s : State) (h : Nat) (f : Head → Head) : (s.modHead h f).free = s.free := rfl
@[simp] theorem modHead_mem (s : State) (h : Nat) (f : Head → Head) : (s.modHead h f).mem = s.mem := rfl
@[simp] theorem modHead_poison (s : State) (h : Nat) (f : Head → Head) : (s.modHead h f).poison = s.poison := rfl
@[simp] theorem modHead_l2bad (s : State) (h : Nat) (f : Head → Head) : (s.modHead h f).l2bad = s.l2bad := rfl
@[simp] theorem modHead_mod (s : State) (h : Nat) (f : Head → Head) : (s.modHead h f).mod = s.mod := rfl
@[simp] theorem modHead_cmd (s : State) (h : Nat) (f : Head → Head) : (s.modHead h f).cmd = s.cmd := rfl
@[simp] theorem modHead_fw (s : State) (h : Nat) (f : Head → Head) : (s.modHead h f).fw = s.fw := rfl
@[simp] theorem modHead_disp (s : State) (h : Nat) (f : Head → Head) : (s.modHead h f).disp = s.disp := rfl
@[simp] theorem modHead_gfx (s : State) (h : Nat) (f : Head → Head) : (s.modHead h f).gfx = s.gfx := rfl
@[simp] theorem modHead_cor (s : State) (h : Nat) (f : Head → Head) : (s.modHead h f).cor = s.cor := rfl
@[simp] theorem modHead_xlat (s : State) (h : Nat) (f : Head → Head) : (s.modHead h f).xlat = s.xlat := rfl
@[simp] theorem modHead_slices (s : State) (h : Nat) (f : Head → Head) : (s.modHead h f).slices = s.slices := rfl
@[simp] theorem modHead_kwrites (s : State) (h : Nat) (f : Head → Head) : (s.modHead h f).kwrites = s.kwrites := rfl
@[simp] theorem modHead_knext (s : State) (h : Nat) (f : Head → Head) : (s.modHead h f).knext = s.knext := rfl

@[simp] theorem modCore_time (s : State) (k : Nat) (f : Core → Core) : (s.modCore k f).time = s.time := rfl
@[simp] theorem modCore_agenda (s : State) (k : Nat) (f : Core → Core) : (s.modCore k f).agenda = s.agenda := rfl
@[simp] theorem modCore_cur (s : State) (k : Nat) (f : Core → Core) : (s.modCore k f).cur = s.cur := rfl
@[simp] theorem modCore_free (s : State) (k : Nat) (f : Core → Core) : (s.modCore k f).free = s.free := rfl
@[simp] theorem modCore_mem (s : State) (k : Nat) (f : Core → Core) : (s.modCore k f).mem = s.mem := rfl
@[simp] theorem modCore_poison (s : State) (k : Nat) (f : Core → Core) : (s.modCore k f).poison = s.poison := rfl
@[simp] theorem modCore_l2bad (s : State) (k : Nat) (f : Core → Core) : (s.modCore k f).l2bad = s.l2bad := rfl
@[simp] theorem modCore_mod (s : State) (k : Nat) (f : Core → Core) : (s.modCore k f).mod = s.mod := rfl
@[simp] theorem modCore_cmd (s : State) (k : Nat) (f : Core → Core) : (s.modCore k f).cmd = s.cmd := rfl
@[simp] theorem modCore_fw (s : State) (k : Nat) (f : Core → Core) : (s.modCore k f).fw = s.fw := rfl
@[simp] theorem modCore_disp (s : State) (k : Nat) (f : Core → Core) : (s.modCore k f).disp = s.disp := rfl
@[simp] theorem modCore_gfx (s : State) (k : Nat) (f : Core → Core) : (s.modCore k f).gfx = s.gfx := rfl
@[simp] theorem modCore_dpy (s : State) (k : Nat) (f : Core → Core) : (s.modCore k f).dpy = s.dpy := rfl
@[simp] theorem modCore_xlat (s : State) (k : Nat) (f : Core → Core) : (s.modCore k f).xlat = s.xlat := rfl
@[simp] theorem modCore_slices (s : State) (k : Nat) (f : Core → Core) : (s.modCore k f).slices = s.slices := rfl
@[simp] theorem modCore_kwrites (s : State) (k : Nat) (f : Core → Core) : (s.modCore k f).kwrites = s.kwrites := rfl
@[simp] theorem modCore_knext (s : State) (k : Nat) (f : Core → Core) : (s.modCore k f).knext = s.knext := rfl

@[simp] theorem modRegion_time (s : State) (r : Nat) (f : Region → Region) : (s.modRegion r f).time = s.time := rfl
@[simp] theorem modRegion_agenda (s : State) (r : Nat) (f : Region → Region) : (s.modRegion r f).agenda = s.agenda := rfl
@[simp] theorem modRegion_cur (s : State) (r : Nat) (f : Region → Region) : (s.modRegion r f).cur = s.cur := rfl
@[simp] theorem modRegion_free (s : State) (r : Nat) (f : Region → Region) : (s.modRegion r f).free = s.free := rfl
@[simp] theorem modRegion_mem (s : State) (r : Nat) (f : Region → Region) : (s.modRegion r f).mem = s.mem := rfl
@[simp] theorem modRegion_poison (s : State) (r : Nat) (f : Region → Region) : (s.modRegion r f).poison = s.poison := rfl
@[simp] theorem modRegion_l2bad (s : State) (r : Nat) (f : Region → Region) : (s.modRegion r f).l2bad = s.l2bad := rfl
@[simp] theorem modRegion_mod (s : State) (r : Nat) (f : Region → Region) : (s.modRegion r f).mod = s.mod := rfl
@[simp] theorem modRegion_cmd (s : State) (r : Nat) (f : Region → Region) : (s.modRegion r f).cmd = s.cmd := rfl
@[simp] theorem modRegion_fw (s : State) (r : Nat) (f : Region → Region) : (s.modRegion r f).fw = s.fw := rfl
@[simp] theorem modRegion_disp (s : State) (r : Nat) (f : Region → Region) : (s.modRegion r f).disp = s.disp := rfl
@[simp] theorem modRegion_gfx (s : State) (r : Nat) (f : Region → Region) : (s.modRegion r f).gfx = s.gfx := rfl
@[simp] theorem modRegion_dpy (s : State) (r : Nat) (f : Region → Region) : (s.modRegion r f).dpy = s.dpy := rfl
@[simp] theorem modRegion_xlat (s : State) (r : Nat) (f : Region → Region) : (s.modRegion r f).xlat = s.xlat := rfl
@[simp] theorem modRegion_slices (s : State) (r : Nat) (f : Region → Region) : (s.modRegion r f).slices = s.slices := rfl
@[simp] theorem modRegion_kwrites (s : State) (r : Nat) (f : Region → Region) : (s.modRegion r f).kwrites = s.kwrites := rfl
@[simp] theorem modRegion_knext (s : State) (r : Nat) (f : Region → Region) : (s.modRegion r f).knext = s.knext := rfl

@[simp] theorem modGroup_time (s : State) (g : Nat) (f : Group → Group) : (s.modGroup g f).time = s.time := rfl
@[simp] theorem modGroup_agenda (s : State) (g : Nat) (f : Group → Group) : (s.modGroup g f).agenda = s.agenda := rfl
@[simp] theorem modGroup_cur (s : State) (g : Nat) (f : Group → Group) : (s.modGroup g f).cur = s.cur := rfl
@[simp] theorem modGroup_free (s : State) (g : Nat) (f : Group → Group) : (s.modGroup g f).free = s.free := rfl
@[simp] theorem modGroup_mem (s : State) (g : Nat) (f : Group → Group) : (s.modGroup g f).mem = s.mem := rfl
@[simp] theorem modGroup_poison (s : State) (g : Nat) (f : Group → Group) : (s.modGroup g f).poison = s.poison := rfl
@[simp] theorem modGroup_l2bad (s : State) (g : Nat) (f : Group → Group) : (s.modGroup g f).l2bad = s.l2bad := rfl
@[simp] theorem modGroup_mod (s : State) (g : Nat) (f : Group → Group) : (s.modGroup g f).mod = s.mod := rfl
@[simp] theorem modGroup_cmd (s : State) (g : Nat) (f : Group → Group) : (s.modGroup g f).cmd = s.cmd := rfl
@[simp] theorem modGroup_fw (s : State) (g : Nat) (f : Group → Group) : (s.modGroup g f).fw = s.fw := rfl
@[simp] theorem modGroup_disp (s : State) (g : Nat) (f : Group → Group) : (s.modGroup g f).disp = s.disp := rfl
@[simp] theorem modGroup_gfx (s : State) (g : Nat) (f : Group → Group) : (s.modGroup g f).gfx = s.gfx := rfl
@[simp] theorem modGroup_dpy (s : State) (g : Nat) (f : Group → Group) : (s.modGroup g f).dpy = s.dpy := rfl
@[simp] theorem modGroup_xlat (s : State) (g : Nat) (f : Group → Group) : (s.modGroup g f).xlat = s.xlat := rfl
@[simp] theorem modGroup_slices (s : State) (g : Nat) (f : Group → Group) : (s.modGroup g f).slices = s.slices := rfl
@[simp] theorem modGroup_kwrites (s : State) (g : Nat) (f : Group → Group) : (s.modGroup g f).kwrites = s.kwrites := rfl
@[simp] theorem modGroup_knext (s : State) (g : Nat) (f : Group → Group) : (s.modGroup g f).knext = s.knext := rfl

@[simp] theorem modMx_time (s : State) (g : Nat) (f : Matrix → Matrix) : (s.modMx g f).time = s.time := rfl
@[simp] theorem modMx_agenda (s : State) (g : Nat) (f : Matrix → Matrix) : (s.modMx g f).agenda = s.agenda := rfl
@[simp] theorem modMx_cur (s : State) (g : Nat) (f : Matrix → Matrix) : (s.modMx g f).cur = s.cur := rfl
@[simp] theorem modMx_free (s : State) (g : Nat) (f : Matrix → Matrix) : (s.modMx g f).free = s.free := rfl
@[simp] theorem modMx_mem (s : State) (g : Nat) (f : Matrix → Matrix) : (s.modMx g f).mem = s.mem := rfl
@[simp] theorem modMx_poison (s : State) (g : Nat) (f : Matrix → Matrix) : (s.modMx g f).poison = s.poison := rfl
@[simp] theorem modMx_l2bad (s : State) (g : Nat) (f : Matrix → Matrix) : (s.modMx g f).l2bad = s.l2bad := rfl
@[simp] theorem modMx_mod (s : State) (g : Nat) (f : Matrix → Matrix) : (s.modMx g f).mod = s.mod := rfl
@[simp] theorem modMx_cmd (s : State) (g : Nat) (f : Matrix → Matrix) : (s.modMx g f).cmd = s.cmd := rfl
@[simp] theorem modMx_fw (s : State) (g : Nat) (f : Matrix → Matrix) : (s.modMx g f).fw = s.fw := rfl
@[simp] theorem modMx_disp (s : State) (g : Nat) (f : Matrix → Matrix) : (s.modMx g f).disp = s.disp := rfl
@[simp] theorem modMx_gfx (s : State) (g : Nat) (f : Matrix → Matrix) : (s.modMx g f).gfx = s.gfx := rfl
@[simp] theorem modMx_dpy (s : State) (g : Nat) (f : Matrix → Matrix) : (s.modMx g f).dpy = s.dpy := rfl
@[simp] theorem modMx_xlat (s : State) (g : Nat) (f : Matrix → Matrix) : (s.modMx g f).xlat = s.xlat := rfl
@[simp] theorem modMx_slices (s : State) (g : Nat) (f : Matrix → Matrix) : (s.modMx g f).slices = s.slices := rfl
@[simp] theorem modMx_kwrites (s : State) (g : Nat) (f : Matrix → Matrix) : (s.modMx g f).kwrites = s.kwrites := rfl
@[simp] theorem modMx_knext (s : State) (g : Nat) (f : Matrix → Matrix) : (s.modMx g f).knext = s.knext := rfl

@[simp] theorem modCoil_time (s : State) (g c : Nat) (f : Coil → Coil) : (s.modCoil g c f).time = s.time := rfl
@[simp] theorem modCoil_agenda (s : State) (g c : Nat) (f : Coil → Coil) : (s.modCoil g c f).agenda = s.agenda := rfl
@[simp] theorem modCoil_cur (s : State) (g c : Nat) (f : Coil → Coil) : (s.modCoil g c f).cur = s.cur := rfl
@[simp] theorem modCoil_free (s : State) (g c : Nat) (f : Coil → Coil) : (s.modCoil g c f).free = s.free := rfl
@[simp] theorem modCoil_mem (s : State) (g c : Nat) (f : Coil → Coil) : (s.modCoil g c f).mem = s.mem := rfl
@[simp] theorem modCoil_poison (s : State) (g c : Nat) (f : Coil → Coil) : (s.modCoil g c f).poison = s.poison := rfl
@[simp] theorem modCoil_l2bad (s : State) (g c : Nat) (f : Coil → Coil) : (s.modCoil g c f).l2bad = s.l2bad := rfl
@[simp] theorem modCoil_mod (s : State) (g c : Nat) (f : Coil → Coil) : (s.modCoil g c f).mod = s.mod := rfl
@[simp] theorem modCoil_cmd (s : State) (g c : Nat) (f : Coil → Coil) : (s.modCoil g c f).cmd = s.cmd := rfl
@[simp] theorem modCoil_fw (s : State) (g c : Nat) (f : Coil → Coil) : (s.modCoil g c f).fw = s.fw := rfl
@[simp] theorem modCoil_disp (s : State) (g c : Nat) (f : Coil → Coil) : (s.modCoil g c f).disp = s.disp := rfl
@[simp] theorem modCoil_gfx (s : State) (g c : Nat) (f : Coil → Coil) : (s.modCoil g c f).gfx = s.gfx := rfl
@[simp] theorem modCoil_dpy (s : State) (g c : Nat) (f : Coil → Coil) : (s.modCoil g c f).dpy = s.dpy := rfl
@[simp] theorem modCoil_xlat (s : State) (g c : Nat) (f : Coil → Coil) : (s.modCoil g c f).xlat = s.xlat := rfl
@[simp] theorem modCoil_slices (s : State) (g c : Nat) (f : Coil → Coil) : (s.modCoil g c f).slices = s.slices := rfl
@[simp] theorem modCoil_kwrites (s : State) (g c : Nat) (f : Coil → Coil) : (s.modCoil g c f).kwrites = s.kwrites := rfl
@[simp] theorem modCoil_knext (s : State) (g c : Nat) (f : Coil → Coil) : (s.modCoil g c f).knext = s.knext := rfl

@[simp] theorem modLaunch_time (s : State) (i : Nat) (f : Launch → Launch) : (s.modLaunch i f).time = s.time := rfl
@[simp] theorem modLaunch_agenda (s : State) (i : Nat) (f : Launch → Launch) : (s.modLaunch i f).agenda = s.agenda := rfl
@[simp] theorem modLaunch_cur (s : State) (i : Nat) (f : Launch → Launch) : (s.modLaunch i f).cur = s.cur := rfl
@[simp] theorem modLaunch_free (s : State) (i : Nat) (f : Launch → Launch) : (s.modLaunch i f).free = s.free := rfl
@[simp] theorem modLaunch_mem (s : State) (i : Nat) (f : Launch → Launch) : (s.modLaunch i f).mem = s.mem := rfl
@[simp] theorem modLaunch_poison (s : State) (i : Nat) (f : Launch → Launch) : (s.modLaunch i f).poison = s.poison := rfl
@[simp] theorem modLaunch_l2bad (s : State) (i : Nat) (f : Launch → Launch) : (s.modLaunch i f).l2bad = s.l2bad := rfl
@[simp] theorem modLaunch_mod (s : State) (i : Nat) (f : Launch → Launch) : (s.modLaunch i f).mod = s.mod := rfl
@[simp] theorem modLaunch_cmd (s : State) (i : Nat) (f : Launch → Launch) : (s.modLaunch i f).cmd = s.cmd := rfl
@[simp] theorem modLaunch_fw (s : State) (i : Nat) (f : Launch → Launch) : (s.modLaunch i f).fw = s.fw := rfl
@[simp] theorem modLaunch_gfx (s : State) (i : Nat) (f : Launch → Launch) : (s.modLaunch i f).gfx = s.gfx := rfl
@[simp] theorem modLaunch_dpy (s : State) (i : Nat) (f : Launch → Launch) : (s.modLaunch i f).dpy = s.dpy := rfl
@[simp] theorem modLaunch_cor (s : State) (i : Nat) (f : Launch → Launch) : (s.modLaunch i f).cor = s.cor := rfl
@[simp] theorem modLaunch_xlat (s : State) (i : Nat) (f : Launch → Launch) : (s.modLaunch i f).xlat = s.xlat := rfl
@[simp] theorem modLaunch_slices (s : State) (i : Nat) (f : Launch → Launch) : (s.modLaunch i f).slices = s.slices := rfl
@[simp] theorem modLaunch_kwrites (s : State) (i : Nat) (f : Launch → Launch) : (s.modLaunch i f).kwrites = s.kwrites := rfl
@[simp] theorem modLaunch_knext (s : State) (i : Nat) (f : Launch → Launch) : (s.modLaunch i f).knext = s.knext := rfl

@[simp] theorem setEvents_time (s : State) (q : Nat) (l : List (BitVec 128)) : (s.setEvents q l).time = s.time := rfl
@[simp] theorem setEvents_agenda (s : State) (q : Nat) (l : List (BitVec 128)) : (s.setEvents q l).agenda = s.agenda := rfl
@[simp] theorem setEvents_cur (s : State) (q : Nat) (l : List (BitVec 128)) : (s.setEvents q l).cur = s.cur := rfl
@[simp] theorem setEvents_free (s : State) (q : Nat) (l : List (BitVec 128)) : (s.setEvents q l).free = s.free := rfl
@[simp] theorem setEvents_mem (s : State) (q : Nat) (l : List (BitVec 128)) : (s.setEvents q l).mem = s.mem := rfl
@[simp] theorem setEvents_poison (s : State) (q : Nat) (l : List (BitVec 128)) : (s.setEvents q l).poison = s.poison := rfl
@[simp] theorem setEvents_l2bad (s : State) (q : Nat) (l : List (BitVec 128)) : (s.setEvents q l).l2bad = s.l2bad := rfl
@[simp] theorem setEvents_mod (s : State) (q : Nat) (l : List (BitVec 128)) : (s.setEvents q l).mod = s.mod := rfl
@[simp] theorem setEvents_cmd (s : State) (q : Nat) (l : List (BitVec 128)) : (s.setEvents q l).cmd = s.cmd := rfl
@[simp] theorem setEvents_disp (s : State) (q : Nat) (l : List (BitVec 128)) : (s.setEvents q l).disp = s.disp := rfl
@[simp] theorem setEvents_gfx (s : State) (q : Nat) (l : List (BitVec 128)) : (s.setEvents q l).gfx = s.gfx := rfl
@[simp] theorem setEvents_dpy (s : State) (q : Nat) (l : List (BitVec 128)) : (s.setEvents q l).dpy = s.dpy := rfl
@[simp] theorem setEvents_cor (s : State) (q : Nat) (l : List (BitVec 128)) : (s.setEvents q l).cor = s.cor := rfl
@[simp] theorem setEvents_xlat (s : State) (q : Nat) (l : List (BitVec 128)) : (s.setEvents q l).xlat = s.xlat := rfl
@[simp] theorem setEvents_slices (s : State) (q : Nat) (l : List (BitVec 128)) : (s.setEvents q l).slices = s.slices := rfl
@[simp] theorem setEvents_kwrites (s : State) (q : Nat) (l : List (BitVec 128)) : (s.setEvents q l).kwrites = s.kwrites := rfl
@[simp] theorem setEvents_knext (s : State) (q : Nat) (l : List (BitVec 128)) : (s.setEvents q l).knext = s.knext := rfl

@[simp] theorem setFlag_time (s : State) (k f v : Nat) : (s.setFlag k f v).time = s.time := rfl
@[simp] theorem setFlag_agenda (s : State) (k f v : Nat) : (s.setFlag k f v).agenda = s.agenda := rfl
@[simp] theorem setFlag_cur (s : State) (k f v : Nat) : (s.setFlag k f v).cur = s.cur := rfl
@[simp] theorem setFlag_free (s : State) (k f v : Nat) : (s.setFlag k f v).free = s.free := rfl
@[simp] theorem setFlag_mem (s : State) (k f v : Nat) : (s.setFlag k f v).mem = s.mem := rfl
@[simp] theorem setFlag_poison (s : State) (k f v : Nat) : (s.setFlag k f v).poison = s.poison := rfl
@[simp] theorem setFlag_l2bad (s : State) (k f v : Nat) : (s.setFlag k f v).l2bad = s.l2bad := rfl
@[simp] theorem setFlag_mod (s : State) (k f v : Nat) : (s.setFlag k f v).mod = s.mod := rfl
@[simp] theorem setFlag_cmd (s : State) (k f v : Nat) : (s.setFlag k f v).cmd = s.cmd := rfl
@[simp] theorem setFlag_fw (s : State) (k f v : Nat) : (s.setFlag k f v).fw = s.fw := rfl
@[simp] theorem setFlag_disp (s : State) (k f v : Nat) : (s.setFlag k f v).disp = s.disp := rfl
@[simp] theorem setFlag_gfx (s : State) (k f v : Nat) : (s.setFlag k f v).gfx = s.gfx := rfl
@[simp] theorem setFlag_dpy (s : State) (k f v : Nat) : (s.setFlag k f v).dpy = s.dpy := rfl
@[simp] theorem setFlag_xlat (s : State) (k f v : Nat) : (s.setFlag k f v).xlat = s.xlat := rfl
@[simp] theorem setFlag_slices (s : State) (k f v : Nat) : (s.setFlag k f v).slices = s.slices := rfl
@[simp] theorem setFlag_kwrites (s : State) (k f v : Nat) : (s.setFlag k f v).kwrites = s.kwrites := rfl
@[simp] theorem setFlag_knext (s : State) (k f v : Nat) : (s.setFlag k f v).knext = s.knext := rfl

@[simp] theorem modSlice_time (s : State) (i : Nat) (f : Slice → Slice) : (s.modSlice i f).time = s.time := rfl
@[simp] theorem modSlice_agenda (s : State) (i : Nat) (f : Slice → Slice) : (s.modSlice i f).agenda = s.agenda := rfl
@[simp] theorem modSlice_cur (s : State) (i : Nat) (f : Slice → Slice) : (s.modSlice i f).cur = s.cur := rfl
@[simp] theorem modSlice_free (s : State) (i : Nat) (f : Slice → Slice) : (s.modSlice i f).free = s.free := rfl
@[simp] theorem modSlice_mem (s : State) (i : Nat) (f : Slice → Slice) : (s.modSlice i f).mem = s.mem := rfl
@[simp] theorem modSlice_poison (s : State) (i : Nat) (f : Slice → Slice) : (s.modSlice i f).poison = s.poison := rfl
@[simp] theorem modSlice_l2bad (s : State) (i : Nat) (f : Slice → Slice) : (s.modSlice i f).l2bad = s.l2bad := rfl
@[simp] theorem modSlice_mod (s : State) (i : Nat) (f : Slice → Slice) : (s.modSlice i f).mod = s.mod := rfl
@[simp] theorem modSlice_cmd (s : State) (i : Nat) (f : Slice → Slice) : (s.modSlice i f).cmd = s.cmd := rfl
@[simp] theorem modSlice_fw (s : State) (i : Nat) (f : Slice → Slice) : (s.modSlice i f).fw = s.fw := rfl
@[simp] theorem modSlice_disp (s : State) (i : Nat) (f : Slice → Slice) : (s.modSlice i f).disp = s.disp := rfl
@[simp] theorem modSlice_gfx (s : State) (i : Nat) (f : Slice → Slice) : (s.modSlice i f).gfx = s.gfx := rfl
@[simp] theorem modSlice_dpy (s : State) (i : Nat) (f : Slice → Slice) : (s.modSlice i f).dpy = s.dpy := rfl
@[simp] theorem modSlice_cor (s : State) (i : Nat) (f : Slice → Slice) : (s.modSlice i f).cor = s.cor := rfl
@[simp] theorem modSlice_xlat (s : State) (i : Nat) (f : Slice → Slice) : (s.modSlice i f).xlat = s.xlat := rfl
@[simp] theorem modSlice_kwrites (s : State) (i : Nat) (f : Slice → Slice) : (s.modSlice i f).kwrites = s.kwrites := rfl
@[simp] theorem modSlice_knext (s : State) (i : Nat) (f : Slice → Slice) : (s.modSlice i f).knext = s.knext := rfl

@[simp] theorem modRender_time (s : State) (i : Nat) (f : Render → Render) : (s.modRender i f).time = s.time := rfl
@[simp] theorem modRender_agenda (s : State) (i : Nat) (f : Render → Render) : (s.modRender i f).agenda = s.agenda := rfl
@[simp] theorem modRender_cur (s : State) (i : Nat) (f : Render → Render) : (s.modRender i f).cur = s.cur := rfl
@[simp] theorem modRender_free (s : State) (i : Nat) (f : Render → Render) : (s.modRender i f).free = s.free := rfl
@[simp] theorem modRender_mem (s : State) (i : Nat) (f : Render → Render) : (s.modRender i f).mem = s.mem := rfl
@[simp] theorem modRender_poison (s : State) (i : Nat) (f : Render → Render) : (s.modRender i f).poison = s.poison := rfl
@[simp] theorem modRender_l2bad (s : State) (i : Nat) (f : Render → Render) : (s.modRender i f).l2bad = s.l2bad := rfl
@[simp] theorem modRender_mod (s : State) (i : Nat) (f : Render → Render) : (s.modRender i f).mod = s.mod := rfl
@[simp] theorem modRender_cmd (s : State) (i : Nat) (f : Render → Render) : (s.modRender i f).cmd = s.cmd := rfl
@[simp] theorem modRender_fw (s : State) (i : Nat) (f : Render → Render) : (s.modRender i f).fw = s.fw := rfl
@[simp] theorem modRender_disp (s : State) (i : Nat) (f : Render → Render) : (s.modRender i f).disp = s.disp := rfl
@[simp] theorem modRender_dpy (s : State) (i : Nat) (f : Render → Render) : (s.modRender i f).dpy = s.dpy := rfl
@[simp] theorem modRender_cor (s : State) (i : Nat) (f : Render → Render) : (s.modRender i f).cor = s.cor := rfl
@[simp] theorem modRender_xlat (s : State) (i : Nat) (f : Render → Render) : (s.modRender i f).xlat = s.xlat := rfl
@[simp] theorem modRender_slices (s : State) (i : Nat) (f : Render → Render) : (s.modRender i f).slices = s.slices := rfl
@[simp] theorem modRender_kwrites (s : State) (i : Nat) (f : Render → Render) : (s.modRender i f).kwrites = s.kwrites := rfl
@[simp] theorem modRender_knext (s : State) (i : Nat) (f : Render → Render) : (s.modRender i f).knext = s.knext := rfl

@[simp] theorem modPass_time (s : State) (i : Nat) (f : Pass → Pass) : (s.modPass i f).time = s.time := rfl
@[simp] theorem modPass_agenda (s : State) (i : Nat) (f : Pass → Pass) : (s.modPass i f).agenda = s.agenda := rfl
@[simp] theorem modPass_cur (s : State) (i : Nat) (f : Pass → Pass) : (s.modPass i f).cur = s.cur := rfl
@[simp] theorem modPass_free (s : State) (i : Nat) (f : Pass → Pass) : (s.modPass i f).free = s.free := rfl
@[simp] theorem modPass_mem (s : State) (i : Nat) (f : Pass → Pass) : (s.modPass i f).mem = s.mem := rfl
@[simp] theorem modPass_poison (s : State) (i : Nat) (f : Pass → Pass) : (s.modPass i f).poison = s.poison := rfl
@[simp] theorem modPass_l2bad (s : State) (i : Nat) (f : Pass → Pass) : (s.modPass i f).l2bad = s.l2bad := rfl
@[simp] theorem modPass_mod (s : State) (i : Nat) (f : Pass → Pass) : (s.modPass i f).mod = s.mod := rfl
@[simp] theorem modPass_cmd (s : State) (i : Nat) (f : Pass → Pass) : (s.modPass i f).cmd = s.cmd := rfl
@[simp] theorem modPass_fw (s : State) (i : Nat) (f : Pass → Pass) : (s.modPass i f).fw = s.fw := rfl
@[simp] theorem modPass_disp (s : State) (i : Nat) (f : Pass → Pass) : (s.modPass i f).disp = s.disp := rfl
@[simp] theorem modPass_dpy (s : State) (i : Nat) (f : Pass → Pass) : (s.modPass i f).dpy = s.dpy := rfl
@[simp] theorem modPass_cor (s : State) (i : Nat) (f : Pass → Pass) : (s.modPass i f).cor = s.cor := rfl
@[simp] theorem modPass_xlat (s : State) (i : Nat) (f : Pass → Pass) : (s.modPass i f).xlat = s.xlat := rfl
@[simp] theorem modPass_slices (s : State) (i : Nat) (f : Pass → Pass) : (s.modPass i f).slices = s.slices := rfl
@[simp] theorem modPass_kwrites (s : State) (i : Nat) (f : Pass → Pass) : (s.modPass i f).kwrites = s.kwrites := rfl
@[simp] theorem modPass_knext (s : State) (i : Nat) (f : Pass → Pass) : (s.modPass i f).knext = s.knext := rfl

@[simp] theorem modGl_time (s : State) (k : Nat) (f : Glaze → Glaze) : (s.modGl k f).time = s.time := rfl
@[simp] theorem modGl_agenda (s : State) (k : Nat) (f : Glaze → Glaze) : (s.modGl k f).agenda = s.agenda := rfl
@[simp] theorem modGl_cur (s : State) (k : Nat) (f : Glaze → Glaze) : (s.modGl k f).cur = s.cur := rfl
@[simp] theorem modGl_free (s : State) (k : Nat) (f : Glaze → Glaze) : (s.modGl k f).free = s.free := rfl
@[simp] theorem modGl_mem (s : State) (k : Nat) (f : Glaze → Glaze) : (s.modGl k f).mem = s.mem := rfl
@[simp] theorem modGl_poison (s : State) (k : Nat) (f : Glaze → Glaze) : (s.modGl k f).poison = s.poison := rfl
@[simp] theorem modGl_l2bad (s : State) (k : Nat) (f : Glaze → Glaze) : (s.modGl k f).l2bad = s.l2bad := rfl
@[simp] theorem modGl_mod (s : State) (k : Nat) (f : Glaze → Glaze) : (s.modGl k f).mod = s.mod := rfl
@[simp] theorem modGl_cmd (s : State) (k : Nat) (f : Glaze → Glaze) : (s.modGl k f).cmd = s.cmd := rfl
@[simp] theorem modGl_fw (s : State) (k : Nat) (f : Glaze → Glaze) : (s.modGl k f).fw = s.fw := rfl
@[simp] theorem modGl_disp (s : State) (k : Nat) (f : Glaze → Glaze) : (s.modGl k f).disp = s.disp := rfl
@[simp] theorem modGl_gfx (s : State) (k : Nat) (f : Glaze → Glaze) : (s.modGl k f).gfx = s.gfx := rfl
@[simp] theorem modGl_cor (s : State) (k : Nat) (f : Glaze → Glaze) : (s.modGl k f).cor = s.cor := rfl
@[simp] theorem modGl_xlat (s : State) (k : Nat) (f : Glaze → Glaze) : (s.modGl k f).xlat = s.xlat := rfl
@[simp] theorem modGl_slices (s : State) (k : Nat) (f : Glaze → Glaze) : (s.modGl k f).slices = s.slices := rfl
@[simp] theorem modGl_kwrites (s : State) (k : Nat) (f : Glaze → Glaze) : (s.modGl k f).kwrites = s.kwrites := rfl
@[simp] theorem modGl_knext (s : State) (k : Nat) (f : Glaze → Glaze) : (s.modGl k f).knext = s.knext := rfl

@[simp] theorem modCopy_time (s : State) (i : Nat) (f : Copy → Copy) : (s.modCopy i f).time = s.time := rfl
@[simp] theorem modCopy_agenda (s : State) (i : Nat) (f : Copy → Copy) : (s.modCopy i f).agenda = s.agenda := rfl
@[simp] theorem modCopy_cur (s : State) (i : Nat) (f : Copy → Copy) : (s.modCopy i f).cur = s.cur := rfl
@[simp] theorem modCopy_free (s : State) (i : Nat) (f : Copy → Copy) : (s.modCopy i f).free = s.free := rfl
@[simp] theorem modCopy_mem (s : State) (i : Nat) (f : Copy → Copy) : (s.modCopy i f).mem = s.mem := rfl
@[simp] theorem modCopy_poison (s : State) (i : Nat) (f : Copy → Copy) : (s.modCopy i f).poison = s.poison := rfl
@[simp] theorem modCopy_l2bad (s : State) (i : Nat) (f : Copy → Copy) : (s.modCopy i f).l2bad = s.l2bad := rfl
@[simp] theorem modCopy_mod (s : State) (i : Nat) (f : Copy → Copy) : (s.modCopy i f).mod = s.mod := rfl
@[simp] theorem modCopy_cmd (s : State) (i : Nat) (f : Copy → Copy) : (s.modCopy i f).cmd = s.cmd := rfl
@[simp] theorem modCopy_fw (s : State) (i : Nat) (f : Copy → Copy) : (s.modCopy i f).fw = s.fw := rfl
@[simp] theorem modCopy_disp (s : State) (i : Nat) (f : Copy → Copy) : (s.modCopy i f).disp = s.disp := rfl
@[simp] theorem modCopy_gfx (s : State) (i : Nat) (f : Copy → Copy) : (s.modCopy i f).gfx = s.gfx := rfl
@[simp] theorem modCopy_dpy (s : State) (i : Nat) (f : Copy → Copy) : (s.modCopy i f).dpy = s.dpy := rfl
@[simp] theorem modCopy_xlat (s : State) (i : Nat) (f : Copy → Copy) : (s.modCopy i f).xlat = s.xlat := rfl
@[simp] theorem modCopy_slices (s : State) (i : Nat) (f : Copy → Copy) : (s.modCopy i f).slices = s.slices := rfl
@[simp] theorem modCopy_kwrites (s : State) (i : Nat) (f : Copy → Copy) : (s.modCopy i f).kwrites = s.kwrites := rfl
@[simp] theorem modCopy_knext (s : State) (i : Nat) (f : Copy → Copy) : (s.modCopy i f).knext = s.knext := rfl

@[simp] theorem modMod_time (s : State) (f : Module → Module) : (s.modMod f).time = s.time := rfl
@[simp] theorem modMod_agenda (s : State) (f : Module → Module) : (s.modMod f).agenda = s.agenda := rfl
@[simp] theorem modMod_cur (s : State) (f : Module → Module) : (s.modMod f).cur = s.cur := rfl
@[simp] theorem modMod_free (s : State) (f : Module → Module) : (s.modMod f).free = s.free := rfl
@[simp] theorem modMod_mem (s : State) (f : Module → Module) : (s.modMod f).mem = s.mem := rfl
@[simp] theorem modMod_poison (s : State) (f : Module → Module) : (s.modMod f).poison = s.poison := rfl
@[simp] theorem modMod_l2bad (s : State) (f : Module → Module) : (s.modMod f).l2bad = s.l2bad := rfl
@[simp] theorem modMod_cmd (s : State) (f : Module → Module) : (s.modMod f).cmd = s.cmd := rfl
@[simp] theorem modMod_fw (s : State) (f : Module → Module) : (s.modMod f).fw = s.fw := rfl
@[simp] theorem modMod_disp (s : State) (f : Module → Module) : (s.modMod f).disp = s.disp := rfl
@[simp] theorem modMod_gfx (s : State) (f : Module → Module) : (s.modMod f).gfx = s.gfx := rfl
@[simp] theorem modMod_dpy (s : State) (f : Module → Module) : (s.modMod f).dpy = s.dpy := rfl
@[simp] theorem modMod_cor (s : State) (f : Module → Module) : (s.modMod f).cor = s.cor := rfl
@[simp] theorem modMod_xlat (s : State) (f : Module → Module) : (s.modMod f).xlat = s.xlat := rfl
@[simp] theorem modMod_slices (s : State) (f : Module → Module) : (s.modMod f).slices = s.slices := rfl
@[simp] theorem modMod_kwrites (s : State) (f : Module → Module) : (s.modMod f).kwrites = s.kwrites := rfl
@[simp] theorem modMod_knext (s : State) (f : Module → Module) : (s.modMod f).knext = s.knext := rfl

@[simp] theorem modFw_time (s : State) (f : Firmware → Firmware) : (s.modFw f).time = s.time := rfl
@[simp] theorem modFw_agenda (s : State) (f : Firmware → Firmware) : (s.modFw f).agenda = s.agenda := rfl
@[simp] theorem modFw_cur (s : State) (f : Firmware → Firmware) : (s.modFw f).cur = s.cur := rfl
@[simp] theorem modFw_free (s : State) (f : Firmware → Firmware) : (s.modFw f).free = s.free := rfl
@[simp] theorem modFw_mem (s : State) (f : Firmware → Firmware) : (s.modFw f).mem = s.mem := rfl
@[simp] theorem modFw_poison (s : State) (f : Firmware → Firmware) : (s.modFw f).poison = s.poison := rfl
@[simp] theorem modFw_l2bad (s : State) (f : Firmware → Firmware) : (s.modFw f).l2bad = s.l2bad := rfl
@[simp] theorem modFw_mod (s : State) (f : Firmware → Firmware) : (s.modFw f).mod = s.mod := rfl
@[simp] theorem modFw_cmd (s : State) (f : Firmware → Firmware) : (s.modFw f).cmd = s.cmd := rfl
@[simp] theorem modFw_disp (s : State) (f : Firmware → Firmware) : (s.modFw f).disp = s.disp := rfl
@[simp] theorem modFw_gfx (s : State) (f : Firmware → Firmware) : (s.modFw f).gfx = s.gfx := rfl
@[simp] theorem modFw_dpy (s : State) (f : Firmware → Firmware) : (s.modFw f).dpy = s.dpy := rfl
@[simp] theorem modFw_cor (s : State) (f : Firmware → Firmware) : (s.modFw f).cor = s.cor := rfl
@[simp] theorem modFw_xlat (s : State) (f : Firmware → Firmware) : (s.modFw f).xlat = s.xlat := rfl
@[simp] theorem modFw_slices (s : State) (f : Firmware → Firmware) : (s.modFw f).slices = s.slices := rfl
@[simp] theorem modFw_kwrites (s : State) (f : Firmware → Firmware) : (s.modFw f).kwrites = s.kwrites := rfl
@[simp] theorem modFw_knext (s : State) (f : Firmware → Firmware) : (s.modFw f).knext = s.knext := rfl

@[simp] theorem modKiln_time (s : State) (k : Nat) (f : Kiln → Kiln) : (s.modKiln k f).time = s.time := rfl
@[simp] theorem modKiln_agenda (s : State) (k : Nat) (f : Kiln → Kiln) : (s.modKiln k f).agenda = s.agenda := rfl
@[simp] theorem modKiln_cur (s : State) (k : Nat) (f : Kiln → Kiln) : (s.modKiln k f).cur = s.cur := rfl
@[simp] theorem modKiln_free (s : State) (k : Nat) (f : Kiln → Kiln) : (s.modKiln k f).free = s.free := rfl
@[simp] theorem modKiln_mem (s : State) (k : Nat) (f : Kiln → Kiln) : (s.modKiln k f).mem = s.mem := rfl
@[simp] theorem modKiln_poison (s : State) (k : Nat) (f : Kiln → Kiln) : (s.modKiln k f).poison = s.poison := rfl
@[simp] theorem modKiln_l2bad (s : State) (k : Nat) (f : Kiln → Kiln) : (s.modKiln k f).l2bad = s.l2bad := rfl
@[simp] theorem modKiln_mod (s : State) (k : Nat) (f : Kiln → Kiln) : (s.modKiln k f).mod = s.mod := rfl
@[simp] theorem modKiln_cmd (s : State) (k : Nat) (f : Kiln → Kiln) : (s.modKiln k f).cmd = s.cmd := rfl
@[simp] theorem modKiln_disp (s : State) (k : Nat) (f : Kiln → Kiln) : (s.modKiln k f).disp = s.disp := rfl
@[simp] theorem modKiln_gfx (s : State) (k : Nat) (f : Kiln → Kiln) : (s.modKiln k f).gfx = s.gfx := rfl
@[simp] theorem modKiln_dpy (s : State) (k : Nat) (f : Kiln → Kiln) : (s.modKiln k f).dpy = s.dpy := rfl
@[simp] theorem modKiln_cor (s : State) (k : Nat) (f : Kiln → Kiln) : (s.modKiln k f).cor = s.cor := rfl
@[simp] theorem modKiln_xlat (s : State) (k : Nat) (f : Kiln → Kiln) : (s.modKiln k f).xlat = s.xlat := rfl
@[simp] theorem modKiln_slices (s : State) (k : Nat) (f : Kiln → Kiln) : (s.modKiln k f).slices = s.slices := rfl
@[simp] theorem modKiln_kwrites (s : State) (k : Nat) (f : Kiln → Kiln) : (s.modKiln k f).kwrites = s.kwrites := rfl
@[simp] theorem modKiln_knext (s : State) (k : Nat) (f : Kiln → Kiln) : (s.modKiln k f).knext = s.knext := rfl

@[simp] theorem modChan_time (s : State) (c : Nat) (f : Chan → Chan) : (s.modChan c f).time = s.time := rfl
@[simp] theorem modChan_agenda (s : State) (c : Nat) (f : Chan → Chan) : (s.modChan c f).agenda = s.agenda := rfl
@[simp] theorem modChan_cur (s : State) (c : Nat) (f : Chan → Chan) : (s.modChan c f).cur = s.cur := rfl
@[simp] theorem modChan_free (s : State) (c : Nat) (f : Chan → Chan) : (s.modChan c f).free = s.free := rfl
@[simp] theorem modChan_mem (s : State) (c : Nat) (f : Chan → Chan) : (s.modChan c f).mem = s.mem := rfl
@[simp] theorem modChan_poison (s : State) (c : Nat) (f : Chan → Chan) : (s.modChan c f).poison = s.poison := rfl
@[simp] theorem modChan_l2bad (s : State) (c : Nat) (f : Chan → Chan) : (s.modChan c f).l2bad = s.l2bad := rfl
@[simp] theorem modChan_cmd (s : State) (c : Nat) (f : Chan → Chan) : (s.modChan c f).cmd = s.cmd := rfl
@[simp] theorem modChan_fw (s : State) (c : Nat) (f : Chan → Chan) : (s.modChan c f).fw = s.fw := rfl
@[simp] theorem modChan_disp (s : State) (c : Nat) (f : Chan → Chan) : (s.modChan c f).disp = s.disp := rfl
@[simp] theorem modChan_gfx (s : State) (c : Nat) (f : Chan → Chan) : (s.modChan c f).gfx = s.gfx := rfl
@[simp] theorem modChan_dpy (s : State) (c : Nat) (f : Chan → Chan) : (s.modChan c f).dpy = s.dpy := rfl
@[simp] theorem modChan_cor (s : State) (c : Nat) (f : Chan → Chan) : (s.modChan c f).cor = s.cor := rfl
@[simp] theorem modChan_xlat (s : State) (c : Nat) (f : Chan → Chan) : (s.modChan c f).xlat = s.xlat := rfl
@[simp] theorem modChan_slices (s : State) (c : Nat) (f : Chan → Chan) : (s.modChan c f).slices = s.slices := rfl
@[simp] theorem modChan_kwrites (s : State) (c : Nat) (f : Chan → Chan) : (s.modChan c f).kwrites = s.kwrites := rfl
@[simp] theorem modChan_knext (s : State) (c : Nat) (f : Chan → Chan) : (s.modChan c f).knext = s.knext := rfl

@[simp] theorem modIcl_time (s : State) (p : Nat) (f : IclPort → IclPort) : (s.modIcl p f).time = s.time := rfl
@[simp] theorem modIcl_agenda (s : State) (p : Nat) (f : IclPort → IclPort) : (s.modIcl p f).agenda = s.agenda := rfl
@[simp] theorem modIcl_cur (s : State) (p : Nat) (f : IclPort → IclPort) : (s.modIcl p f).cur = s.cur := rfl
@[simp] theorem modIcl_free (s : State) (p : Nat) (f : IclPort → IclPort) : (s.modIcl p f).free = s.free := rfl
@[simp] theorem modIcl_mem (s : State) (p : Nat) (f : IclPort → IclPort) : (s.modIcl p f).mem = s.mem := rfl
@[simp] theorem modIcl_poison (s : State) (p : Nat) (f : IclPort → IclPort) : (s.modIcl p f).poison = s.poison := rfl
@[simp] theorem modIcl_l2bad (s : State) (p : Nat) (f : IclPort → IclPort) : (s.modIcl p f).l2bad = s.l2bad := rfl
@[simp] theorem modIcl_cmd (s : State) (p : Nat) (f : IclPort → IclPort) : (s.modIcl p f).cmd = s.cmd := rfl
@[simp] theorem modIcl_fw (s : State) (p : Nat) (f : IclPort → IclPort) : (s.modIcl p f).fw = s.fw := rfl
@[simp] theorem modIcl_disp (s : State) (p : Nat) (f : IclPort → IclPort) : (s.modIcl p f).disp = s.disp := rfl
@[simp] theorem modIcl_gfx (s : State) (p : Nat) (f : IclPort → IclPort) : (s.modIcl p f).gfx = s.gfx := rfl
@[simp] theorem modIcl_dpy (s : State) (p : Nat) (f : IclPort → IclPort) : (s.modIcl p f).dpy = s.dpy := rfl
@[simp] theorem modIcl_cor (s : State) (p : Nat) (f : IclPort → IclPort) : (s.modIcl p f).cor = s.cor := rfl
@[simp] theorem modIcl_xlat (s : State) (p : Nat) (f : IclPort → IclPort) : (s.modIcl p f).xlat = s.xlat := rfl
@[simp] theorem modIcl_slices (s : State) (p : Nat) (f : IclPort → IclPort) : (s.modIcl p f).slices = s.slices := rfl
@[simp] theorem modIcl_kwrites (s : State) (p : Nat) (f : IclPort → IclPort) : (s.modIcl p f).kwrites = s.kwrites := rfl
@[simp] theorem modIcl_knext (s : State) (p : Nat) (f : IclPort → IclPort) : (s.modIcl p f).knext = s.knext := rfl

@[simp] theorem modQueue_time (s : State) (q : Nat) (f : Queue → Queue) : (s.modQueue q f).time = s.time := rfl
@[simp] theorem modQueue_agenda (s : State) (q : Nat) (f : Queue → Queue) : (s.modQueue q f).agenda = s.agenda := rfl
@[simp] theorem modQueue_cur (s : State) (q : Nat) (f : Queue → Queue) : (s.modQueue q f).cur = s.cur := rfl
@[simp] theorem modQueue_free (s : State) (q : Nat) (f : Queue → Queue) : (s.modQueue q f).free = s.free := rfl
@[simp] theorem modQueue_mem (s : State) (q : Nat) (f : Queue → Queue) : (s.modQueue q f).mem = s.mem := rfl
@[simp] theorem modQueue_poison (s : State) (q : Nat) (f : Queue → Queue) : (s.modQueue q f).poison = s.poison := rfl
@[simp] theorem modQueue_l2bad (s : State) (q : Nat) (f : Queue → Queue) : (s.modQueue q f).l2bad = s.l2bad := rfl
@[simp] theorem modQueue_mod (s : State) (q : Nat) (f : Queue → Queue) : (s.modQueue q f).mod = s.mod := rfl
@[simp] theorem modQueue_fw (s : State) (q : Nat) (f : Queue → Queue) : (s.modQueue q f).fw = s.fw := rfl
@[simp] theorem modQueue_disp (s : State) (q : Nat) (f : Queue → Queue) : (s.modQueue q f).disp = s.disp := rfl
@[simp] theorem modQueue_gfx (s : State) (q : Nat) (f : Queue → Queue) : (s.modQueue q f).gfx = s.gfx := rfl
@[simp] theorem modQueue_dpy (s : State) (q : Nat) (f : Queue → Queue) : (s.modQueue q f).dpy = s.dpy := rfl
@[simp] theorem modQueue_cor (s : State) (q : Nat) (f : Queue → Queue) : (s.modQueue q f).cor = s.cor := rfl
@[simp] theorem modQueue_xlat (s : State) (q : Nat) (f : Queue → Queue) : (s.modQueue q f).xlat = s.xlat := rfl
@[simp] theorem modQueue_slices (s : State) (q : Nat) (f : Queue → Queue) : (s.modQueue q f).slices = s.slices := rfl
@[simp] theorem modQueue_kwrites (s : State) (q : Nat) (f : Queue → Queue) : (s.modQueue q f).kwrites = s.kwrites := rfl
@[simp] theorem modQueue_knext (s : State) (q : Nat) (f : Queue → Queue) : (s.modQueue q f).knext = s.knext := rfl

@[simp] theorem modCmd_time (s : State) (f : Command → Command) : (s.modCmd f).time = s.time := rfl
@[simp] theorem modCmd_agenda (s : State) (f : Command → Command) : (s.modCmd f).agenda = s.agenda := rfl
@[simp] theorem modCmd_cur (s : State) (f : Command → Command) : (s.modCmd f).cur = s.cur := rfl
@[simp] theorem modCmd_free (s : State) (f : Command → Command) : (s.modCmd f).free = s.free := rfl
@[simp] theorem modCmd_mem (s : State) (f : Command → Command) : (s.modCmd f).mem = s.mem := rfl
@[simp] theorem modCmd_poison (s : State) (f : Command → Command) : (s.modCmd f).poison = s.poison := rfl
@[simp] theorem modCmd_l2bad (s : State) (f : Command → Command) : (s.modCmd f).l2bad = s.l2bad := rfl
@[simp] theorem modCmd_mod (s : State) (f : Command → Command) : (s.modCmd f).mod = s.mod := rfl
@[simp] theorem modCmd_fw (s : State) (f : Command → Command) : (s.modCmd f).fw = s.fw := rfl
@[simp] theorem modCmd_disp (s : State) (f : Command → Command) : (s.modCmd f).disp = s.disp := rfl
@[simp] theorem modCmd_gfx (s : State) (f : Command → Command) : (s.modCmd f).gfx = s.gfx := rfl
@[simp] theorem modCmd_dpy (s : State) (f : Command → Command) : (s.modCmd f).dpy = s.dpy := rfl
@[simp] theorem modCmd_cor (s : State) (f : Command → Command) : (s.modCmd f).cor = s.cor := rfl
@[simp] theorem modCmd_xlat (s : State) (f : Command → Command) : (s.modCmd f).xlat = s.xlat := rfl
@[simp] theorem modCmd_slices (s : State) (f : Command → Command) : (s.modCmd f).slices = s.slices := rfl
@[simp] theorem modCmd_kwrites (s : State) (f : Command → Command) : (s.modCmd f).kwrites = s.kwrites := rfl
@[simp] theorem modCmd_knext (s : State) (f : Command → Command) : (s.modCmd f).knext = s.knext := rfl

@[simp] theorem modGraph_time (s : State) (g : Nat) (f : Graph → Graph) : (s.modGraph g f).time = s.time := rfl
@[simp] theorem modGraph_agenda (s : State) (g : Nat) (f : Graph → Graph) : (s.modGraph g f).agenda = s.agenda := rfl
@[simp] theorem modGraph_cur (s : State) (g : Nat) (f : Graph → Graph) : (s.modGraph g f).cur = s.cur := rfl
@[simp] theorem modGraph_free (s : State) (g : Nat) (f : Graph → Graph) : (s.modGraph g f).free = s.free := rfl
@[simp] theorem modGraph_mem (s : State) (g : Nat) (f : Graph → Graph) : (s.modGraph g f).mem = s.mem := rfl
@[simp] theorem modGraph_poison (s : State) (g : Nat) (f : Graph → Graph) : (s.modGraph g f).poison = s.poison := rfl
@[simp] theorem modGraph_l2bad (s : State) (g : Nat) (f : Graph → Graph) : (s.modGraph g f).l2bad = s.l2bad := rfl
@[simp] theorem modGraph_mod (s : State) (g : Nat) (f : Graph → Graph) : (s.modGraph g f).mod = s.mod := rfl
@[simp] theorem modGraph_cmd (s : State) (g : Nat) (f : Graph → Graph) : (s.modGraph g f).cmd = s.cmd := rfl
@[simp] theorem modGraph_fw (s : State) (g : Nat) (f : Graph → Graph) : (s.modGraph g f).fw = s.fw := rfl
@[simp] theorem modGraph_gfx (s : State) (g : Nat) (f : Graph → Graph) : (s.modGraph g f).gfx = s.gfx := rfl
@[simp] theorem modGraph_dpy (s : State) (g : Nat) (f : Graph → Graph) : (s.modGraph g f).dpy = s.dpy := rfl
@[simp] theorem modGraph_cor (s : State) (g : Nat) (f : Graph → Graph) : (s.modGraph g f).cor = s.cor := rfl
@[simp] theorem modGraph_xlat (s : State) (g : Nat) (f : Graph → Graph) : (s.modGraph g f).xlat = s.xlat := rfl
@[simp] theorem modGraph_slices (s : State) (g : Nat) (f : Graph → Graph) : (s.modGraph g f).slices = s.slices := rfl
@[simp] theorem modGraph_kwrites (s : State) (g : Nat) (f : Graph → Graph) : (s.modGraph g f).kwrites = s.kwrites := rfl
@[simp] theorem modGraph_knext (s : State) (g : Nat) (f : Graph → Graph) : (s.modGraph g f).knext = s.knext := rfl

@[simp] theorem modPhase_time (s : State) (p : Nat) (f : Phase → Phase) : (s.modPhase p f).time = s.time := rfl
@[simp] theorem modPhase_agenda (s : State) (p : Nat) (f : Phase → Phase) : (s.modPhase p f).agenda = s.agenda := rfl
@[simp] theorem modPhase_cur (s : State) (p : Nat) (f : Phase → Phase) : (s.modPhase p f).cur = s.cur := rfl
@[simp] theorem modPhase_free (s : State) (p : Nat) (f : Phase → Phase) : (s.modPhase p f).free = s.free := rfl
@[simp] theorem modPhase_mem (s : State) (p : Nat) (f : Phase → Phase) : (s.modPhase p f).mem = s.mem := rfl
@[simp] theorem modPhase_poison (s : State) (p : Nat) (f : Phase → Phase) : (s.modPhase p f).poison = s.poison := rfl
@[simp] theorem modPhase_l2bad (s : State) (p : Nat) (f : Phase → Phase) : (s.modPhase p f).l2bad = s.l2bad := rfl
@[simp] theorem modPhase_mod (s : State) (p : Nat) (f : Phase → Phase) : (s.modPhase p f).mod = s.mod := rfl
@[simp] theorem modPhase_fw (s : State) (p : Nat) (f : Phase → Phase) : (s.modPhase p f).fw = s.fw := rfl
@[simp] theorem modPhase_disp (s : State) (p : Nat) (f : Phase → Phase) : (s.modPhase p f).disp = s.disp := rfl
@[simp] theorem modPhase_gfx (s : State) (p : Nat) (f : Phase → Phase) : (s.modPhase p f).gfx = s.gfx := rfl
@[simp] theorem modPhase_dpy (s : State) (p : Nat) (f : Phase → Phase) : (s.modPhase p f).dpy = s.dpy := rfl
@[simp] theorem modPhase_cor (s : State) (p : Nat) (f : Phase → Phase) : (s.modPhase p f).cor = s.cor := rfl
@[simp] theorem modPhase_xlat (s : State) (p : Nat) (f : Phase → Phase) : (s.modPhase p f).xlat = s.xlat := rfl
@[simp] theorem modPhase_slices (s : State) (p : Nat) (f : Phase → Phase) : (s.modPhase p f).slices = s.slices := rfl
@[simp] theorem modPhase_kwrites (s : State) (p : Nat) (f : Phase → Phase) : (s.modPhase p f).kwrites = s.kwrites := rfl
@[simp] theorem modPhase_knext (s : State) (p : Nat) (f : Phase → Phase) : (s.modPhase p f).knext = s.knext := rfl

@[simp] theorem modMerge_time (s : State) (i : Nat) (f : Merge → Merge) : (s.modMerge i f).time = s.time := rfl
@[simp] theorem modMerge_agenda (s : State) (i : Nat) (f : Merge → Merge) : (s.modMerge i f).agenda = s.agenda := rfl
@[simp] theorem modMerge_cur (s : State) (i : Nat) (f : Merge → Merge) : (s.modMerge i f).cur = s.cur := rfl
@[simp] theorem modMerge_free (s : State) (i : Nat) (f : Merge → Merge) : (s.modMerge i f).free = s.free := rfl
@[simp] theorem modMerge_mem (s : State) (i : Nat) (f : Merge → Merge) : (s.modMerge i f).mem = s.mem := rfl
@[simp] theorem modMerge_poison (s : State) (i : Nat) (f : Merge → Merge) : (s.modMerge i f).poison = s.poison := rfl
@[simp] theorem modMerge_l2bad (s : State) (i : Nat) (f : Merge → Merge) : (s.modMerge i f).l2bad = s.l2bad := rfl
@[simp] theorem modMerge_mod (s : State) (i : Nat) (f : Merge → Merge) : (s.modMerge i f).mod = s.mod := rfl
@[simp] theorem modMerge_cmd (s : State) (i : Nat) (f : Merge → Merge) : (s.modMerge i f).cmd = s.cmd := rfl
@[simp] theorem modMerge_fw (s : State) (i : Nat) (f : Merge → Merge) : (s.modMerge i f).fw = s.fw := rfl
@[simp] theorem modMerge_disp (s : State) (i : Nat) (f : Merge → Merge) : (s.modMerge i f).disp = s.disp := rfl
@[simp] theorem modMerge_gfx (s : State) (i : Nat) (f : Merge → Merge) : (s.modMerge i f).gfx = s.gfx := rfl
@[simp] theorem modMerge_dpy (s : State) (i : Nat) (f : Merge → Merge) : (s.modMerge i f).dpy = s.dpy := rfl
@[simp] theorem modMerge_cor (s : State) (i : Nat) (f : Merge → Merge) : (s.modMerge i f).cor = s.cor := rfl
@[simp] theorem modMerge_slices (s : State) (i : Nat) (f : Merge → Merge) : (s.modMerge i f).slices = s.slices := rfl
@[simp] theorem modMerge_kwrites (s : State) (i : Nat) (f : Merge → Merge) : (s.modMerge i f).kwrites = s.kwrites := rfl
@[simp] theorem modMerge_knext (s : State) (i : Nat) (f : Merge → Merge) : (s.modMerge i f).knext = s.knext := rfl

@[simp] theorem dropMerge_time (s : State) (i : Nat) : (s.dropMerge i).time = s.time := rfl
@[simp] theorem dropMerge_agenda (s : State) (i : Nat) : (s.dropMerge i).agenda = s.agenda := rfl
@[simp] theorem dropMerge_cur (s : State) (i : Nat) : (s.dropMerge i).cur = s.cur := rfl
@[simp] theorem dropMerge_free (s : State) (i : Nat) : (s.dropMerge i).free = s.free := rfl
@[simp] theorem dropMerge_mem (s : State) (i : Nat) : (s.dropMerge i).mem = s.mem := rfl
@[simp] theorem dropMerge_poison (s : State) (i : Nat) : (s.dropMerge i).poison = s.poison := rfl
@[simp] theorem dropMerge_l2bad (s : State) (i : Nat) : (s.dropMerge i).l2bad = s.l2bad := rfl
@[simp] theorem dropMerge_mod (s : State) (i : Nat) : (s.dropMerge i).mod = s.mod := rfl
@[simp] theorem dropMerge_cmd (s : State) (i : Nat) : (s.dropMerge i).cmd = s.cmd := rfl
@[simp] theorem dropMerge_fw (s : State) (i : Nat) : (s.dropMerge i).fw = s.fw := rfl
@[simp] theorem dropMerge_disp (s : State) (i : Nat) : (s.dropMerge i).disp = s.disp := rfl
@[simp] theorem dropMerge_gfx (s : State) (i : Nat) : (s.dropMerge i).gfx = s.gfx := rfl
@[simp] theorem dropMerge_dpy (s : State) (i : Nat) : (s.dropMerge i).dpy = s.dpy := rfl
@[simp] theorem dropMerge_cor (s : State) (i : Nat) : (s.dropMerge i).cor = s.cor := rfl
@[simp] theorem dropMerge_slices (s : State) (i : Nat) : (s.dropMerge i).slices = s.slices := rfl
@[simp] theorem dropMerge_kwrites (s : State) (i : Nat) : (s.dropMerge i).kwrites = s.kwrites := rfl
@[simp] theorem dropMerge_knext (s : State) (i : Nat) : (s.dropMerge i).knext = s.knext := rfl

@[simp] theorem dropCopy_time (s : State) (i : Nat) : (s.dropCopy i).time = s.time := rfl
@[simp] theorem dropCopy_agenda (s : State) (i : Nat) : (s.dropCopy i).agenda = s.agenda := rfl
@[simp] theorem dropCopy_cur (s : State) (i : Nat) : (s.dropCopy i).cur = s.cur := rfl
@[simp] theorem dropCopy_free (s : State) (i : Nat) : (s.dropCopy i).free = s.free := rfl
@[simp] theorem dropCopy_mem (s : State) (i : Nat) : (s.dropCopy i).mem = s.mem := rfl
@[simp] theorem dropCopy_poison (s : State) (i : Nat) : (s.dropCopy i).poison = s.poison := rfl
@[simp] theorem dropCopy_l2bad (s : State) (i : Nat) : (s.dropCopy i).l2bad = s.l2bad := rfl
@[simp] theorem dropCopy_mod (s : State) (i : Nat) : (s.dropCopy i).mod = s.mod := rfl
@[simp] theorem dropCopy_cmd (s : State) (i : Nat) : (s.dropCopy i).cmd = s.cmd := rfl
@[simp] theorem dropCopy_fw (s : State) (i : Nat) : (s.dropCopy i).fw = s.fw := rfl
@[simp] theorem dropCopy_disp (s : State) (i : Nat) : (s.dropCopy i).disp = s.disp := rfl
@[simp] theorem dropCopy_gfx (s : State) (i : Nat) : (s.dropCopy i).gfx = s.gfx := rfl
@[simp] theorem dropCopy_dpy (s : State) (i : Nat) : (s.dropCopy i).dpy = s.dpy := rfl
@[simp] theorem dropCopy_xlat (s : State) (i : Nat) : (s.dropCopy i).xlat = s.xlat := rfl
@[simp] theorem dropCopy_slices (s : State) (i : Nat) : (s.dropCopy i).slices = s.slices := rfl
@[simp] theorem dropCopy_kwrites (s : State) (i : Nat) : (s.dropCopy i).kwrites = s.kwrites := rfl
@[simp] theorem dropCopy_knext (s : State) (i : Nat) : (s.dropCopy i).knext = s.knext := rfl

/-! ## What the changed part reads -/

theorem modHead_head (s : State) (h j : Nat) (f : Head → Head) : (s.modHead h f).head j = if j = h then f (s.head h) else s.head j :=
  tgetD_tmod ..
theorem modCore_core (s : State) (k j : Nat) (f : Core → Core) : (s.modCore k f).core j = if j = k then f (s.core k) else s.core j :=
  tgetD_tmod ..
theorem modRegion_region (s : State) (r j : Nat) (f : Region → Region) : (s.modRegion r f).region j = if j = r then f (s.region r) else s.region j :=
  tgetD_tmod ..
theorem modGl_gl (s : State) (k j : Nat) (f : Glaze → Glaze) : (s.modGl k f).gl j = if j = k then f (s.gl k) else s.gl j :=
  tgetD_tmod ..
theorem modKiln_kiln (s : State) (k j : Nat) (f : Kiln → Kiln) : (s.modKiln k f).kiln j = if j = k then f (s.kiln k) else s.kiln j :=
  tgetD_tmod ..
theorem modChan_chan (s : State) (c j : Nat) (f : Chan → Chan) : (s.modChan c f).chan j = if j = c then f (s.chan c) else s.chan j :=
  tgetD_tmod ..
theorem modIcl_iclPort (s : State) (p j : Nat) (f : IclPort → IclPort) :
    (s.modIcl p f).iclPort j = if j = p then f (s.iclPort p) else s.iclPort j := tgetD_tmod ..
theorem modQueue_queue (s : State) (q j : Nat) (f : Queue → Queue) : (s.modQueue q f).queue j = if j = q then f (s.queue q) else s.queue j :=
  tgetD_tmod ..
theorem modSlice_slice (s : State) (i j : Nat) (f : Slice → Slice) : (s.modSlice i f).slice j = if j = i then f (s.slice i) else s.slice j :=
  tgetD_tmod ..
theorem setEvents_events (s : State) (q j : Nat) (l : List (BitVec 128)) : (s.setEvents q l).events j = if j = q then l else s.events j :=
  tgetD_tput ..

@[simp] theorem modHead_head_same (s : State) (h : Nat) (f : Head → Head) : (s.modHead h f).head h = f (s.head h) := by rw [modHead_head, if_pos rfl]
@[simp] theorem modCore_core_same (s : State) (k : Nat) (f : Core → Core) : (s.modCore k f).core k = f (s.core k) := by rw [modCore_core, if_pos rfl]
@[simp] theorem modRegion_region_same (s : State) (r : Nat) (f : Region → Region) : (s.modRegion r f).region r = f (s.region r) := by
  rw [modRegion_region, if_pos rfl]
@[simp] theorem modGl_gl_same (s : State) (k : Nat) (f : Glaze → Glaze) : (s.modGl k f).gl k = f (s.gl k) := by rw [modGl_gl, if_pos rfl]
@[simp] theorem modKiln_kiln_same (s : State) (k : Nat) (f : Kiln → Kiln) : (s.modKiln k f).kiln k = f (s.kiln k) := by rw [modKiln_kiln, if_pos rfl]
@[simp] theorem modQueue_queue_same (s : State) (q : Nat) (f : Queue → Queue) : (s.modQueue q f).queue q = f (s.queue q) := by
  rw [modQueue_queue, if_pos rfl]
@[simp] theorem setEvents_events_same (s : State) (q : Nat) (l : List (BitVec 128)) : (s.setEvents q l).events q = l := by
  rw [setEvents_events, if_pos rfl]

/-- A group after its change, if it is there. -/
theorem tget_tupd {α : Type} (t : Tab α) (k j : Nat) (f : α → α) : tget (tupd t k f) j = if j = k then (tget t k).map f else tget t j := by
  unfold tupd; split
  · rename_i x h; rw [tget_tput]; split
    · rw [h]; rfl
    · rfl
  · rename_i h; split
    · rename_i e; subst e; rw [h]; rfl
    · rfl

theorem modGroup_group? (s : State) (g j : Nat) (f : Group → Group) :
    (s.modGroup g f).group? j = if j = g then (s.group? g).map f else s.group? j := tget_tupd ..

theorem modGroup_group (s : State) (g : Nat) (f : Group → Group) (h : (s.group? g).isSome) : (s.modGroup g f).group g = f (s.group g) := by
  obtain ⟨x, hx⟩ := Option.isSome_iff_exists.mp h
  show ((s.modGroup g f).group? g).getD _ = f ((s.group? g).getD _)
  rw [modGroup_group?, if_pos rfl, hx]; rfl

theorem modGroup_group_other (s : State) {g j : Nat} (f : Group → Group) (h : j ≠ g) : (s.modGroup g f).group j = s.group j := by
  show ((s.modGroup g f).group? j).getD _ = (s.group? j).getD _
  rw [modGroup_group?, if_neg h]

theorem modCoil_group? (s : State) (g c j : Nat) (f : Coil → Coil) :
    (s.modCoil g c f).group? j = if j = g then (s.group? g).map (fun x => { x with coils := lmod f x.coils c }) else s.group? j := modGroup_group? ..

theorem lmod_get {α : Type} (f : α → α) : ∀ (l : List α) (i j : Nat), (lmod f l i)[j]? = if j = i then (l[i]?).map f else l[j]?
  | [], i, j => by simp [lmod]
  | x :: t, 0, j => by cases j <;> simp [lmod]
  | x :: t, i + 1, j => by
    cases j with
    | zero => simp [lmod]
    | succ j => simp only [lmod, List.getElem?_cons_succ, lmod_get f t i j, Nat.add_right_cancel_iff]

theorem lmod_length {α : Type} (f : α → α) : ∀ (l : List α) (i : Nat), (lmod f l i).length = l.length
  | [], _ => rfl
  | x :: t, 0 => rfl
  | x :: t, i + 1 => by simp [lmod, lmod_length f t i]

/-- Two changes of one entry are one change. -/
theorem lmod_lmod {α : Type} (f g : α → α) : ∀ (l : List α) (i : Nat), lmod g (lmod f l i) i = lmod (fun x => g (f x)) l i
  | [], _ => rfl
  | x :: t, 0 => rfl
  | x :: t, i + 1 => by simp [lmod, lmod_lmod f g t i]

theorem tput_tput {α : Type} (t : Tab α) (k : Nat) (x y : α) : tput (tput t k x) k y = tput t k y := by
  induction t with
  | nil => simp [tput]
  | cons e t ih =>
    obtain ⟨i, z⟩ := e
    simp only [tput]
    split
    · simp [tput]
    · split
      · rename_i _ h; subst h; simp [tput]
      · rename_i h1 h2; simp only [tput, if_neg h1, if_neg h2, ih]

theorem tupd_tupd {α : Type} (t : Tab α) (k : Nat) (f g : α → α) : tupd (tupd t k f) k g = tupd t k (fun x => g (f x)) := by
  unfold tupd
  cases h : tget t k with
  | none => simp [h]
  | some x => simp [tget_tput_same, tput_tput]

theorem modGroup_modGroup (s : State) (g : Nat) (f f' : Group → Group) : (s.modGroup g f).modGroup g f' = s.modGroup g (fun x => f' (f x)) := by
  show ({ s with cor := { s.cor with groups := tupd (tupd s.cor.groups g f) g f' } } : State) = _
  rw [tupd_tupd]; rfl

/-- Two changes of one coil are one change. -/
theorem modCoil_modCoil (s : State) (g c : Nat) (f f' : Coil → Coil) : (s.modCoil g c f).modCoil g c f' = s.modCoil g c (fun x => f' (f x)) := by
  unfold State.modCoil; rw [modGroup_modGroup]; simp only [lmod_lmod]

/-- The coil of a site that exists, after its change. -/
theorem modCoil_coil (s : State) (g c : Nat) (f : Coil → Coil) (hg : (s.group? g).isSome) (hc : c < (s.group g).coils.length) :
    (s.modCoil g c f).coil g c = f (s.coil g c) := by
  unfold State.coil State.modCoil
  rw [modGroup_group _ _ _ hg]
  simp only [lmod_get, if_pos]
  rw [List.getElem?_eq_getElem hc]; rfl

theorem modCoil_group_same (s : State) (g c : Nat) (f : Coil → Coil) (hg : (s.group? g).isSome) :
    (s.modCoil g c f).group g = { s.group g with coils := lmod f (s.group g).coils c } := modGroup_group _ _ _ hg

end Sys2Proof.Laws
end

