-- ==== Sys2Proof/Laws/Issue.lean ====
section
/-! SUPPORT. What the issue of a Xamal instruction can do, said once: where it passes its checks it is its body on the issued state, and what the
common bodies write. -/
namespace Sys2Proof.Laws
open Sys2Proof.Machine Sys2Proof.Claims

theorem mem_laneList (m : W32) (l : Nat) : l ∈ laneList m ↔ l < 32 ∧ m.getLsbD l = true := by simp [laneList, laneIn]

theorem laneList_isEmpty (m : W32) (h : m ≠ 0) : (laneList m).isEmpty = false := by
  rw [Bool.eq_false_iff]; intro he
  apply h
  apply BitVec.eq_of_getLsbD_eq
  intro i hi
  cases hb : m.getLsbD i with
  | false => simp
  | true =>
    have : i ∈ laneList m := (mem_laneList m i).mpr ⟨hi, hb⟩
    rw [List.isEmpty_iff.mp he] at this; cases this

/-- The checks pass. -/
theorem gate_go {co : Coil} {x : XOp} {lanes : W32} {rs : List Named} (h : Passes co x lanes rs) :
    gate co (laneList (activeOf co x lanes)) rs = .go := by
  have h1 : rs.find? (fun r => r.illegal co.granules) = none := by
    rw [List.find?_eq_none]; intro r hr; simp [h.legal r hr]
  have h2 : rs.any (fun r => (laneList (activeOf co x lanes)).any (r.bad co)) = false := by
    rw [List.any_eq_false]; intro r hr; rw [Bool.not_eq_true, List.any_eq_false]; intro l hl; simp [h.clean r hr l hl]
  have h3 : ∀ r ∈ rs, (laneList (activeOf co x lanes)).any (r.empty co) = false := by
    intro r hr; rw [List.any_eq_false]; intro l hl; simp [h.full r hr l hl]
  have h4 : rs.find? (fun r => r.trap && (laneList (activeOf co x lanes)).any (r.empty co)) = none := by
    rw [List.find?_eq_none]; intro r hr; simp [h3 r hr]
  have h5 : rs.any (fun r => (laneList (activeOf co x lanes)).any (r.empty co)) = false := by
    rw [List.any_eq_false]; intro r hr; simp [h3 r hr]
  unfold gate; rw [h1]; simp only [h2, h4, h5]; simp

/-- No unit is replaced where no destination stands in a poisoned one. -/
theorem replaceUnits_go {co : Coil} {x : XOp} {lanes : W32} {rs : List Named} (h : Passes co x lanes rs) (s : State) (gid c : Nat) :
    replaceUnits s gid c co (laneList (activeOf co x lanes)) rs = s := by
  unfold replaceUnits; rw [if_neg]
  rw [Bool.not_eq_true, List.any_eq_false]; intro r hr
  rw [Bool.not_eq_true, Bool.and_eq_false_iff]
  cases hd : r.isD with
  | false => exact .inl rfl
  | true => right; rw [List.any_eq_false]; intro l hl; simp [h.sound r hr hd l hl]

theorem mapThreads_mapThreads (lanes : W32) (f g : Thread → Thread) : ∀ (i : Nat) (l : List Thread),
    mapThreads lanes g i (mapThreads lanes f i l) = mapThreads lanes (fun t => g (f t)) i l
  | _, [] => rfl
  | i, t :: ts => by
    simp only [mapThreads, mapThreads_mapThreads lanes f g (i + 1) ts]; split <;> rfl

@[simp] theorem mapThreads_length (lanes : W32) (f : Thread → Thread) : ∀ (i : Nat) (l : List Thread), (mapThreads lanes f i l).length = l.length
  | _, [] => rfl
  | i, t :: ts => by simp [mapThreads, mapThreads_length lanes f (i + 1) ts]

/-- A thread after a change of a set of lanes. -/
theorem mapThreads_get (lanes : W32) (f : Thread → Thread) : ∀ (l : List Thread) (i j : Nat),
    (mapThreads lanes f i l)[j]? = (l[j]?).map (fun t => if laneIn lanes (i + j) then f t else t)
  | [], _, _ => by simp [mapThreads]
  | t :: ts, i, 0 => by simp [mapThreads]
  | t :: ts, i, j + 1 => by
    simp only [mapThreads, List.getElem?_cons_succ, mapThreads_get lanes f ts (i + 1) j]
    rw [Nat.add_right_comm, Nat.add_assoc]

/-- A state one issue later. -/
def bump (t : State) (n : Nat) : State := { t with cor := { t.cor with order := n } }

theorem bump_modCoil (t : State) (n gid c : Nat) (f : Coil → Coil) : (bump t n).modCoil gid c f = bump (t.modCoil gid c f) n := rfl
theorem after_bump (s : State) (gid c : Nat) (co : Coil) : after s gid c co = bump (s.modCoil gid c (fun _ => co)) (s.cor.order + 1) := rfl

theorem after_modCoil (s : State) (gid c : Nat) (co : Coil) (f : Coil → Coil) : (after s gid c co).modCoil gid c f = after s gid c (f co) := by
  rw [after_bump, bump_modCoil, modCoil_modCoil, after_bump]

theorem after_coil (s : State) (gid c : Nat) (co : Coil) (hg : (s.group? gid).isSome = true) (hc : c < (s.group gid).coils.length) :
    (after s gid c co).coil gid c = co := modCoil_coil s gid c _ hg hc

theorem after_group (s : State) (gid c : Nat) (co : Coil) (hg : (s.group? gid).isSome = true) :
    (after s gid c co).group gid = { s.group gid with coils := lmod (fun _ => co) (s.group gid).coils c } := modCoil_group_same s gid c _ hg

/-- A change of a coil that is there is its replacement. -/
theorem modCoil_const (s : State) (gid c : Nat) (f : Coil → Coil) (hg : (s.group? gid).isSome = true) (hc : c < (s.group gid).coils.length) :
    s.modCoil gid c f = s.modCoil gid c (fun _ => f (s.coil gid c)) := by
  obtain ⟨g, h⟩ := Option.isSome_iff_exists.mp hg
  have h' : tget s.cor.groups gid = some g := h
  have hgr : s.group gid = g := by show (tget s.cor.groups gid).getD _ = g; rw [h']; rfl
  rw [hgr] at hc
  have hl : lmod f g.coils c = lmod (fun _ => f (s.coil gid c)) g.coils c := by
    have hco : s.coil gid c = g.coils[c] := by unfold State.coil; rw [hgr, List.getElem?_eq_getElem hc]; rfl
    apply List.ext_getElem?; intro j; rw [lmod_get, lmod_get]; split
    · rw [List.getElem?_eq_getElem hc, hco]; rfl
    · rfl
  unfold State.modCoil State.modGroup tupd; rw [h']; simp only [hl]

theorem markIssued_bump (s : State) (gid c : Nat) (lanes : W32) : markIssued s gid c lanes = bump (s.modCoil gid c (fun co =>
    { co.mapLanes lanes (fun t => { t with lastIssue := s.cor.order, wdogFrom := coreCycles s (s.group gid).core }) with
      sticky := lanes, turnOver := false, stickyCount := if co.turnOver then 1 else co.stickyCount + 1 })) (s.cor.order + 1) := rfl

/-- The state that `issueOn` hands to the body is the issued state. -/
theorem markIssued_next (s : State) (gid c : Nat) (lanes : W32) (next : W64) (hg : (s.group? gid).isSome = true) (hc : c < (s.group gid).coils.length) :
    (markIssued s gid c lanes).modCoil gid c (fun co => co.mapLanes lanes (fun t => { t with pc := next })) = after s gid c (issued s gid c lanes next) := by
  rw [markIssued_bump, bump_modCoil, modCoil_modCoil, modCoil_const s gid c _ hg hc, after_bump]
  unfold issued Coil.mapLanes; dsimp only; rw [mapThreads_mapThreads]

/-- Where an instruction passes its checks, its issue is its body on the issued state. -/
theorem issueOn_go {s : State} {gid c : Nat} {lanes : W32} {pc : W64} {x : XOp} {rs : List Named} (h : Ready s gid c lanes pc x rs)
    (body : Ctx → State → Res) {s3 : State} {fl : List (Nat × Flags)}
    (hb : body (ctxOf s gid c lanes pc x) (issuedState s gid c lanes pc x) = .done s3 fl) :
    issueOn x rs body s =
      (let s4 := addFlags s3 gid c fl
       let t := trapLanes (s4.coil gid c) fl
       if t = 0 then s4 else raiseTrap s4 gid c lanes pc (nextPc pc x) { code := tFP_EXCEPTION, cause := t }) := by
  unfold issueOn
  rw [h.cur]; dsimp only
  rw [laneList_isEmpty _ h.active, gate_go h.toPasses]
  rw [markIssued_next s gid c lanes _ h.group h.coil]
  simp only [Bool.false_eq_true, if_false]
  have : body { gid, c, lanes, pc, next := pc + BitVec.ofNat 64 (xopSize x), act := laneList (activeOf (s.coil gid c) x lanes), x, co := s.coil gid c, k := (s.group gid).core }
      (after s gid c (issued s gid c lanes (pc + BitVec.ofNat 64 (xopSize x)))) = .done s3 fl := hb
  rw [this]; dsimp only; rw [replaceUnits_go h.toPasses]; rfl

/-- Without flags, the issue ends in what the body gives. -/
theorem issueOn_done {s : State} {gid c : Nat} {lanes : W32} {pc : W64} {x : XOp} {rs : List Named} (h : Ready s gid c lanes pc x rs)
    (body : Ctx → State → Res) {s3 : State}
    (hb : body (ctxOf s gid c lanes pc x) (issuedState s gid c lanes pc x) = .done s3 []) : issueOn x rs body s = s3 := by
  rw [issueOn_go h body hb]; simp [addFlags, trapLanes, laneMask]

/-! ## Registers written -/

/-- `co'` is `co` but for its vector and uniform registers. -/
abbrev SameButRegs (co co' : Coil) : Prop := co' = { co with v := co'.v, s := co'.s }

theorem vPut_same (lane n : Nat) : ∀ (w : Nat) (v : Nat) (co : Coil), (co.vPut lane n w v).s = co.s ∧ SameButRegs co (co.vPut lane n w v) := by
  intro w; induction w generalizing n with
  | zero => intro v co; exact ⟨rfl, rfl⟩
  | succ w ih =>
    intro v co; rw [Coil.vPut]
    obtain ⟨h1, h2⟩ := ih (n + 1) (v / 2 ^ 32) { co with v := tput co.v (n * 32 + lane) (BitVec.ofNat 32 v) }
    exact ⟨h1, h2⟩

theorem sPut_same (n : Nat) : ∀ (w : Nat) (v : Nat) (co : Coil), (co.sPut n w v).v = co.v ∧ SameButRegs co (co.sPut n w v) := by
  intro w; induction w generalizing n with
  | zero => intro v co; exact ⟨rfl, rfl⟩
  | succ w ih =>
    intro v co; rw [Coil.sPut]
    obtain ⟨h1, h2⟩ := ih (n + 1) (v / 2 ^ 32) { co with s := tput co.s n (BitVec.ofNat 32 v) }
    exact ⟨h1, h2⟩

theorem wordOf_succ (v i : Nat) : wordOf (v / 2 ^ 32) i = wordOf v (i + 1) := by
  unfold wordOf; rw [Nat.div_div_eq_div_mul, ← Nat.pow_add]; congr 3; omega

theorem vPut_get (lane : Nat) (hl : lane < 32) : ∀ (w n : Nat) (v : Nat) (co : Coil) (m l : Nat), l < 32 →
    tgetD (co.vPut lane n w v).v (m * 32 + l) 0 = if n ≤ m ∧ m < n + w ∧ l = lane then wordOf v (m - n) else tgetD co.v (m * 32 + l) 0
  | 0, n, v, co, m, l, _ => by rw [Coil.vPut, if_neg (by omega)]
  | w + 1, n, v, co, m, l, hl' => by
    rw [Coil.vPut, vPut_get lane hl w (n + 1) _ _ m l hl', tgetD_tput]
    by_cases h1 : m = n ∧ l = lane
    · obtain ⟨rfl, rfl⟩ := h1
      rw [if_neg (by omega), if_pos rfl, if_pos (by omega)]; simp [wordOf]
    · have h2 : ¬ (m * 32 + l = n * 32 + lane) := by omega
      rw [if_neg h2]
      by_cases h3 : n + 1 ≤ m ∧ m < n + 1 + w ∧ l = lane
      · have e : m - n = (m - (n + 1)) + 1 := by omega
        rw [if_pos h3, if_pos (by omega), wordOf_succ, e]
      · rw [if_neg h3, if_neg (by omega)]

theorem sPut_get : ∀ (w n : Nat) (v : Nat) (co : Coil) (m : Nat),
    tgetD (co.sPut n w v).s m 0 = if n ≤ m ∧ m < n + w then wordOf v (m - n) else tgetD co.s m 0
  | 0, n, v, co, m => by rw [Coil.sPut, if_neg (by omega)]
  | w + 1, n, v, co, m => by
    rw [Coil.sPut, sPut_get w (n + 1) _ _ m, tgetD_tput]
    by_cases h1 : m = n
    · subst h1; rw [if_neg (by omega), if_pos rfl, if_pos (by omega)]; simp [wordOf]
    · rw [if_neg h1]
      by_cases h3 : n + 1 ≤ m ∧ m < n + 1 + w
      · have e : m - n = (m - (n + 1)) + 1 := by omega
        rw [if_pos h3, if_pos (by omega), wordOf_succ, e]
      · rw [if_neg h3, if_neg (by omega)]

theorem dst_s_of_v (co : Coil) (lane w : Nat) (n : BitVec 8) (v : Nat) : (co.dst lane w (.v n) v).s = co.s := (vPut_same ..).1
theorem dst_v_of_s (co : Coil) (lane w : Nat) (n : BitVec 8) (v : Nat) : (co.dst lane w (.s n) v).v = co.v := (sPut_same ..).1

theorem dst_same (co : Coil) (lane w : Nat) (d : Dst) (v : Nat) : SameButRegs co (co.dst lane w d v) := by
  cases d with
  | v n => exact (vPut_same ..).2
  | s n => exact (sPut_same ..).2
  | m n => rfl
  | sp n => rfl

/-- The results of a list of lanes written one after another. -/
theorem dst_fold (d : Dst) (w : Nat) (val : Nat → Nat) : ∀ (act : List Nat) (co : Coil), (∀ l ∈ act, l < 32) →
    WritesD co (act.foldl (fun co l => co.dst l w d (val l)) co) d w act val
  | [], co, _ => by
    refine ⟨rfl, ?_, ?_⟩
    · intro n l _; cases d <;> simp
    · intro n; cases d <;> simp
  | l :: act, co, h => by
    have ih := dst_fold d w val act (co.dst l w d (val l)) (fun x hx => h x (List.mem_cons_of_mem _ hx))
    have hl := h l (List.mem_cons_self ..)
    rw [List.foldl_cons]
    obtain ⟨i1, i2, i3⟩ := ih
    refine ⟨?_, ?_, ?_⟩
    · exact i1.trans (by rw [dst_same co l w d (val l)])
    · intro n j hj
      rw [i2 n j hj]
      cases d with
      | v m =>
        dsimp only
        rw [show (co.dst l w (.v m) (val l)).v = (co.vPut l m.toNat w (val l)).v from rfl, vPut_get l hl w _ _ _ n j hj]
        by_cases h1 : m.toNat ≤ n ∧ n < m.toNat + w ∧ j ∈ act
        · rw [if_pos h1, if_pos ⟨h1.1, h1.2.1, List.mem_cons_of_mem _ h1.2.2⟩]
        · rw [if_neg h1]
          by_cases h2 : m.toNat ≤ n ∧ n < m.toNat + w ∧ j = l
          · rw [if_pos h2, if_pos ⟨h2.1, h2.2.1, by rw [h2.2.2]; exact List.mem_cons_self ..⟩, h2.2.2]
          · rw [if_neg h2, if_neg]
            rintro ⟨a, b, hm⟩
            rcases List.mem_cons.mp hm with e | e
            · exact h2 ⟨a, b, e⟩
            · exact h1 ⟨a, b, e⟩
      | s m => dsimp only; rw [dst_v_of_s]
      | m _ => rfl
      | sp _ => rfl
    · intro n
      rw [i3 n]
      cases d with
      | s m =>
        have hs : ∀ k, tgetD (co.dst l w (.s m) (val l)).s k 0 = if m.toNat ≤ k ∧ k < m.toNat + w then wordOf (val l) (k - m.toNat) else tgetD co.s k 0 :=
          fun k => sPut_get w _ _ _ k
        cases act with
        | nil => simp only [List.getLast?_nil, List.getLast?_singleton, hs]
        | cons b t =>
          rw [List.getLast?_cons_cons]
          cases ht : (b :: t).getLast? with
          | none => simp at ht
          | some q => simp only [hs]; split <;> rfl
      | v m => dsimp only; rw [dst_s_of_v]
      | m _ => rfl
      | sp _ => rfl

theorem active_lt (s : State) (gid c : Nat) (lanes : W32) (x : XOp) : ∀ l ∈ active s gid c lanes x, l < 32 := by
  intro l hl; exact ((mem_laneList _ _).mp hl).1

/-- An instruction that computes one value for each active thread. -/
theorem perLane_writes {s : State} {gid c : Nat} {lanes : W32} {pc : W64} {x : XOp} {rs : List Named} (h : Ready s gid c lanes pc x rs)
    (w : Nat) (f : Ctx → Nat → Nat) :
    ∃ co', issueOn x rs (perLane w f) s = after s gid c co' ∧
      WritesD (issued s gid c lanes (nextPc pc x)) co' x.dst w (active s gid c lanes x) (f (ctxOf s gid c lanes pc x)) := by
  refine ⟨_, ?_, dst_fold x.dst w (f (ctxOf s gid c lanes pc x)) _ _ (active_lt s gid c lanes x)⟩
  rw [issueOn_done h (perLane w f) rfl]
  unfold Ctx.write Ctx.modCo issuedState
  simp only [List.foldl_map]; rw [show (ctxOf s gid c lanes pc x).gid = gid from rfl, show (ctxOf s gid c lanes pc x).c = c from rfl, after_modCoil]
  rfl

end Sys2Proof.Laws
end

