-- ==== Sys2Proof/Laws/Matrix.lean ====
section
/-! SUPPORT. The matrix context of a group: names, physical scale registers and rows read back as they were written, and a write of a name goes to a register
that no instruction in the queue reads (R389). -/
namespace Sys2Proof.Laws
open Sys2Proof.Machine

@[simp] theorem setZ_queue (m : Machine.Matrix) (n p : Nat) (z : ZReg) : (m.setZ n p z).queue = m.queue := rfl
@[simp] theorem setZ_rows (m : Machine.Matrix) (n p : Nat) (z : ZReg) : (m.setZ n p z).rows = m.rows := rfl
@[simp] theorem setZ_streams (m : Machine.Matrix) (n p : Nat) (z : ZReg) : (m.setZ n p z).streams = m.streams := rfl
@[simp] theorem setZ_checking (m : Machine.Matrix) (n p : Nat) (z : ZReg) : (m.setZ n p z).checking = m.checking := rfl
@[simp] theorem setRow_z (m : Machine.Matrix) (r : Nat) (a : AccRow) : (m.setRow r a).z = m.z := rfl
@[simp] theorem setRow_zmap (m : Machine.Matrix) (r : Nat) (a : AccRow) : (m.setRow r a).zmap = m.zmap := rfl
@[simp] theorem setRow_queue (m : Machine.Matrix) (r : Nat) (a : AccRow) : (m.setRow r a).queue = m.queue := rfl
@[simp] theorem setRow_streams (m : Machine.Matrix) (r : Nat) (a : AccRow) : (m.setRow r a).streams = m.streams := rfl
@[simp] theorem setRow_checking (m : Machine.Matrix) (r : Nat) (a : AccRow) : (m.setRow r a).checking = m.checking := rfl
@[simp] theorem pop_z (m : Machine.Matrix) (st : Nat) : (m.pop st).z = m.z := rfl
@[simp] theorem pop_zmap (m : Machine.Matrix) (st : Nat) : (m.pop st).zmap = m.zmap := rfl
@[simp] theorem pop_rows (m : Machine.Matrix) (st : Nat) : (m.pop st).rows = m.rows := rfl
@[simp] theorem pop_queue (m : Machine.Matrix) (st : Nat) : (m.pop st).queue = m.queue := rfl
@[simp] theorem pop_checking (m : Machine.Matrix) (st : Nat) : (m.pop st).checking = m.checking := rfl

@[simp] theorem setZ_phys_same (m : Machine.Matrix) (n p : Nat) (z : ZReg) : (m.setZ n p z).phys n = p := by simp [Machine.Matrix.setZ, Machine.Matrix.phys]
theorem setZ_phys_other (m : Machine.Matrix) {n i : Nat} (p : Nat) (z : ZReg) (h : i ≠ n) : (m.setZ n p z).phys i = m.phys i := by
  simp [Machine.Matrix.setZ, Machine.Matrix.phys, tgetD_tput, h]

@[simp] theorem setZ_z_same (m : Machine.Matrix) (n p : Nat) (z : ZReg) : (m.setZ n p z).z_ n = z := by
  simp [Machine.Matrix.z_, Machine.Matrix.setZ, Machine.Matrix.phys]

/-- A write of a name leaves every name of another physical register. -/
theorem setZ_z_other (m : Machine.Matrix) {n p i : Nat} (z : ZReg) (h : i ≠ n) (hp : m.phys i ≠ p) : (m.setZ n p z).z_ i = m.z_ i := by
  rw [Machine.Matrix.z_, setZ_phys_other m p z h]
  simp [Machine.Matrix.z_, Machine.Matrix.setZ, tgetD_tput, hp]

@[simp] theorem setRow_row_same (m : Machine.Matrix) (r : Nat) (a : AccRow) : (m.setRow r a).row r = a := by simp [Machine.Matrix.setRow, Machine.Matrix.row]
theorem setRow_row_other (m : Machine.Matrix) {r i : Nat} (a : AccRow) (h : i ≠ r) : (m.setRow r a).row i = m.row i := by
  simp [Machine.Matrix.setRow, Machine.Matrix.row, tgetD_tput, h]

/-- What the choice of a physical register can be: one that no instruction in the queue reads, and, unless it is the name's own, one that no name of the group maps to. -/
theorem zTarget_free {m : Machine.Matrix} {g n p : Nat} (h : m.zTarget g n = some p) :
    m.held p = false ∧ (p = m.phys n ∨ (p < 8 * g ∧ ∀ i < 4 * g, m.phys i ≠ p)) := by
  unfold Machine.Matrix.zTarget at h
  split at h
  · next hq => cases h; exact ⟨by simpa using hq, .inl rfl⟩
  · have hp := List.find?_some h
    have hm := List.mem_of_find?_eq_some h
    simp only [Bool.and_eq_true, Bool.not_eq_true', List.all_eq_true, List.mem_range, decide_eq_true_eq] at hp hm
    exact ⟨hp.1, .inr ⟨hm, hp.2⟩⟩

end Sys2Proof.Laws
end

