-- ==== Sys2Proof/Laws/Memory.lean ====
section
/-! SUPPORT. Cells: what a byte reads after a write, and the canonical form that every write keeps; bytes and numbers. -/
namespace Sys2Proof.Laws
open Sys2Proof.Machine

theorem cellsFrom_mono : ∀ (m : Cells) (lo lo' : Nat), lo' ≤ lo → cellsFrom lo m = true → cellsFrom lo' m = true
  | [], _, _, _, _ => rfl
  | (a, b) :: t, lo, lo', h, hm => by
    simp only [cellsFrom, Bool.and_eq_true, decide_eq_true_eq] at hm ⊢
    exact ⟨⟨Nat.le_trans h hm.1.1, hm.1.2⟩, hm.2⟩

/-- In canonical form nothing is listed below the least address. -/
theorem cellGet_below : ∀ (m : Cells) (lo a : Nat), cellsFrom lo m = true → a < lo → cellGet m a = 0
  | [], _, _, _, _ => rfl
  | (k, b) :: t, lo, a, hm, h => by
    simp only [cellsFrom, Bool.and_eq_true, decide_eq_true_eq] at hm
    rw [cellGet, if_neg (by omega)]
    exact cellGet_below t (k + 1) a hm.2 (by omega)

theorem cellPut_from : ∀ (m : Cells) (lo a : Nat) (b : Byte), cellsFrom lo m = true → lo ≤ a → cellsFrom lo (cellPut m a b) = true
  | [], lo, a, b, _, h => by
    simp only [cellPut]; split
    · rfl
    · rename_i hb; simp only [cellsFrom, Bool.and_eq_true, decide_eq_true_eq]; exact ⟨⟨h, hb⟩, trivial⟩
  | (k, c) :: t, lo, a, b, hm, h => by
    simp only [cellsFrom, Bool.and_eq_true, decide_eq_true_eq] at hm
    obtain ⟨⟨h1, h2⟩, h3⟩ := hm
    simp only [cellPut]
    split
    · split
      · simp only [cellsFrom, Bool.and_eq_true, decide_eq_true_eq]; exact ⟨⟨h1, h2⟩, h3⟩
      · rename_i hak hb
        simp only [cellsFrom, Bool.and_eq_true, decide_eq_true_eq]
        exact ⟨⟨h, hb⟩, ⟨⟨by omega, h2⟩, h3⟩⟩
    · split
      · split
        · exact cellsFrom_mono t (k + 1) lo (by omega) h3
        · rename_i hak hb
          simp only [cellsFrom, Bool.and_eq_true, decide_eq_true_eq]
          exact ⟨⟨h, hb⟩, by rw [‹a = k›]; exact h3⟩
      · simp only [cellsFrom, Bool.and_eq_true, decide_eq_true_eq]
        exact ⟨⟨h1, h2⟩, cellPut_from t (k + 1) a b h3 (by omega)⟩

/-- A write keeps the canonical form. -/
theorem cellPut_wf (m : Cells) (a : Nat) (b : Byte) (h : Memory.wf m = true) : Memory.wf (cellPut m a b) = true :=
  cellPut_from m 0 a b h (Nat.zero_le a)

theorem cellsWrite_wf : ∀ (bs : List Byte) (m : Cells) (a : Nat), Memory.wf m = true → Memory.wf (cellsWrite m a bs) = true
  | [], _, _, h => h
  | b :: t, m, a, h => cellsWrite_wf t (cellPut m a b) (a + 1) (cellPut_wf m a b h)

theorem cellGet_cellPut_from : ∀ (m : Cells) (lo a j : Nat) (b : Byte), cellsFrom lo m = true →
    cellGet (cellPut m a b) j = if j = a then b else cellGet m j
  | [], _, a, j, b, _ => by
    simp only [cellPut]; split
    · rename_i hb; subst hb; simp [cellGet]
    · simp [cellGet]
  | (k, c) :: t, lo, a, j, b, hm => by
    simp only [cellsFrom, Bool.and_eq_true, decide_eq_true_eq] at hm
    obtain ⟨⟨h1, h2⟩, h3⟩ := hm
    simp only [cellPut]
    split
    · rename_i hak
      split
      · rename_i hb; subst hb
        by_cases hj : j = a
        · subst hj; rw [if_pos rfl, cellGet, if_neg (by omega)]; exact cellGet_below t (k + 1) _ h3 (by omega)
        · rw [if_neg hj]
      · simp only [cellGet]
    · split
      · rename_i hak; subst hak
        split
        · rename_i hb; subst hb
          by_cases hj : j = a
          · subst hj; rw [if_pos rfl]; exact cellGet_below t (j + 1) j h3 (by omega)
          · rw [if_neg hj, cellGet, if_neg hj]
        · by_cases hj : j = a <;> simp [cellGet, hj]
      · rename_i hlt hne
        simp only [cellGet]
        split
        · rename_i hjk; subst hjk; rw [if_neg]; exact fun e => hne e.symm
        · exact cellGet_cellPut_from t (k + 1) a j b h3

/-- Read after write of one byte, at the same address and at every other. -/
theorem cellGet_cellPut (m : Cells) (a j : Nat) (b : Byte) (h : Memory.wf m = true) :
    cellGet (cellPut m a b) j = if j = a then b else cellGet m j := cellGet_cellPut_from m 0 a j b h

/-- Read after a write of several bytes. -/
theorem cellGet_cellsWrite : ∀ (bs : List Byte) (m : Cells) (a j : Nat), Memory.wf m = true →
    cellGet (cellsWrite m a bs) j = if a ≤ j ∧ j < a + bs.length then bs.getD (j - a) 0 else cellGet m j
  | [], m, a, j, _ => by rw [if_neg (fun h => Nat.not_lt.mpr h.1 h.2)]; rfl
  | b :: t, m, a, j, h => by
    rw [cellsWrite, cellGet_cellsWrite t _ (a + 1) j (cellPut_wf m a b h), cellGet_cellPut m a j b h]
    by_cases h1 : j = a
    · subst h1; rw [if_neg (by omega), if_pos rfl, if_pos (by simp)]; simp
    · by_cases h2 : a + 1 ≤ j ∧ j < a + 1 + t.length
      · have e : j - a = (j - (a + 1)) + 1 := by omega
        rw [if_pos h2, if_pos (by simp; omega), e]; simp
      · rw [if_neg h2, if_neg h1, if_neg (by simp; omega)]

theorem leBytes_length : ∀ (n v : Nat), (leBytes n v).length = n
  | 0, _ => rfl
  | n + 1, v => by simp [leBytes, leBytes_length n]

/-- The bytes of a number read back as the number, modulo its width. -/
theorem leNat_leBytes : ∀ (n v : Nat), leNat (leBytes n v) = v % 256 ^ n
  | 0, v => by simp [leBytes, leNat, Nat.mod_one]
  | n + 1, v => by
    rw [leBytes, leNat, leNat_leBytes n, Nat.pow_succ', Nat.mod_mul]
    simp

theorem cellsBytes_length (m : Cells) : ∀ (n a : Nat), (cellsBytes m a n).length = n
  | 0, _ => rfl
  | n + 1, a => by simp [cellsBytes, cellsBytes_length m n]

theorem cellsBytes_cellsWrite : ∀ (bs : List Byte) (m : Cells) (a : Nat), Memory.wf m = true →
    cellsBytes (cellsWrite m a bs) a bs.length = bs := by
  intro bs m a h
  have key : ∀ (n i : Nat), i + n = bs.length → cellsBytes (cellsWrite m a bs) (a + i) n = bs.drop i := by
    intro n
    induction n with
    | zero => intro i hi; rw [cellsBytes, List.drop_eq_nil_of_le (by omega)]
    | succ n ih =>
      intro i hi
      have hlt : i < bs.length := by omega
      have hd : bs.drop i = bs[i] :: bs.drop (i + 1) := List.drop_eq_getElem_cons hlt
      rw [cellsBytes, Nat.add_assoc, ih (i + 1) (by omega), cellGet_cellsWrite bs m a _ h, if_pos (by omega), hd]
      simp [List.getD_eq_getElem?_getD, hlt]
  simpa using key bs.length 0 (by omega)

/-! ## The form kept by every operation over memory -/

/-- The memory of a state is in canonical form. -/
abbrev MemOk (s : State) : Prop := Memory.wf s.mem = true

theorem putPhys_ok (s : State) (pa : Nat) (bs : List Byte) (h : MemOk s) : MemOk (putPhys s pa bs) := by
  unfold putPhys; dsimp only; split
  · split <;> exact h
  · exact cellsWrite_wf bs s.mem pa h

theorem physWrite_ok (s : State) (pa : Nat) (bs : List Byte) (h : MemOk s) : MemOk (physWrite s pa bs) := putPhys_ok s pa bs h

theorem mergeBytes_ok (line : Nat) (d : DirtyLine) : ∀ (n : Nat) (s : State), MemOk s → MemOk (mergeBytes s line d n)
  | 0, _, h => h
  | n + 1, s, h => by
    unfold mergeBytes; dsimp only; split
    · exact physWrite_ok _ _ _ (mergeBytes_ok line d n s h)
    · exact mergeBytes_ok line d n s h

theorem mergeLine_ok (line : Nat) (d : DirtyLine) (bad : List Nat) (s : State) (h : MemOk s) : MemOk (mergeLine s line d bad) :=
  mergeBytes_ok line d 128 s h

/-- A fold keeps the form if each of its steps does. -/
theorem foldl_ok {α : Type} (f : State → α → State) (hf : ∀ s x, MemOk s → MemOk (f s x)) : ∀ (l : List α) (s : State), MemOk s → MemOk (l.foldl f s)
  | [], _, h => h
  | x :: t, s, h => foldl_ok f hf t (f s x) (hf s x h)

theorem regionWriteBack_ok (s : State) (r line : Nat) (h : MemOk s) : MemOk (regionWriteBack s r line) := by
  unfold regionWriteBack; split
  · rename_i d _
    exact mergeLine_ok line d (s.region r).cache.bad (recallOwners s 192 line) h
  · exact h

theorem recallRegions_ok (s : State) (line : Nat) (h : MemOk s) : MemOk (recallRegions s line) :=
  foldl_ok _ (fun s r hs => regionWriteBack_ok s r line hs) _ s h

theorem recallOwners_ok (s : State) (k line : Nat) (h : MemOk s) : MemOk (recallOwners s k line) := h

theorem recallLines_ok (s : State) (k pa n : Nat) (h : MemOk s) : MemOk (recallLines s k pa n) :=
  foldl_ok _ (fun t _ ht => recallOwners_ok t k _ ht) _ _ h

theorem deviceWrite_ok (s : State) (k pa : Nat) (bs : List Byte) (h : MemOk s) : MemOk (deviceWrite s k pa bs) :=
  physWrite_ok _ _ _ (recallOwners_ok _ _ _ (recallRegions_ok _ _ h))

theorem deviceLines_ok (s : State) (pa : Nat) (bs : List Byte) (h : MemOk s) : MemOk (deviceLines s pa bs) :=
  foldl_ok _ (fun t a ht => deviceWrite_ok t 192 a _ ht) _ _ h

theorem trimRegion_ok (s : State) (r : Nat) (h : MemOk s) : MemOk (trimRegion s r) := by
  unfold trimRegion; split
  · split
    · exact regionWriteBack_ok s r _ h
    · exact h
  · exact h

theorem l1WriteBack_ok (s : State) (k line scope : Nat) (h : MemOk s) : MemOk (l1WriteBack s k line scope) := by
  unfold l1WriteBack; split
  · dsimp only; split
    · exact trimRegion_ok _ _ h
    · exact mergeLine_ok line _ _ _ (recallOwners_ok _ _ _ (recallRegions_ok _ _ h))
  · exact h

theorem trimL1_ok (s : State) (k : Nat) (h : MemOk s) : MemOk (trimL1 s k) := by
  unfold trimL1; dsimp only; split
  · split
    · exact h
    · exact l1WriteBack_ok s k _ 2 h
    · exact h
  · exact h

theorem fillClean_ok (s : State) (k leaf scope pa : Nat) (h : MemOk s) : MemOk (fillClean s k leaf scope pa) := by
  unfold fillClean; split
  · exact h
  · exact trimL1_ok _ _ h

theorem loadNote_ok (s : State) (k leaf scope pa n : Nat) (h : MemOk s) : MemOk (loadNote s k leaf scope pa n) := by
  unfold loadNote; split
  · exact fillClean_ok s k leaf scope pa h
  · exact h

theorem noteHints_ok (s : State) (k cache : Nat) (lines : List Nat) (h : MemOk s) : MemOk (noteHints s k cache lines) := by
  unfold noteHints; split <;> exact h

theorem releaseAt_ok (s : State) (k scope : Nat) (h : MemOk s) : MemOk (releaseAt s k scope) := by
  unfold releaseAt; split
  · exact h
  · dsimp only
    refine foldl_ok _ (fun s l hs => l1WriteBack_ok s k l scope hs) _ _ ?_
    split
    · exact foldl_ok _ (fun s l hs => regionWriteBack_ok s _ l hs) _ _ h
    · exact h

theorem endBlock_ok (s : State) (id : Nat) (h : MemOk s) : MemOk (endBlock s id) := by
  unfold endBlock; split
  · rename_i b _
    exact foldl_ok _ (fun s e hs => l1WriteBack_ok s b.core e.1 2 hs) b.lines s h
  · exact h

theorem acquireAt_ok (s : State) (k gid scope : Nat) (h : MemOk s) : MemOk (acquireAt s k gid scope) := by
  unfold acquireAt; split
  · exact h
  · exact foldl_ok endBlock (fun s id hs => endBlock_ok s id hs) _ s h

theorem storeBytes_ok (s : State) (k leaf scope pa : Nat) (bs : List Byte) (h : MemOk s) : MemOk (storeBytes s k leaf scope pa bs) := by
  unfold storeBytes; split
  · exact deviceWrite_ok _ k pa bs h
  · split
    · exact trimL1_ok _ _ h
    · split
      · exact trimRegion_ok _ _ h
      · exact deviceWrite_ok _ k pa bs h

theorem atomicPlace_ok (s : State) (k leaf pa place : Nat) (h : MemOk s) : MemOk (atomicPlace s k leaf pa place) := h

theorem atomicStep_ok (s : State) (k leaf pa size place : Nat) (f : Nat → Option Nat) (h : MemOk s) :
    MemOk (atomicStep s k leaf pa size place f).2 := by
  unfold atomicStep; dsimp only
  have h2 := atomicPlace_ok _ k leaf pa place (recallRegions_ok _ (pa / 128) (l1WriteBack_ok s k (pa / 128) 3 h))
  generalize atomicPlace _ _ _ _ _ = q at h2 ⊢
  split
  · rename_i v _
    have h3 : MemOk (physWrite (q.modCore k (fun c => { c with l1 := dirtyClear c.l1 pa (leBytes size v) })) pa (leBytes size v)) :=
      physWrite_ok _ _ _ h2
    revert h3; generalize physWrite _ _ _ = r; intro h3
    split <;> exact h3
  · exact h2

theorem publishEntry_ok (s : State) (asid n : Nat) (h : MemOk s) : MemOk (publishEntry s asid n) := by
  unfold publishEntry; split
  · exact deviceWrite_ok _ _ _ _ h
  · exact h

/-- Memory after module reset lists nothing. -/
theorem reset_ok : MemOk State.reset := rfl

end Sys2Proof.Laws
end

