-- ==== Sys2Proof/Tests/Slice0.lean ====
section
/-! SUPPORT. Tests: for each obligation a state and operands that meet its hypotheses, clause by clause; ill-formed terms that the checks of
well-formedness refuse; and values that the worked examples of the spec give. -/
set_option Elab.async false
namespace Sys2Proof.Tests
open Sys2Proof.Machine Sys2Proof.Claims

/-! ## Small states -/

/-- `Ready` as a check. -/
def readyB (s : State) (gid c : Nat) (lanes : W32) (pc : W64) (x : XOp) (rs : List Named) : Bool :=
  s.cur == .coil gid c lanes pc && (s.group? gid).isSome && decide (c < (s.group gid).coils.length)
    && activeOf (s.coil gid c) x lanes != 0
    && rs.all (fun r => !r.illegal (s.coil gid c).granules
      && (laneList (activeOf (s.coil gid c) x lanes)).all (fun l => !r.bad (s.coil gid c) l && !r.empty (s.coil gid c) l && (!r.isD || !r.struck (s.coil gid c) l)))

theorem ready_of {s : State} {gid c : Nat} {lanes : W32} {pc : W64} {x : XOp} {rs : List Named} (h : readyB s gid c lanes pc x rs = true) :
    Ready s gid c lanes pc x rs := by
  simp only [readyB, Bool.and_eq_true, Bool.or_eq_true, List.all_eq_true, bne_iff_ne, beq_iff_eq, decide_eq_true_eq, Bool.not_eq_true'] at h
  obtain ⟨⟨⟨⟨h1, h2⟩, h3⟩, h4⟩, h5⟩ := h
  exact { cur := h1, group := h2, coil := h3, active := h4, legal := fun r hr => (h5 r hr).1,
          clean := fun r hr l hl => ((h5 r hr).2 l hl).1.1, full := fun r hr l hl => ((h5 r hr).2 l hl).1.2
          sound := fun r hr hd l hl => (((h5 r hr).2 l hl).2).resolve_left (by simp [hd]) }

/-- Where no trap is enabled, no flag meets one. -/
theorem quiet_of {co : Coil} {act : List Nat} {fl : Nat → Flags} (h : act.all (fun l => (co.thread l).fptrap == 0) = true) : Quiet co act fl := by
  intro l hl
  have := List.all_eq_true.mp h l hl
  simp only [beq_iff_eq] at this
  simp [this]

/-- A coil that holds no error may release. -/
theorem mayRelease_of {s : State} {gid c : Nat} {lanes : List Nat} (h : (s.coil gid c).bad = []) : MayRelease s gid c lanes := by
  intro l _ k hk; simp [h] at hk

/-- A launch with every granule, two units of local memory, a row group, a granule of scale registers, a stream pair, a handler and, in its slots, FP4
without scales, HS4 with E3M5 blocks and bands, FP4 with E3M5 blocks and bands, 4-of-8 FP4, FP4 with E8M0 blocks and bands, BF16 and E4M3. -/
def launch0 : Launch := { placedLaunch with rec_ := { placedLaunch.rec_ with
  spair := 1, lmem := 2, fslots := [0, 0x525, 0x520, 0x800, 0x620, 8, 3, 0] } }
/-- Group 0 on core 0 has one coil, which executes for `lanes` at pc 0; virtual page 0 is the last page of device memory. -/
def small (co : Coil) (lanes : W32) : State :=
  { disp := { launches := [(0, launch0)], clusters := [(0, { launch := 0, x := 0, y := 0, z := 0, groups := [0] })] }
    cor := { groups := [(0, { placedGroup with coils := [co] })], cores := [(0, { tlb := [(0, 0, placedPage + 15)] })] }
    cur := .coil 0 0 lanes 0 }
def coil0 : Coil := { threads := List.replicate 32 {}, granules := 32 }
def op (d : Dst) (a b c : Src) (fn : BitVec 7 := 0) (e : Ext := .none) : XOp := { msk := 15, mn := false, dst := d, a, b, c, fn, ext := e }
/-- Operands at the last registers, which a pair and a quad may begin at or below. -/
def top : XOp := op (.v 254) (.v 254 false) (.s 254 false) (.v 254 false)
/-- The word and the memory fields of a second word. -/
def memExt (off : BitVec 24) (scope order : Nat) : Ext := .m off (BitVec.ofNat 3 scope) (BitVec.ofNat 3 order) false 0 0 0 0 0

/-! ## Xamal: witnesses -/

theorem witness_IntegerResults : ∀ x ∈ [top, { top with fn := 1 }, { top with fn := 2 }], iTy x < 3 ∧
    ∀ e ∈ arithTable ++ logicTable ++ fieldTable ++ scanTable, Ready (small coil0 3) 0 0 3 0 x (namedOf x (e.needs x)) := by
  intro x hx; refine ⟨by revert x; decide, fun e he => ready_of ?_⟩; revert e; revert x; decide

theorem witness_IntegerCompare : (∀ x ∈ [{ top with fn := 0x2A }, { top with dst := .m 11, fn := 2 }], iTy x < 3 ∧
      Ready (small coil0 3) 0 0 3 0 x (namedOf x { a := wI x, b := wI x, d := 1 })) ∧
    ∀ x ∈ [top, { top with fn := 1 }], iTy x < 3 ∧ Ready (small coil0 3) 0 0 3 0 x (namedOf x { a := wI x, b := wI x, c := 1, d := wI x }) :=
  ⟨fun x hx => ⟨by revert x; decide, ready_of (by revert x; decide)⟩, fun x hx => ⟨by revert x; decide, ready_of (by revert x; decide)⟩⟩

/-- A shuffle, a `VTOS` and a `STOV` on lane 31, whose thread is not in the issue group. -/
theorem witness_LaneExchange :
    let x := op (.v 255) (.v 0 false) (.imm 31) .zero
    let y := op (.s 255) (.v 255 false) (.imm 31) .zero
    let z := op (.v 255) (.s 255 false) (.imm 31) .zero
    (iTy x < 3 ∧ Ready (small coil0 3) 0 0 3 0 x (namedOf x { a := wI x, b := 1, d := wI x })) ∧
    (Ready (small coil0 3) 0 0 3 0 y (namedOf y { b := 1, d := wI y }) ∧
      ∀ r ∈ namedSrc y.a (wI y), r.illegal coil0.granules = false ∧ r.bad coil0 31 = false ∧ r.empty coil0 31 = false) ∧
    (Ready (small coil0 3) 0 0 3 0 z (namedOf z { a := wI z, b := 1 }) ∧
      ∀ r ∈ namedDst z.dst (wI z), r.illegal coil0.granules = false ∧ r.bad coil0 31 = false ∧ r.empty coil0 31 = false) :=
  ⟨⟨by decide, ready_of (by decide)⟩, ⟨ready_of (by decide), by decide⟩, ⟨ready_of (by decide), by decide⟩⟩

/-- For FP32, FP64, BF16 pairs and FP16 pairs, and under SR, whose C is the random source. -/
theorem witness_FloatResults : ∀ x ∈ [top, { top with fn := 1 }, { top with fn := 2 }, { top with fn := 3 }, { top with fn := 0x10 }],
    (∀ e ∈ floatTable ++ specialTable, Ready (small coil0 3) 0 0 3 0 x (namedOf x (e.needs x)) ∧
      Quiet coil0 (active (small coil0 3) 0 0 3 x) (fun l => (e.val x coil0 l).2)) ∧
    Ready (small coil0 3) 0 0 3 0 x (namedOf x { a := ftWords x, d := ftWords x }) ∧
    Ready (small coil0 3) 0 0 3 0 x (namedOf x { a := ftWords x, b := ftWords x, d := 1 }) ∧
    Ready (small coil0 3) 0 0 3 0 { x with dst := .m 11 } (namedOf { x with dst := .m 11 } { a := ftWords x, b := ftWords x, d := 1 }) ∧
    Quiet coil0 (active (small coil0 3) 0 0 3 x) (fcmpFlags x coil0) := by
  intro x hx
  refine ⟨fun e he => ⟨ready_of ?_, quiet_of ?_⟩, ready_of ?_, ready_of ?_, ready_of ?_, quiet_of ?_⟩
  all_goals first | (revert e; revert x; decide) | (revert x; decide)

/-- FP32 to E4M3, to INT8 and under the slot 6, a quotient, two halves packed, and the last pair of an HS4 register widened. -/
theorem witness_ConversionResults :
    let s := small coil0 3
    let x (f t : BitVec 5) (n : BitVec 3) : XOp := op (.v 252) (.v 252 false) (.imm 3) (.v 255 false) 6 (.c f t n)
    let u : XOp := op (.v 254) (.v 255 false) (.imm 1) (.v 0 false) 0 (.c 3 10 0)
    (∀ p ∈ [((.cvt (x 10 3 0) : Instr), x 10 3 0), (.cvt (x 10 18 6), x 10 18 6), (.cvti (x 10 12 0), x 10 12 0), (.qnt (x 10 3 0), x 10 3 0), (.pack (x 10 3 0), x 10 3 0)],
      convLegal (convOpc p.1) p.2 s = true) ∧
    (∀ p ∈ (convTable s).zip [x 10 3 0, x 10 12 0, x 10 3 0, x 10 3 0], convLegal (convOpc (p.1.make p.2)) p.2 s = true ∧
      Ready s 0 0 3 0 p.2 (namedOf p.2 (p.1.needs p.2)) ∧ Quiet coil0 (active s 0 0 3 p.2) (fun l => (p.1.val p.2 coil0 l).2)) ∧
    convLegal 0x64 u s = true ∧ Ready s 0 0 3 0 u (namedOf u { a := 1, b := 1, d := 2 }) ∧
    (∀ l ∈ active s 0 0 3 u, opB u coil0 .i32 l < 16 / fmtBits (convFrom u s)) ∧ Quiet coil0 (active s 0 0 3 u) (fun l => (unpkVal s u coil0 l).2) := by
  refine ⟨by decide, fun p hp => ⟨?_, ready_of ?_, quiet_of ?_⟩, by decide, ready_of (by decide), by decide, quiet_of (by decide)⟩
  all_goals (revert p; decide)

/-- Every operand shape of the transfers and waits, with the last link register. -/
theorem witness_ControlResults : let x := op (.v 255) (.v 255 false) (.v 255 false) .zero 0 (.b 0xFFFFFFFF)
    iTy x < 3 ∧ ∀ n ∈ [({} : Needs), { a := 1 }, { d := 1 }, { a := 1, d := 1 }, { a := wI x, b := wI x }], Ready (small coil0 0x80000000) 0 0 0x80000000 0 x (namedOf x n) := by
  intro x; refine ⟨by decide, fun n hn => ready_of ?_⟩; revert n; decide

/-- Mask 0 and mask 11; a member and no member arrives; and a `MaskWrite` that leaves one waiter of two. -/
theorem witness_MaskResults :
    (∀ m ∈ [(0 : BitVec 8), 11], let x := op (.m m) (.v 255 false) (.v 255 false) .zero
      x.dst = .m m ∧ ∀ n ∈ [({} : Needs), { a := 1 }, { a := 1, b := if x.fn = 4 then 0 else 1 }], Ready (small coil0 3) 0 0 3 0 x (namedOf x n)) ∧
    (let k : Coil := { coil0 with masks := [(11, { member := 0x80000001, arrival := 0 })] }
     laneMask [31] &&& (k.mask 11).member ≠ 0 ∧ laneMask [30] &&& (k.mask 11).member = 0) ∧
    (∀ r ∈ coil0.waits, r.wait = .mwait 3 → laneIn r.lanes 31 = false) := by
  refine ⟨fun m hm => ⟨rfl, fun n hn => ready_of ?_⟩, by decide, by decide⟩; revert n; revert m; decide

/-- Each special read into the last registers, and each written; `TRAPRET` in a trap and out of one. -/
theorem witness_SpecialResults :
    (∀ e ∈ specials, let x := op (.v 254) .zero .zero .zero (BitVec.ofNat 7 e.num)
      x.fn.toNat = e.num ∧ Ready (small coil0 3) 0 0 3 0 x (namedOf x { d := e.words })) ∧
    (let x := op (.v 254) .zero .zero .zero 0x14
     x.fn = 0x14 ∧ Ready (small coil0 3) 0 0 3 0 x (namedOf x { d := 1 })) ∧
    (∀ n ∈ [(0x0A : BitVec 8), 0x0B, 0x0C, 0x0D, 0x11, 0x14, 0x00, 0xFF], let x := op (.sp n) (.v 254 false) .zero .zero
      Ready (small coil0 3) 0 0 3 0 x (namedOf x { a := if n = 0x0D ∨ n = 0x11 ∨ n = 0x08 ∨ n = 0x09 ∨ n = 0x12 then 2 else 1 })) ∧
    (let co : Coil := { coil0 with threads := List.replicate 32 { intrap := true } }
     ∀ l ∈ active (small co 3) 0 0 3 (op (.sp 0x14) .zero .zero .zero), (co.thread l).intrap = true) ∧
    (∃ l ∈ active (small coil0 3) 0 0 3 (op (.sp 0x14) .zero .zero .zero), (coil0.thread l).intrap = false) := by
  refine ⟨fun e he => ⟨?_, ready_of ?_⟩, ⟨rfl, ready_of (by decide)⟩, fun n hn => ready_of ?_, by decide, by decide⟩
  · revert e; decide
  · revert e; decide
  · revert n; decide

def frag0 : ThreadFrag := { pass := 1, render := 1, idx := 0, xy := 0, info := 0x1FFFE0, visid := 1, key := 0, seq := 0 }
/-- Lane 31 holds a fragment of a shading wave. -/
def shading0 : Coil := { coil0 with shading := true, threads := List.replicate 31 {} ++ [{ frag := some frag0 }] }

theorem witness_ThreadEnds :
    let x := op (.v 0) (.imm 0x7F) .zero .zero
    let s := small shading0 0x80000000
    Ready s 0 0 0x80000000 0 x [] ∧ (s.coil 0 0).task = none ∧ MayRelease s 0 0 (active s 0 0 0x80000000 x) ∧ badColour (s.coil 0 0) (active s 0 0 0x80000000 x) = [] ∧
    (∀ l ∈ active s 0 0 0x80000000 x, ((s.coil 0 0).thread l).frag.isSome = true) ∧
    ((s.group? 0).isSome = true ∧ 0 < (s.group 0).coils.length ∧ 30 < (s.coil 0 0).threads.length ∧ ((s.coil 0 0).thread 30).keys = [] ∧
      ((s.coil 0 0).thread 30).frag = none ∧ ∀ r ∈ (s.coil 0 0).waits, laneIn r.lanes 30 = false) :=
  ⟨ready_of (by decide), by decide, mayRelease_of (by decide), by decide, by decide, by decide⟩

/-- A trap that is taken; and one of each kind that is fatal. -/
theorem witness_TrapEntry :
    let s := small coil0 3
    let inside : Coil := { coil0 with threads := List.replicate 32 { intrap := true } }
    let bare : State := { s with disp := { s.disp with launches := [(0, {})] } }
    ((s.group? 0).isSome = true ∧ 0 < (s.group 0).coils.length ∧ tILLEGAL_INSN ≠ tMACHINE_CHECK ∧ (s.launchOf 0).rec_.trapvec ≠ 0 ∧
      ∀ l, l < 32 → laneIn 0x80000001 l = true → ((s.coil 0 0).thread l).intrap = false) ∧
    (bare.launchOf 0).rec_.trapvec = 0 ∧ (bare.group? 0).isSome = true ∧
    (∃ l, l < 32 ∧ laneIn 0x80000000 l = true ∧ (((small inside 3).coil 0 0).thread l).intrap = true) :=
  ⟨by decide, by decide, by decide, 31, by decide⟩

/-- No thread active; an odd pair and a register past the allocation; an error pending, a poisoned unit that is read, and one that is written whole; an empty register, without its trap bit and with it. -/
theorem witness_RegisterChecks :
    let x := op (.v 0) (.v 255 true) .zero .zero 2
    let past : Coil := { coil0 with granules := 31 }
    let hole : Coil := { coil0 with vEmpty := [254 * 32 + 1] }
    let y := op (.v 0) (.v 254 false) .zero .zero
    let z := op (.v 0) (.v 254 true) .zero .zero
    let poisoned : Coil := { coil0 with struck := [({ isS := false, n := 254, w := 1 } : Named).unit (254 * 32 + 1)] }
    let wide := op (.v 254) (.v 2 false) .zero .zero 2
    Site (small coil0 3) 0 0 3 0 ∧ active (small coil0 3) 0 0 3 { x with msk := 0 } = [] ∧
    (∃ r ∈ namedOf x (one x), r.illegal coil0.granules = true) ∧ (∃ r ∈ namedOf y (one y), r.illegal past.granules = true) ∧
    (∀ co ∈ [{ coil0 with bad := [254 * 32 + 1] }, poisoned], active (small co 3) 0 0 3 y ≠ [] ∧ (∀ r ∈ namedOf y (one y), r.illegal co.granules = false) ∧
      ∃ r ∈ namedOf y (one y), ∃ l ∈ [0, 1], r.bad co l = true) ∧
    (active (small poisoned 3) 0 0 3 wide ≠ [] ∧ iTy wide < 3 ∧ (∀ r ∈ namedOf wide (one wide), r.illegal poisoned.granules = false ∧ ∀ l ∈ [0, 1], r.bad poisoned l = false ∧ r.empty poisoned l = false) ∧
      (small poisoned 3).coil 0 0 = poisoned) ∧
    (∀ q ∈ [y, z], active (small hole 3) 0 0 3 q ≠ [] ∧
      (∀ r ∈ namedOf q (one q), r.illegal hole.granules = false ∧ ∀ l ∈ [0, 1], r.bad hole l = false) ∧
      ∃ r ∈ namedOf q (one q), ∃ l ∈ [0, 1], r.empty hole l = true) ∧
    (∀ r ∈ namedOf y (one y), r.trap = true → ∀ l ∈ [0, 1], r.empty hole l = false) ∧
    (∃ r ∈ namedOf z (one z), r.trap = true ∧ ∃ l ∈ [0, 1], r.empty hole l = true) :=
  ⟨⟨by decide, by decide, by decide⟩, by decide, by decide, by decide, by decide, by decide, by decide, by decide, by decide⟩

/-! ## Xamal memory and synchronisation: witnesses -/

def pa0 (va : Nat) : Nat := placedPage + va
def leaf0 (_ : Nat) : Nat := placedPage + 15
/-- `s4` holds an address or an offset, `s6` an element or count. -/
def at_ (n : Nat) : Coil := { coil0 with s := tput (tput [] 4 (BitVec.ofNat 32 n)) 6 1 }
/-- An instruction on the address in `s4` and the data from `v252`, at a scope and under an order; 8 bytes where FN is 3. -/
def acc (fn : BitVec 7) (scope order : Nat) (off : BitVec 24 := 0) : XOp := op (.v 252) (.s 4 false) (.v 252 false) (.v 252 false) fn (memExt off scope order)

/-- The last 8 bytes of a page, and the last byte, under every order. -/
theorem witness_LoadResults : ∀ p ∈ [(3, 4080, (8 : BitVec 24)), (8, 4096, -1)], ∀ order ∈ [0, 1, 4],
    let x := acc p.1 3 order p.2.2
    let s := small (at_ p.2.1) 3
    let w := (sizeTy (mSize x)).words
    Ready s 0 0 3 0 x (namedOf x { a := 2, d := w }) ∧
    (∀ q ∈ [active s 0 0 3 x, [lowOf (active s 0 0 3 x)]], Reaches s 0 (q.map (globalAddr x (s.coil 0 0))) (mSize x) false .active pa0 leaf0 ∧
      (∀ l ∈ q, loadBad (q.foldl (fun t l => loadNote t 0 (leaf0 0) (scopeOf x) (pa0 (globalAddr x (s.coil 0 0) l)) (mSize x)) (issuedState s 0 0 3 0 x)) 0 (leaf0 0) (scopeOf x)
        (pa0 (globalAddr x (s.coil 0 0) l)) (mSize x) = false) ∧ l1Held (s.core 0).l1 + q.length ≤ l1Lines ∧ MayRelease s 0 0 q) := by
  intro p hp order ho
  refine ⟨ready_of ?_, fun q hq => ⟨?_, ?_, ?_, mayRelease_of rfl⟩⟩
  · revert order; revert p; decide
  · unfold Reaches; revert q; revert order; revert p; decide
  · revert q; revert order; revert p; decide
  · revert q; revert order; revert p; decide

theorem witness_StoreResults : ∀ order ∈ [0, 2, 4],
    let x := acc 3 4 order
    let s := small (at_ 4088) 0xFFFFFFFF
    Ready s 0 0 0xFFFFFFFF 0 x (namedOf x { a := 2, b := (sizeTy (mSize x)).words }) ∧
    Reaches s 0 ((active s 0 0 0xFFFFFFFF x).map (globalAddr x (s.coil 0 0))) (mSize x) true .active pa0 leaf0 ∧
    MayRelease s 0 0 (active s 0 0 0xFFFFFFFF x) := by
  intro order ho
  refine ⟨ready_of ?_, ?_, mayRelease_of rfl⟩
  · revert order; decide
  · unfold Reaches; revert order; decide

/-- The last bytes of two units of local memory: load, store, and an atomic with and without its second operand. -/
theorem witness_LocalAccesses :
    let s := small (at_ 8184) 3
    let ok (x : XOp) (n : Needs) (size : Nat) : Prop := Ready s 0 0 3 0 x (namedOf x n) ∧ LocalOk s 0 ((active s 0 0 3 x).map (localAddr x (s.coil 0 0))) size ∧
      (∀ l ∈ active s 0 0 3 x, localBad s 0 (localAddr x (s.coil 0 0) l) size = false) ∧ MayRelease s 0 0 (active s 0 0 3 x)
    ok (acc 3 1 0) { a := 1, d := (sizeTy (mSize (acc 3 1 0))).words } (mSize (acc 3 1 0)) ∧
    ok (acc 3 1 2) { a := 1, b := (sizeTy (mSize (acc 3 1 2))).words } (mSize (acc 3 1 2)) ∧
    ok (acc 0x10 1 0) { a := 1, b := (atTy 1).words, d := (atTy 1).words } (atBytes 1) ∧
    ok (acc 9 1 3) { a := 1, b := (atTy 0).words, c := (atTy 0).words, d := (atTy 0).words } (atBytes 0) :=
  ⟨⟨ready_of (by decide), by unfold LocalOk; decide, by decide, mayRelease_of rfl⟩, ⟨ready_of (by decide), by unfold LocalOk; decide, by decide, mayRelease_of rfl⟩,
   ⟨ready_of (by decide), by unfold LocalOk; decide, by decide, mayRelease_of rfl⟩, ⟨ready_of (by decide), by unfold LocalOk; decide, by decide, mayRelease_of rfl⟩⟩

/-- `ATOM` and `ATOMF` of each type, `CAS` with its second operand, and `RED` without D. -/
theorem witness_AtomicResults : ∀ ty ∈ [0, 1, 2, 3, 4, 5, 6], ∀ order ∈ [0, 3, 4],
    let x := acc (BitVec.ofNat 7 (16 * ty)) 3 order
    let s := small (at_ 4080) 3
    let n := (atTy ty).words
    (∀ m ∈ [({ a := 2, b := n, d := n } : Needs), { a := 2, b := n, c := n, d := n }, { a := 2, b := n }], Ready s 0 0 3 0 x (namedOf x m)) ∧
    Reaches s 0 ((active s 0 0 3 x).map (globalAddr x (s.coil 0 0))) (atBytes ty) true .active pa0 leaf0 ∧ MayRelease s 0 0 (active s 0 0 3 x) := by
  intro ty ht order ho
  refine ⟨fun m hm => ready_of ?_, ?_, mayRelease_of rfl⟩
  · revert m; revert order; revert ty; decide
  · unfold Reaches; revert order; revert ty; decide

/-- The last bytes of a line; the step that writes and the one that does not. -/
theorem witness_MemoryRules :
    let s := small coil0 3
    let bs : List Byte := [1, 2, 3, 4]
    Memory.wf s.mem = true ∧ 191 < 192 ∧ bs ≠ [] ∧ 0x107C % 128 + bs.length ≤ 128 ∧ inMailbox 0x107C = false ∧ 0x1080 / 128 ≠ 0x107C / 128 ∧
    l1Held (s.core 191).l1 < l1Lines ∧ (s.region 23).cache.dirty.length < regionLines ∧ bypass (leaf0 0) = false ∧ 2 ≤ 2 ∧ 0 < 4 ∧ tget (s.core 191).l1.dirty (0x107C / 128) = none ∧
    (∀ r, r < 24 → tget (s.region r).cache.dirty (0x107C / 128) = none) ∧ (0x107B < 0x107C ∧ 0x107C + bs.length ≤ 0x1080) ∧
    (tget (({ s with cor := { s.cor with cores := [(191, { l1 := { clean := [(0x107C / 128, 0)] } })] } } : State).core 191).l1.clean (0x107C / 128)).isSome = true := by decide

theorem witness_LineResults :
    let x := acc 0 3 1
    let y := op (.v 0) (.s 4 false) (.v 0 false) (.v 0 false) 0 (.m 0 3 4 false 0 0 0 63 1)
    let s := small (at_ 3840) 3
    let lines := (List.range ((mFields y).nlm1 + 1)).map (fun i => globalAddr y (s.coil 0 0) 0 + 128 * i)
    (∀ z ∈ [x, y], Ready s 0 0 3 0 z (namedOf z { a := 2 }) ∧ Ready s 0 0 3 0 z [] ∧
      Reaches s 0 ((active s 0 0 3 z).map (globalAddr z (s.coil 0 0))) 1 false .active pa0 leaf0) ∧
    globalAddr y (s.coil 0 0) (lowOf (active s 0 0 3 y)) % 128 = 0 ∧ Reaches s 0 lines 1 false .active pa0 leaf0 ∧ (∀ a ∈ lines, leafOrd (leaf0 a) ≠ 1) ∧
    MayRelease s 0 0 (active s 0 0 3 y) := by
  refine ⟨fun z hz => ⟨ready_of ?_, ready_of ?_, ?_⟩, by decide, by unfold Reaches; decide, by decide, mayRelease_of rfl⟩
  · revert z; decide
  · revert z; decide
  · unfold Reaches; revert z; decide

/-- The last core, flag and count; a count of 0 suffices and a count of 65,535 does not. -/
theorem witness_BarrierResults :
    let s := small coil0 3
    let x := op (.v 0) (.imm 0x3F) (.imm 0x3F) (.imm 0x7F)
    let y : XOp := { op (.v 0) (.imm 0x3F) (.s 254 false) (.v 0 false) with ext := .none }
    let big := small { coil0 with s := [(254, 65535)] } 3
    let far := small { coil0 with s := [(254, 191)] } 3
    let z := op (.v 0) (.s 254 false) (.imm 0x3F) (.imm 0x7F)
    Ready s 0 0 3 0 x [] ∧ MayRelease s 0 0 (active s 0 0 3 x) ∧
    Ready far 0 0 3 0 z (namedOf z { a := 1, b := 1, c := 1 }) ∧ MayRelease far 0 0 (laneList 3) ∧ opA z (far.coil 0 0) .i32 0 = 191 ∧ opB z (far.coil 0 0) .i32 0 < 64 ∧
    191 ∉ far.mod.coreGone ∧
    (∀ t ∈ [s, big], Ready t 0 0 3 0 y (namedOf y { a := 1, b := 1 }) ∧ opA y (t.coil 0 0) .i32 0 < 64 ∧ opB y (t.coil 0 0) .i32 0 < 2 ^ 16) ∧
    opB y (s.coil 0 0) .i32 0 ≤ s.flag 0 63 ∧ big.flag 0 63 < opB y (big.coil 0 0) .i32 0 :=
  ⟨ready_of (by decide), mayRelease_of rfl, ready_of (by decide), mayRelease_of rfl, by decide, by decide, by decide,
   fun t ht => ⟨ready_of (by revert t; decide), by revert t; decide, by revert t; decide⟩, by decide, by decide⟩

/-- Domain 255, and domain 0 in a shading wave of a pass with PROG; a key that is held is left; nothing stands against a skip. -/
theorem witness_SectionResults :
    let hold : Coil := { coil0 with threads := List.replicate 32 { keys := [{ dom := 255, key := 7, seq := 0 }] }, s := [(4, 255)] }
    let x := op (.v 254) (.s 4 false) (.imm 7) (.imm 0)
    let y := op (.v 254) (.s 4 false) (.imm 8) (.imm 0)
    let s := small hold 3
    let prog : State := { small shading0 0x80000000 with gfx := { passes := [(1, { desc := { prog := true, ordered := true }, descAddr := 0, asid := 0, launch := 0 })] } }
    (∀ l ∈ active s 0 0 3 x, opA x hold .i32 l < 256 ∧ (opA x hold .i32 l = 0 → (progFrag s (hold.thread l)).isSome = true)) ∧
    (progFrag prog (shading0.thread 31)).isSome = true ∧ MayRelease s 0 0 (active s 0 0 3 x) ∧
    (Ready s 0 0 3 0 y (namedOf y { a := 1, b := 1, c := 1, d := 1 }) ∧ (∀ l ∈ active s 0 0 3 y, orderBroken (hold.thread l) 255 8 = false) ∧
      findKey s (keySlice 255 8) 0 255 8 = none ∧ (0 : W32).toNat < 2 ^ 31) ∧
    (Ready s 0 0 3 0 x (namedOf x { a := 1, b := 1 }) ∧ (∀ l ∈ active s 0 0 3 x, ∃ h ∈ (hold.thread l).keys, h.dom = 255 ∧ h.key = 7)) ∧
    (Ready s 0 0 3 0 x (namedOf x { a := 1, b := 1, c := 1 }) ∧ (postSkips (ctxOf s 0 0 1 0 x) (issuedState s 0 0 1 0 x)).2 = ([], false)) ∧
    Ready s 0 0 3 0 x (namedOf x { a := 1, b := 1, d := 2 }) ∧
    (∀ f ∈ [enterLane, postSkip], fullAt (ctxOf s 0 0 3 0 y) (f (ctxOf s 0 0 3 0 y)) (issuedState s 0 0 3 0 y) = none) :=
  ⟨by decide, by decide, mayRelease_of rfl, ⟨ready_of (by decide), by decide, by decide, by decide⟩, ⟨ready_of (by decide), by decide⟩,
   ⟨ready_of (by decide), by decide⟩, ready_of (by decide), by decide⟩

/-- A slice with 512 keys and 64 requests waiting has no room. -/
theorem witness_SectionResults_full :
    let co : Coil := { coil0 with s := [(4, 255)] }
    let y := op (.v 254) (.s 4 false) (.imm 8) (.imm 0)
    let s : State := { small co 3 with slices := [(keySlice 255 8, { keys := List.replicate 512 (1, { asid := 0, dom := 1, key := 1 }), overflow := List.replicate 64 (0, 1, 1, { gid := 0, coil := 0, lane := 0, seq := 0 }) })] }
    Ready s 0 0 3 0 y (namedOf y { a := 1, b := 1, c := 1, d := 1 }) ∧
    ∀ f ∈ [enterLane, postSkip], fullAt (ctxOf s 0 0 3 0 y) (f (ctxOf s 0 0 3 0 y)) (issuedState s 0 0 3 0 y) = some (keySlice 255 8) :=
  ⟨ready_of (by decide +kernel), by decide +kernel⟩

/-- A group whose one thread left waits at `BAR`; a free key of a table, with the slice that its key has for its home; one that is left with the next seq
marked, two more beyond it, and a waiter of the seq that is passed; and a waiter of the next seq, which can be granted. -/
theorem witness_SynchronisationRules :
    let one : Coil := { coil0 with threads := [{ st := .waiting }], waits := [{ lanes := 1, wait := .bar, order := 0, next := 8 }] }
    let s := small one 1
    let e : KeyEntry := { asid := 0, dom := 5, key := 0x77 }
    let k := keySlice 5 0x77
    let t : State := { small coil0 1 with slices := [(k, { keys := [(1, e)] })] }
    ((s.group? 0).isSome = true ∧ arrivedAll (s.group 0) (· = .bar) = true) ∧ arrivedAll ((small coil0 1).group 0) (· = .bar) = false ∧
    (∀ g ∈ t.cor.groups, ∀ co ∈ g.2.coils, co.waits = []) ∧
    Memory.wf (t.group 0).lmem = true ∧
    (tget (t.slice k).keys 1 = some e ∧ 0 < (t.group 0).coils.length ∧ 31 < (t.coil 0 0).threads.length) ∧
    (let w : Waiter := { gid := 0, coil := 0, lane := 0, seq := 1 }
     let m : KeyEntry := { e with skips := 0xA, lateSkips := [100], waiters := [w], holder := some { gid := 0, coil := 0, lane := 1 } }
     let u : State := { small coil0 1 with slices := [(k, { keys := [(1, m)] })] }
     tget (u.slice k).keys 1 = some m ∧ findKey u k 0 5 0x77 = some (1, m) ∧ 1 ≤ 63 + m.lateSkips.length ∧
     (∀ i, i < 1 → Marked m (m.nextseq + 1 + BitVec.ofNat 32 i)) ∧ ¬ Marked m (m.nextseq + 1 + BitVec.ofNat 32 1)) ∧
    (let w : Waiter := { gid := 0, coil := 0, lane := 0, seq := 0 }
     let r : WaitRec := { lanes := 1, wait := .os (.v 254) 5 0x77 0, order := 0, next := 8 }
     let u : State := { small { coil0 with waits := [r] } 1 with slices := [(k, { keys := [(1, { e with waiters := [w] })] })] }
     e.holder = none ∧ ({ e with waiters := [w] } : KeyEntry).waiters.find? (fun w => w.seq = e.nextseq) = some w ∧
     (u.coil 0 0).waits.find? (fun r => laneIn r.lanes w.lane) = some r) := by
  unfold Marked; decide

/-- The last entry of a publish table at the start of device memory; entry and GEN at their limits. -/
theorem witness_PublishResults :
    let x := op (.v 0) (.s 6 false) (.imm 4) (.v 0 false)
    let co : Coil := { coil0 with s := [(6, 4095)] }
    let a := 2 ^ 17 + 32 * 4095
    let s : State := { small co 3 with
      xlat := { asCopies := [(0, 1, 0x20000)] }
      mem := cellsWrite [] a (leBytes 32 (2 ^ 64 * 4096 + 2 ^ 128 * 2 + 2 ^ 192 * (2 ^ 64 - 2 ^ 16))) }
    Ready s 0 0 3 0 x (namedOf x { a := 1 }) ∧ MayRelease s 0 0 (active s 0 0 3 x) ∧ opA x (s.coil 0 0) .i32 0 = 4095 ∧
    (pubEntry s (s.asidOf 0) 4095).map (·.gen) = some (2 ^ 48 - 1) ∧ Memory.wf s.mem = true ∧ tget s.xlat.asCopies (s.asidOf 0) = some (1, 0x20000) ∧
    inMailbox (pubAddr s 0 4095) = false ∧ ∀ r, r < 24 → tget (s.region r).cache.dirty (pubAddr s 0 4095 / 128) = none :=
  ⟨ready_of (by decide), mayRelease_of rfl, by decide, by decide, by decide, by decide, by decide, by decide⟩

/-- A ring of one slot of 128 bytes at offset 0x1000 of group 0, its header at 0xAC0, the last that the local memory holds below; the put that goes on and the one that waits; a slot that consumer 63 may take, and release. -/
theorem witness_RingResults :
    let ring (mask : Nat) : Cells := cellsWrite (cellsWrite [] 0xAC0 (leBytes 16 (0x1000 + 2 ^ 32 * (1 + 2 ^ 8 + 2 ^ 16)))) 0xB00 (leBytes 8 mask)
    let st (mask : Nat) : State :=
      { small { coil0 with s := [(4, 0xAC0), (6, 0x1000)] } 3 with
        cor := { groups := [(0, { placedGroup with coils := [{ coil0 with s := [(4, 0xAC0), (6, 0x1000), (8, 63)] }], lmem := ring mask })] } }
    let x := op (.v 254) (.s 4 false) (.s 6 false) (.s 6 false)
    let y := op (.v 254) (.s 4 false) (.s 8 false) (.s 6 false)
    ∀ s ∈ [st 0, st (2 ^ 63)],
      let r := ringRead s 0 0xAC0
      (opA x (s.coil 0 0) .i32 0 = 0xAC0 ∧ memberGid s (s.group 0).cluster (0xAC0 / 2 ^ 24 % 8) = some 0 ∧ 0xAC0 % 64 = 0 ∧ 0xAC0 + 0x540 ≤ localSize s 0 ∧
        1 ≤ r.slots ∧ r.slots ≤ 64 ∧ 1 ≤ r.slotsz ∧ r.slotsz ≤ 4096 ∧ MayRelease s 0 0 (active s 0 0 3 x) ∧ (s.group 0).lbad = []) ∧
      (Ready s 0 0 3 0 x (namedOf x { a := 1, b := 1 }) ∧ 0xAC0 / 2 ^ 24 % 8 = (s.group 0).clgroup ∧ ((s.coil 0 0).thread 0).ringIdx = none ∧
        opB x (s.coil 0 0) .i32 0 % 128 = 0 ∧ opB x (s.coil 0 0) .i32 0 + r.slotsz ≤ localSize s 0 ∧ slotFits s r (ringMembers s r) (putIdx s r % r.slots) = true) ∧
      (Ready s 0 0 3 0 y (namedOf y { a := 1, b := 1, d := 1 }) ∧ opB y (s.coil 0 0) .i32 0 = 63 ∧ r.members.testBit (s.group 0).clgroup = true ∧
        slotFits s r [0] (getIdx s r 63 % r.slots) = true) ∧
      (Ready s 0 0 3 0 y (namedOf y { a := 1, b := 1, c := 1 }) ∧ opC y (s.coil 0 0) .i32 0 = slotAt r 0 ∧ (slotMask (st (2 ^ 63)) r 0).testBit 63 = true) := by
  intro ring st x y s hs
  refine ⟨⟨?_, ?_, ?_, ?_, ?_, ?_, ?_, ?_, mayRelease_of ?_, ?_⟩, ⟨ready_of ?_, ?_, ?_, ?_, ?_, ?_⟩, ⟨ready_of ?_, ?_, ?_, ?_⟩, ready_of ?_, ?_, ?_⟩
  all_goals (revert s; decide)

/-- Descriptors and barrier objects at the end of local memory; empty and full masks, observed and not. -/
theorem witness_TagResults :
    let co : Coil := { coil0 with s := [(4, 8128), (6, 8176), (254, 0xFFFFFFFF), (255, 0xFFFFFFFF)] }
    let s := small co 3
    let kick_ := op (.v 0) (.s 4 false) (.v 0 false) (.v 0 false)
    let bo := op (.v 0) (.s 6 false) (.imm 1) (.v 0 false)
    let all_ := op (.v 254) (.s 254 false) (.v 0 false) (.v 0 false)
    let none_ := op (.v 254) (.v 254 false) (.v 0 false) (.v 0 false)
    (Ready s 0 0 3 0 kick_ (namedOf kick_ { a := 1 }) ∧ (∀ l ∈ active s 0 0 3 kick_, opA kick_ co .i32 l % 64 = 0 ∧ opA kick_ co .i32 l + 64 ≤ localSize s 0 ∧ localBad s 0 (opA kick_ co .i32 l) 8 = false) ∧
      (s.core 0).copyq.length + (active s 0 0 3 kick_).length ≤ 64 ∧ MayRelease s 0 0 (active s 0 0 3 kick_)) ∧
    (Ready s 0 0 3 0 bo (namedOf bo { a := 1, b := 1 }) ∧ ∀ l ∈ active s 0 0 3 bo, opA bo co .i32 l % 16 = 0 ∧ opA bo co .i32 l + 16 ≤ localSize s 0 ∧ localBad s 0 (opA bo co .i32 l) 8 = false) ∧
    (∀ x ∈ [all_, none_], Ready s 0 0 3 0 x (namedOf x { a := 2 }) ∧ Ready s 0 0 3 0 x (namedOf x { a := 2, d := 2 })) ∧
    opA none_ co .i64 0 = 0 ∧ opA all_ co .i64 0 = 2 ^ 64 - 1 ∧ (s.group 0).tagbits = 0xFFFFFFFFFFFFFFFF :=
  ⟨⟨ready_of (by decide), by decide, by decide, mayRelease_of rfl⟩, ⟨ready_of (by decide), by decide⟩,
   fun x hx => ⟨ready_of (by revert x; decide), ready_of (by revert x; decide)⟩, by decide⟩

/-- The highest record address; no granule, all but one, and one more than the pool has. -/
theorem witness_LaunchAndRegisters :
    let co : Coil := { coil0 with granules := 31, s := [(4, 0xFFFFFF00), (5, 0x01FFFFFF)] }
    let s := small co 0xFFFFFFFF
    let x := op (.v 0) (.s 4 false) (.v 0 false) (.v 0 false)
    let g (n : BitVec 8) := op (.v 0) (.imm n) (.v 0 false) (.v 0 false)
    (Ready s 0 0 0xFFFFFFFF 0 x (namedOf x { a := 2 }) ∧ (∀ l ∈ active s 0 0 0xFFFFFFFF x, opA x co .i64 l % 256 = 0 ∧ opA x co .i64 l < 2 ^ 57) ∧
      MayRelease s 0 0 (active s 0 0 0xFFFFFFFF x) ∧ (s.region 0).launchq.length + (active s 0 0 0xFFFFFFFF x).length ≤ 64) ∧
    (∀ n ∈ [(0 : BitVec 8), 1, 30], Ready s 0 0 0xFFFFFFFF 0 (g n) (namedOf (g n) { a := 1 })) ∧
    (∀ l, l < co.threads.length → (co.thread l).st = .exited ∨ laneIn 0xFFFFFFFF l = true) ∧
    opA (g 0) co .i32 0 = 0 ∧ opA (g 30) co .i32 0 < co.granules ∧ (∀ r ∈ co.vEmpty, r < 256 * (co.granules - 30)) ∧
    co.granules + opA (g 1) co .i32 0 ≤ min 32 ((s.launchOf 0).rec_.cpg * (s.launchOf 0).rec_.vgran) ∧ (s.group 0).pool < opA (g 1) co .i32 0 ∧
    (let t := s.modGroup 0 (fun g => { g with pool := 1 })
     firstClaim (t.group 0) = none ∧ opA (g 1) co .i32 0 ≤ (t.group 0).pool) :=
  ⟨⟨ready_of (by decide), by decide, mayRelease_of rfl, by decide⟩, fun n hn => ready_of (by revert n; decide), by decide⟩

/-- A task control block at the end of a page, new; a coil of one task, in a trap and not; and one without a task. -/
theorem witness_TaskResults :
    let t : TaskCtx := { tcb := 4032, launch := 0, part := 1, iter := 0, pro := 0, ker := 0, epi := 0, trip := 1, itreg := 0, hasEpi := false }
    let co : Coil := { at_ 4032 with task := some t }
    let s := small co full
    let x := op (.v 0) (.s 4 false) (.v 0 false) (.v 0 false)
    MayRelease s 0 0 (active s 0 0 full x) ∧ Ready s 0 0 full 0 x (namedOf x { a := 2 }) ∧ Ready s 0 0 full 0 x [] ∧
    Reaches s 0 ((active s 0 0 full x).map (fun l => opA x co .i64 l)) 64 false .active pa0 leaf0 ∧
    (∀ l ∈ active s 0 0 full x, poisoned s (pa0 (opA x co .i64 l)) 64 = false ∧ (co.thread l).intrap = false) ∧ co.task = some t :=
  ⟨mayRelease_of rfl, ready_of (by decide), ready_of (by decide), by unfold Reaches; decide, by decide, rfl⟩

/-- A `TASKARM` of one lane arms its block, which leaves it ready. -/
theorem witness_TaskResults_arm :
    let s := releaseAt (issuedState (small (at_ 4032) 1) 0 0 1 0 (op (.v 0) (.s 4 false) (.v 0 false) (.v 0 false))) 0 3
    ∃ t ready, armTask s 0 4032 (pa0 4032) = some (t, ready) ∧ ready = true := by
  intro s
  have h : ((armTask s 0 4032 (pa0 4032)).map (·.2)) = some true := by decide +kernel
  match e : armTask s 0 4032 (pa0 4032) with
  | some (t, r) => rw [e] at h; exact ⟨t, r, rfl, by simpa using h⟩
  | none => rw [e] at h; simp at h

theorem witness_TaskRules :
    let tcb (w : Nat) : State := { small coil0 1 with mem := cellsWrite [] 0x1008 (leBytes 8 w) }
    (∀ w ∈ [0, 1, 2 ^ 32 - 1], Memory.wf (tcb w).mem = true ∧ 0x1000 % 64 = 0 ∧ inMailbox 0x1000 = false ∧
      (∀ r, r < 24 → tget ((tcb w).region r).cache.dirty (0x1000 / 128) = none) ∧ wState (physNat (tcb w) 0x1008 8) = 0 ∧ wArmed (physNat (tcb w) 0x1008 8) = false ∧
      wRq (physNat (tcb w) 0x1008 8) < 24 ∧ tcbReserved (tcb w) 0x1000 = false) ∧
    wDep (physNat (tcb 1) 0x1008 8) = 1 ∧ wDep (physNat (tcb 0) 0x1008 8) = 0 := by decide +kernel

/-! ## Xamal matrix, scale and graphics instructions: witnesses -/

/-- An X word. -/
def xw (st1 st2 za zb fsa fsb : Nat) (row imm8 : Nat) : Ext :=
  .x (BitVec.ofNat 2 st1) (BitVec.ofNat 2 st2) (BitVec.ofNat 6 za) (BitVec.ofNat 6 zb) (BitVec.ofNat 3 fsa) (BitVec.ofNat 3 fsb) (BitVec.ofNat 9 row) (BitVec.ofNat 8 imm8)
/-- The whole coil, with a matrix context. -/
def matrixOf (co : Coil) (m : Matrix) : State := (small co full).modMx 0 (fun _ => m)

/-- An instruction of the matrix queue whose last cycle is left. -/
def queued1 (drain : Option Drain) : MxEntry := { order := 0, left := 1, reads := [], row := 0, rows := 0, drain }

/-- Rows 96 to 127, the last of the group; exponents and targets at both ends; column 255. -/
theorem witness_AccumulatorResults :
    let s := matrixOf { coil0 with s := [(4, 0xFFFF8000), (6, 255), (8, 32767)] } {}
    let x (imm : Nat) (a : BitVec 8) := op (.v 254) (.s a false) (.s 6 false) (.v 0 false) 0 (xw 0 0 0 0 0 0 96 imm)
    MxRoom s 0 0 ∧ ∀ q ∈ [x 32 4, x 62 8], q.ext.present = true ∧ (∀ t ∈ active s 0 0 full q, ((s.group 0).mx.row ((xFields q).row + t)).bad = false) ∧ (∀ t ∈ active s 0 0 full q, (xFields q).row + t < 128 * (s.launchOf 0).rec_.accg) ∧
      (∀ n ∈ [({ a := 1 } : Needs), {}, { a := 2, b := 1 }, { b := 1, d := 2 }, { d := 1 }], Ready s 0 0 full 0 q (namedOf q n)) ∧
      (∀ t ∈ active s 0 0 full q, -32768 ≤ (BitVec.ofNat 32 (opA q (s.coil 0 0) .i32 t)).toInt ∧ (BitVec.ofNat 32 (opA q (s.coil 0 0) .i32 t)).toInt ≤ 32767) ∧
      32 ≤ (xFields q).imm8 ∧ (xFields q).imm8 ≤ 62 ∧ ∀ t ∈ active s 0 0 full q, opB q (s.coil 0 0) .i32 t < 256 := by
  intro s x
  refine ⟨by unfold MxRoom; decide, fun q hq => ⟨?_, ?_, ?_, fun n hn => ready_of ?_, ?_⟩⟩
  · revert q; decide
  · revert q; decide
  · revert q; decide
  · revert n; revert q; decide
  · revert q; decide

/-- A row whose one mantissa is 2^32 renormalises below 2^32 by one place, and one at AE = 32,767 cannot. -/
def renormRow (ae : Int) : AccRow := { ae, ag := 0, m := [(255, 0x100000000)] }
theorem witness_RenormRule : ∀ r ∈ [renormRow (-32768), renormRow 32767],
    (∀ j, j < 256 → (qRne ⟨r.get j, 2 ^ 1⟩).natAbs < 2 ^ 32) ∧ ∀ i, i < 1 → 2 ^ 32 ≤ (qRne ⟨r.get 255, 2 ^ i⟩).natAbs := by decide +kernel
theorem witness_RenormRule_bounds : (renormRow (-32768)).ae + (1 : Nat) ≤ 32767 ∧ 32767 < (renormRow 32767).ae + (1 : Nat) ∧ (renormRow 32767).ae ≤ 32767 := by decide

/-- A format of the list, and guard words for each of its clauses. -/
theorem witness_DrainValueRule :
    ((4, 0x7E, 0x7B, 0x80) : Nat × Nat × Nat × Nat) ∈
      [(10, 0x7FC00000, 0x7F7FFFFF, 0x80000000), (8, 0x7FC0, 0x7F7F, 0x8000), (9, 0x7E00, 0x7BFF, 0x8000), (3, 0x7F, 0x7E, 0x80), (4, 0x7E, 0x7B, 0x80)] ∧
    (2 : W16).getLsbD 1 = true ∧ (4 : W16).getLsbD 1 = false ∧ (4 : W16).getLsbD 2 = true ∧ (8 : W16).getLsbD 2 = false ∧ (8 : W16).getLsbD 3 = true ∧
    (1 : W16).getLsbD 3 = false ∧ (1 : W16).getLsbD 0 = true ∧ (0 : W16).getLsbD 0 = false := by simp

/-- Two rows drained to FP16 at the start of page 0, 512 bytes apart; both are BF16-clean and raise nothing, with no instruction that updates them in the queue,
and with one. -/
theorem witness_DrainResult : ∀ q ∈ [([], false), ([{ queued1 none with row := 0, rows := 128 }], true)],
    let s := matrixOf { coil0 with s := [(4, 512), (6, 512), (8, 2)] } { queue := q.1 }
    let x := op (.v 0) (.s 4 false) (.s 6 false) (.s 8 false) 2 (xw 0 0 0 0 0 0 126 63)
    let ends := opA x (s.coil 0 0) .i64 0 :: (List.range 2).flatMap (fun i => [512 + 512 * i, 512 + 512 * i + 510])
    x.ext.present = true ∧ Ready s 0 0 full 0 x (namedOf x { a := 2, b := 1, c := 1 }) ∧ opC x (s.coil 0 0) .i32 0 = 2 ∧
    (xFields x).row + 2 ≤ 128 * (s.launchOf 0).rec_.accg ∧ (BitVec.ofNat 32 (opB x (s.coil 0 0) .i32 0)).toInt % 2 = 0 ∧
    Reaches s 0 ends 2 true .active pa0 leaf0 ∧ Reaches s 0 ends 2 true .inactive pa0 leaf0 ∧ Quiet (s.coil 0 0) (List.range 32) (fun _ => 0x1F) ∧
    MxRoom s 0 0 ∧ rowsPending (s.group 0).mx 126 2 = q.2 ∧ badRows (s.group 0).mx 126 2 = false := by
  intro q hq
  refine ⟨rfl, ready_of ?_, ?_, ?_, ?_, ?_, ?_, quiet_of ?_, ?_, ?_, ?_⟩
  all_goals first | (unfold Reaches; revert q; decide) | (unfold MxRoom; revert q; decide) | (revert q; decide)

/-- A drain that stands first in the queue of its group, its one cycle left; and one behind an instruction that updates its row and retires, its coil held. -/
theorem witness_DrainResult_retires :
    let d : Drain := { coil := 0, tag := 63, size := 2, pages := [(0, leaf0 0)], vals := [(512, 1)], rows := (126, 1) }
    let s := matrixOf coil0 { queue := [queued1 (some d)] }
    let p := { d with forming := some (full, 16, 1) }
    let t := matrixOf { coil0 with drainHeld := true } { queue := [{ queued1 none with row := 0, rows := 128 }, queued1 (some p)] }
    (∃ e, mxNext s 0 = some (0, e) ∧ e.left ≤ 1 ∧ e.load = none ∧ e.drain = some d) ∧
    ∃ e e', mxNext t 0 = some (0, e) ∧ e.left ≤ 1 ∧ e.load = none ∧ e.drain = none ∧ (t.group 0).mx.queue = [e, e'] ∧ e'.drain = some p ∧
      p.forming = some (full, 16, 1) ∧ Quiet (t.coil 0 p.coil) (laneList full) (fun _ => 1) :=
  ⟨⟨_, rfl, by decide, rfl, rfl⟩, _, _, rfl, by decide, rfl, rfl, rfl, rfl, rfl, quiet_of (by decide)⟩

/-- Dense FP4 with E3M5 blocks on both sides, and a sparse A without scales; each tile bound as its slot and scale register are. -/
theorem witness_MultiplyResults :
    let ta : Tile := { tag := 7, slot := 2, bytes := List.replicate 16 0x22 }
    let tb : Tile := { tag := 9, slot := 2, bytes := List.replicate 16 0x22 }
    let ts : Tile := { tag := 4095, slot := 3, bytes := List.replicate 16 0 }
    let tc : Tile := { tag := 0, slot := 0, bytes := [] }
    let z := [(2, ({ tag := 7, slot := 2 } : ZReg)), (3, { tag := 9, slot := 2 })]
    let x := op (.v 0) (.v 0 false) (.v 0 false) (.v 0 false) 0 (xw 0 2 2 3 2 2 0 0)
    let y := op (.v 0) (.v 0 false) (.v 0 false) (.v 0 false) 1 (xw 0 2 63 63 3 0 0 0)
    ∀ p ∈ [(x, ta, tb, false), (y, ts, tc, true)],
      let s := matrixOf coil0 { streams := [(0, [p.2.1]), (2, [p.2.2.1])], z }
      let f := xFields p.1
      let m := (s.group 0).mx
      let sa := fslotWord s 0 f.fsa
      let sb := fslotWord s 0 f.fsb
      p.1.ext.present = true ∧ Ready s 0 0 full 0 p.1 (namedOf p.1 {}) ∧
      (f.st1 < 2 ∧ 2 ≤ f.st2 ∧ f.st2 < 4 ∧ f.st1 % 2 < (s.launchOf 0).rec_.spair ∧ f.st2 % 2 < (s.launchOf 0).rec_.spair ∧ f.row + 128 ≤ 128 * (s.launchOf 0).rec_.accg) ∧
      ((f.za ≠ 63 → f.za < 4 * (s.launchOf 0).rec_.zgran) ∧ (f.zb ≠ 63 → f.zb < 4 * (s.launchOf 0).rec_.zgran)) ∧
      (slotElem sa ≠ 10 ∧ slotElem sb ≠ 10 ∧ elemK (slotElem sa) = elemK (slotElem sb) ∧ slotSpar sb = 0 ∧ (slotSpar sa = 0 ↔ p.2.2.2 = false) ∧
        (slotBsf sa = 0 ↔ f.za = 63) ∧ (slotBsf sb = 0 ↔ f.zb = 63)) ∧
      ((tgetD m.streams f.st1 []).head? = some p.2.1 ∧ (tgetD m.streams f.st2 []).head? = some p.2.2.1 ∧
        (p.2.1.slot.toNat = f.fsa ∧ (f.za ≠ 63 → (m.z_ f.za).tag = p.2.1.tag ∧ (m.z_ f.za).slot.toNat = f.fsa)) ∧
        (p.2.2.1.slot.toNat = f.fsb ∧ (f.zb ≠ 63 → (m.z_ f.zb).tag = p.2.2.1.tag ∧ (m.z_ f.zb).slot.toNat = f.fsb)) ∧
        p.2.1.bad = false ∧ p.2.2.1.bad = false ∧ badZ m f.za = false ∧ badZ m f.zb = false ∧ zUnread m f.za = false ∧ zUnread m f.zb = false ∧ badRows m f.row 128 = false ∧ m.queue.length < 8 ∧ mxWaits s 0 0 = false ∧ (p.2.2.2 = true → badMeta sa p.2.1 = false)) := by
  intro ta tb ts tc z x y p hp
  refine ⟨?_, ready_of ?_, ?_⟩
  · revert p; decide
  · revert p; decide
  · revert p; decide +kernel

/-- `z3`, the last register, on side A and side B; the largest tag, mask and word; E8M0 blocks converted to E3M5; a load of it that is next in the engine. -/
theorem witness_ScaleResults :
    let s := matrixOf { coil0 with s := [(4, 1024), (6, 4095), (8, 482), (10, 15)] } { z := [(3, { tag := 1, slot := 4 }), (2, { tag := 1, slot := 1 })] }
    let x (imm fs : Nat) (a b : BitVec 8) := op (.v 254) (.s a false) (.s b false) (.v 0 false) 0 (xw 0 0 3 0 fs 0 0 imm)
    let co := s.coil 0 0
    (∀ imm ∈ [0, 1], let q := x imm 2 4 6
      let rows := if imm = 0 then 128 else 256
      let n := 8 * rows + 2 * (if imm = 0 then 2 else 4)
      q.ext.present = true ∧ (xFields q).za < 4 * (s.launchOf 0).rec_.zgran ∧ Ready s 0 0 full 0 q (namedOf q { a := 2, b := 1 }) ∧ slotBsf (fslotWord s 0 2) ≠ 0 ∧
      opB q co .i32 0 < 4096 ∧ Reaches s 0 (pieces 1024 n) 16 false .active pa0 leaf0 ∧ ∀ p ∈ pieces 1024 n, loadBad s 0 (leaf0 p) 1 (pa0 p) 16 = false) ∧
    (MxRoom s 0 0 ∧ ((s.group 0).mx.z_ 3).bad = false ∧ zUnread (s.group 0).mx 3 = false ∧ (s.group 0).mx.queue = [] ∧ ((s.group 0).mx.zTarget (s.launchOf 0).rec_.zgran 3).isSome = true) ∧
    (let l : ZLoad := { phys := 3, slot := 0x525, side := 0, tag := 1, fs := 1, pieces := [(pa0 1024, leaf0 1024)], pages := [] }
     let t := matrixOf coil0 { queue := [{ queued1 none with load := some l }] }
     (∃ e, mxNext t 0 = some (0, e) ∧ e.left ≤ 1 ∧ e.load = some l ∧ e.drain = none) ∧ zUnread (t.group 0).mx 3 = true ∧ (t.group 0).mx.queue ≠ [] ∧
     (t.group 0).core = 0 ∧ (t.group? 0).isSome = true) ∧
    (let q := x 0 2 4 6
     Ready s 0 0 full 0 q (namedOf q { a := 2 }) ∧ ((s.group 0).mx.z_ 3).bands.length = 4 ∧ Reaches s 0 (pieces 1024 2064) 16 true .active pa0 leaf0 ∧
     Reaches s 0 (pieces 1024 2064) 16 false .active pa0 leaf0 ∧ leNat ((pieceBytes s 0 pa0 leaf0 1024 129).drop 2056) < 2 ^ 15) ∧
    (let q := x 0 2 6 10
     Ready s 0 0 full 0 q (namedOf q { a := 1, b := 1 }) ∧ opB q co .i32 0 < 16 ∧ opA q co .i32 0 < 2 ^ 16) ∧
    (let q := x 0 2 4 6
     let cur := fslotWord s 0 4
     let fs := fslotWord s 0 2
     Ready s 0 0 full 0 q (namedOf q {}) ∧ slotBsf cur = 2 ∧ slotBsf fs = 1 ∧ slotBand fs = true ∧ slotElem cur = slotElem fs ∧ slotBlk cur = slotBlk fs ∧ slotSpar cur = slotSpar fs) ∧
    (let q := x 0 4 6 6
     Ready s 0 0 full 0 q (namedOf q { a := 1 }) ∧ opA q co .i32 0 < 4096) ∧
    (let q := x 1 2 4 8
     Ready s 0 0 full 0 q (namedOf q { d := 1 }) ∧ slotBsf (fslotWord s 0 4) ≠ 0 ∧ Ready s 0 0 full 0 q (namedOf q { b := 1, d := 1 }) ∧
     Ready s 0 0 full 0 q (namedOf q { a := 1, b := 1 }) ∧ opB q co .i32 0 ≤ 482 ∧ Memory.wf ((s.group 0).mx.z_ 3).blocks = true) := by
  intro s x co
  refine ⟨fun imm hi => ⟨?_, ?_, ready_of ?_, ?_, ?_, ?_, ?_⟩, ⟨by unfold MxRoom; decide, by decide, by decide, by decide, by decide⟩, ⟨⟨_, rfl, by decide, rfl, rfl⟩, by decide, by decide, by decide, by decide⟩,
    ⟨ready_of (by decide), by decide, ?_, ?_, by decide +kernel⟩, ⟨ready_of (by decide), by decide⟩,
    ⟨ready_of (by decide), by decide⟩, ⟨ready_of (by decide), by decide⟩,
    ready_of (by decide), by decide, ready_of (by decide), ready_of (by decide), by decide, by decide⟩
  all_goals first | (unfold Reaches; revert imm; decide +kernel) | (revert imm; decide +kernel) | (unfold Reaches; decide +kernel)

/-- Lanes 0 to 30 alone, with room in the queue, with a full one, and while coil 1 is still in its issue checks; a stream with a tile and one without. -/
theorem witness_StreamResults :
    let x := op (.v 254) (.v 0 false) (.v 0 false) (.v 0 false) 0 (xw 0 0 0 0 0 0 0 0)
    let y := op (.v 254) (.v 0 false) (.v 0 false) (.v 0 false) 0 (xw 2 0 0 0 0 0 0 0)
    let s := matrixOf coil0 { streams := [(0, [{ tag := 4095, slot := 7, bytes := [] }])] }
    let part (m : Matrix) : State := (small coil0 0x7FFFFFFF).modGroup 0 (fun g => { g with coils := [coil0, coil0], mx := m })
    (∀ m ∈ [({} : Matrix), { queue := List.replicate 8 (queued1 none) }, { checking := some (1, full, 0) }], Site (part m) 0 0 0x7FFFFFFF 0) ∧ (0x7FFFFFFF : W32) ≠ full ∧
    (MxRoom (part {}) 0 0 ∧ ¬ MxRoom (part { queue := List.replicate 8 (queued1 none) }) 0 0 ∧ ¬ MxRoom (part { checking := some (1, full, 0) }) 0 0 ∧ MxRoom s 0 0) ∧
    (∀ q ∈ [x, y], q.ext.present = true ∧ (xFields q).st1 % 2 < (s.launchOf 0).rec_.spair ∧ Ready s 0 0 full 0 q (namedOf q { d := 1 }) ∧ Ready s 0 0 full 0 q []) ∧
    tgetD (s.group 0).mx.streams (xFields x).st1 [] ≠ [] :=
  ⟨fun m hm => ⟨by revert m; decide, by revert m; decide, by revert m; decide⟩, by decide, by unfold MxRoom; decide,
   fun q hq => ⟨by revert q; decide, by revert q; decide, ready_of (by revert q; decide), ready_of (by revert q; decide)⟩, by decide⟩

/-- A pass of 128 by 64 pixels that is open on launch 0: OPAQUE with SMALL_AREA 4.0, scale 1 and offset 0 (R130, R137). -/
def desc0 : PassDesc :=
  { width := 128, height := 64, cfmt := 4, smallArea := 1024, wNear := 0x3F000000, sx := 0x3F800000, sy := 0x3F800000, pcnt := 8, pstat := 16 }
def pass0 : Pass := { desc := desc0, descAddr := 256, asid := 0, launch := 0 }
/-- The three vertices of the example of R137, at local offsets 0, 96 and 192: (10, 10), (12, 10) and (10, 13), with w = 1. -/
def vertices0 : Cells :=
  let v (x y : Nat) : List Byte := leBytes 16 0 ++ leBytes 4 x ++ leBytes 4 y ++ leBytes 4 0 ++ leBytes 4 0x3F800000
  cellsWrite (cellsWrite (cellsWrite [] 0 (v 0x41200000 0x41200000)) 96 (v 0x41400000 0x41200000)) 192 (v 0x41200000 0x41500000)
def drawing0 (p : Pass) (lanes : W32) : State :=
  { small { coil0 with pass := 256, s := [(4, 0x020100), (6, 5)] } lanes with
    gfx := { passes := [(1, p)] }
    cor := { groups := [(0, { placedGroup with coils := [{ coil0 with pass := 256, s := [(4, 0x020100), (6, 5), (8, 8112)] }], lmem := vertices0 })]
             cores := [(0, { tlb := [(0, 0, placedPage + 15)] })] } }
/-- `EMITP` of the triangle, and `EMITV` of a vertex with 12 attributes at the end of local memory. -/
def emitp0 : XOp := op (.v 0) (.s 4 false) (.s 6 false) (.imm 0)
def emitv0 : XOp := op (.v 0) (.s 8 false) (.v 236 false) (.imm 12)

def vert0 (l : List CVert) (i : Nat) : CVert := (l[i]?).getD { x := .zero false, y := .zero false, z := .zero false, w := .zero false, attrs := [] }

theorem witness_GeometryResults :
    let s := drawing0 pass0 1
    let fin := drawing0 { pass0 with code := 1 } 1
    let u := issuedState s 0 0 1 0 emitp0
    let offs := [0, 8, 16].map (fun b => opC emitp0 (s.coil 0 0) .i32 0 + 96 * (opA emitp0 (s.coil 0 0) .i32 0 / 2 ^ b % 2 ^ 8))
    let tri := (offs.map (fun o => (readVertex u 0 o).2))
    (passGate (ctxOf fin 0 0 1 0 emitp0) (issuedState fin 0 0 1 0 emitp0) = .past ∧ Ready fin 0 0 1 0 emitp0 (namedOf emitp0 { a := 1, b := 1, c := 1 })) ∧
    (∀ t ∈ [s, fin], emitK emitv0 = 12 ∧ Ready t 0 0 1 0 emitv0 (namedOf emitv0 { a := 1, b := 4 } ++
      (List.range 12).map (fun i => { isS := false, n := vregOf emitv0.b + 4 + i, w := 1, trap := trapBit emitv0.b }))) ∧
    (opA emitv0 (s.coil 0 0) .i32 0 % 16 = 0 ∧ opA emitv0 (s.coil 0 0) .i32 0 + 32 + 4 * 12 ≤ localSize s 0) ∧
    (passGate (ctxOf s 0 0 1 0 emitp0) u = .open_ 1 ∧ Ready s 0 0 1 0 emitp0 (namedOf emitp0 { a := 1, b := 1, c := 1 }) ∧ emitLeft (ctxOf s 0 0 1 0 emitp0) = none ∧
      opA emitp0 (s.coil 0 0) .i32 0 < 2 ^ 24 ∧ opB emitp0 (s.coil 0 0) .i32 0 ≠ 0 ∧ (∀ o ∈ offs, o % 16 = 0 ∧ o + 32 ≤ localSize s 0 ∧ (readVertex s 0 o).1 = 0 ∧ localBad s 0 o 32 = false) ∧
      tri.length = 3 ∧ (submitTri u 1 (vert0 tri 0) (vert0 tri 1) (vert0 tri 2) 5 0).2 = true) := by
  intro s fin u offs tri
  refine ⟨⟨by decide, ready_of (by decide)⟩, fun t ht => ⟨by decide, ready_of ?_⟩, by decide, by decide, ready_of (by decide), by decide +kernel⟩
  revert t; decide

/-- An `EMITP` that has submitted a part of its triangles, with one left. -/
theorem witness_GeometryResults_goesOn :
    let v : CVert := vert0 [] 0
    let left := [(0, [v, v, v], (5 : W32), (0 : BitVec 3))]
    let s := (drawing0 pass0 1).modCoil 0 0 (fun co => { co with emitting := some { pc := 0, lanes := 1, left } })
    passGate (ctxOf s 0 0 1 0 emitp0) (issuedState s 0 0 1 0 emitp0) = .open_ 1 ∧ Ready s 0 0 1 0 emitp0 (namedOf emitp0 { a := 1, b := 1, c := 1 }) ∧
    (emitLeft (ctxOf s 0 0 1 0 emitp0)).map (·.left) = some left ∧ ∀ t ∈ left, t.2.1.length = 3 :=
  ⟨by decide, ready_of (by decide), by decide, by decide⟩

/-- A triangle over the fragment that lane 31 shades, and a render of tile 1 of an ordered pass with PROG. -/
def tri0 : Tri :=
  { a := { x := 0, y := 0, depth := 0, w := .fin (qInt 1), attrs := [.fin (qInt 1)] }, b := { x := 512, y := 0, depth := 0, w := .fin (qInt 1), attrs := [.fin (qInt 3)] }
    c := { x := 0, y := 512, depth := 0, w := .fin (qInt 1), attrs := [.fin (qInt 5)] }, visid := 1, rate := 0, front := true, flat := [.fin (qInt 1)] }
def fragment0 : Frag := { cx := 0, cy := 0, rate := 0, cover := 1, tri := some tri0, visid := 1, front := true, small := false, ex := 256, ey := 0 }
def painting0 : State :=
  let co : Coil := { shading0 with s := [(4, 70 + 3 * 2 ^ 16)] }
  { small co 0x80000000 with gfx :=
    { passes := [(1, { pass0 with desc := { desc0 with ordered := true, prog := true } })], renders := [(1, { pass := 1, tile := 1, cluster := 0, owner := 0, frags := [fragment0] })] } }

/-- Attribute 0 by perspective and by linear, and one past the last; pixel (70, 3). -/
theorem witness_FragmentResults :
    let s := painting0
    let x (a b : BitVec 8) := op (.v 252) (.imm a) (.imm b) (.v 0 false)
    let y := op (.v 252) (.s 4 false) (.v 252 false) (.v 0 false) 4
    (active s 0 0 0x80000000 y = [31] ∧ ((s.coil 0 0).thread 31).frag = some frag0 ∧ fragOf s frag0 = some fragment0 ∧ fragment0.tri = some tri0) ∧
    (∀ p ∈ [((0 : BitVec 8), (0 : BitVec 8)), (0, 2), (15, 1)], Ready s 0 0 0x80000000 0 (x p.1 p.2) (namedOf (x p.1 p.2) { a := 1, b := 1, d := 1 }) ∧
      opA (x p.1 p.2) (s.coil 0 0) .i32 31 < 16 ∧ opB (x p.1 p.2) (s.coil 0 0) .i32 31 % 4 ≠ 3) ∧
    (∃ va, PixelOk s 0 0 y va 31 ∧ va 31 = 1816 ∧ Reaches s 0 [va 31] 4 false .active pa0 leaf0 ∧ Reaches s 0 [va 31] 4 true .active pa0 leaf0 ∧
      poisoned s (pa0 (va 31)) 4 = false) ∧
    Ready s 0 0 0x80000000 0 y (namedOf y { a := 1, d := 4 }) ∧ Ready s 0 0 0x80000000 0 y (namedOf y { a := 1, b := 4 }) := by
  intro s x y
  refine ⟨by decide, fun p hp => ⟨ready_of ?_, ?_⟩, ⟨fun _ => 1816, ⟨frag0, _, _, by decide, rfl, rfl, by decide⟩, rfl, by unfold Reaches; decide, by unfold Reaches; decide, by decide⟩,
    ready_of (by decide), ready_of (by decide)⟩
  all_goals (simp only [List.mem_cons, List.not_mem_nil, or_false] at hp; rcases hp with rfl | rfl | rfl <;> decide)

/-- The texture of the example of R355, its descriptor at 0 and its texels at 64; the point (0.3, 0.5) in two registers. -/
def textured : State :=
  let desc := 64 + 2 ^ 64 * (1 + 2 ^ 14 + 4 * 2 ^ 28 + 2 ^ 31 + 2 ^ 33 + 2 ^ 35) + 2 ^ 128 * 8
  let texels := leBytes 4 0 ++ leBytes 4 0x3F800000 ++ leBytes 4 0x40000000 ++ leBytes 4 0x40400000
  { small { coil0 with s := [(6, 0x3E99999A), (7, 0x3F000000)] } 1 with mem := cellsWrite (cellsWrite [] (placedPage + 0) (leBytes 32 desc)) (placedPage + 64) texels }
def sample0 : XOp := op (.v 0) (.s 4 false) (.s 6 false) (.imm 0)

theorem witness_TextureResults :
    let s := textured
    let tex := parseTex (loadNat s 0 (leaf0 0) 1 (pa0 0) 32)
    Reaches s 0 ((active s 0 0 1 sample0).map (fun l => opA sample0 (s.coil 0 0) .i64 l)) 32 false .active pa0 leaf0 ∧ loadBad s 0 (leaf0 0) 1 (pa0 0) 32 = false ∧ tex.ok = true ∧ l1Held (s.core 0).l1 + 160 ≤ l1Lines ∧
    (∀ n ∈ [0, 1], Ready s 0 0 1 0 sample0 (namedOf sample0 { a := 2, b := 2, c := n, d := 4 })) ∧
    (∀ lev ∈ [0, 1], sampleTaps tex (min lev tex.lm1) true 0x3E99999A 0x3F000000 =
      some [(29440, some 64), (3328, some 68), (29440, some 72), (3328, some 76)]) ∧
    Reaches s 0 [64, 68, 72, 76] (pixelBytes tex.fmt) false .active pa0 leaf0 ∧ ∀ va ∈ [64, 68, 72, 76], loadBad s 0 (leaf0 va) 1 (pa0 va) (pixelBytes tex.fmt) = false := by
  intro s tex
  refine ⟨by unfold Reaches; decide, by decide, by decide +kernel, by decide, fun n hn => ready_of ?_, by decide +kernel, by unfold Reaches; decide +kernel, by decide +kernel⟩
  revert n; decide

/-! ## Swevar and kiln: witnesses -/

/-- Glaze core 0 executes a slot of a bundle. -/
def glazed (g : Glaze) (slot : Nat) : State := { dpy := { glaze := [(0, g)] }, cur := .glaze 0 slot }
theorem witness_SequencerResults : OnGlaze (glazed { phase := .running } 0) 0 0 ∧ ((glazed { phase := .running } 0).gl 0).phase = .running := ⟨rfl, rfl⟩

/-- The last word of the scratchpad and the first address past it; the first word of the band context and the last address below it. -/
theorem witness_ScalarResults :
    let s := glazed { a := [(1, 0x000FFFFC), (2, 0x00100000), (3, 0xFFFFFF00), (4, 0xFFFFFEFC)] } 1
    let t : State := { cur := .kiln 3 4 }
    OnGlaze s 0 1 ∧ aaddr s 1 0 < 2 ^ 20 ∧ (2 ^ 20 ≤ aaddr s 2 0 ∧ aaddr s 2 0 < 0xFFFFFF00) ∧ 0xFFFFFF00 ≤ aaddr s 3 0 ∧ (2 ^ 20 ≤ aaddr s 4 0 ∧ aaddr s 4 0 < 0xFFFFFF00) ∧
    OnKiln t 3 := ⟨rfl, by decide, by decide, by decide, by decide, 4, rfl⟩

/-- V2 in the last vc that an `MXM` blocks and in the first after it, and V0; the narrowest type that `VCMP` takes. -/
theorem witness_VectorResults :
    let s := glazed { vc := 3, mxmUntil := 4 } 5
    let t := glazed { vc := 4, mxmUntil := 4 } 5
    let x : VOp := { ty := 2, pred := 8, d := 0, a := 0, b := 0, c := 0, fn := 0 }
    OnGlaze s 0 5 ∧ (s.gl 0).vc < (s.gl 0).mxmUntil ∧ OnGlaze t 0 5 ∧ (t.gl 0).mxmUntil ≤ (t.gl 0).vc ∧ OnGlaze (glazed {} 3) 0 3 ∧ 8 ≤ typeBits x.ty.toNat :=
  ⟨rfl, by decide, rfl, by decide, rfl, by decide⟩

theorem witness_SpecialSlotResults : OnGlaze (glazed {} 6) 0 6 := rfl

/-- Addresses at the end of the scratchpad; a full queue of offsets; a line and a pose of the band; flags that suffice and that do not. -/
theorem witness_GlazeMemoryResults :
    let ctx : BandCtx := { head := 3, band := 1, line0 := 4, nlines := 1, frame := 2 }
    let g : Glaze := { a := [(1, 0x000FFE00), (2, 0x00100000), (3, 0x000FE000), (4, 0x000FFFF0), (5, 4), (6, 0x000FFFC0)], gq := List.replicate 32 0, ctx,
                       nextLine := 4, f := [(15, 4)], sparse := { left := 1 } }
    let s : State := { glazed g 7 with dpy := { glaze := [(0, g)], heads := [(3, { timing := { hactive := 8 }, bands := [{ frame := 2, band := 1, pose := some resetPose }] })] } }
    let x (a : BitVec 5) (d : BitVec 6) (imm : BitVec 20) : MOp := { pred := 8, d, a, imm }
    let ea (x : MOp) (lo : Nat) := (((tgetD g.a x.a.toNat 0 + x.imm.setWidth 32) >>> lo) <<< lo).toNat
    OnGlaze s 0 7 ∧ (s.gl 0) = g ∧ spWindow g true (ea (x 1 0 0) 6) 512 = some 0 ∧ spWindow g true (ea (x 2 0 0) 6) 512 = none ∧
    (∀ o ∈ g.gq.take 32, ea (x 4 0 0) 4 + 16 * o.toNat + 16 ≤ 2 ^ 20) ∧ (32 ≤ g.gq.length ∧ ea (x 4 0 0) 4 < 2 ^ 20) ∧
    (g.fetches.length < 16 ∧ 0x000FE000 / 32 * 32 + (x 3 0 0x2000).imm.toNat ≤ 2 ^ 20 ∧ 0x000FE000 / 32 * 32 < 2 ^ 20) ∧
    ((tgetD g.a 5 0).toNat = g.nextLine ∧ g.nextLine < ctx.line0 + ctx.nlines ∧ ea (x 6 5 0) 6 + 8 * 8 ≤ 2 ^ 20 ∧ ea (x 6 5 0) 6 < 2 ^ 20 ∧ lineWaits s g (ea (x 6 5 0) 6) = false) ∧
    bandPose s g = some resetPose ∧ ea (x 3 0 0) 6 + 4096 * 2 ≤ 2 ^ 20 ∧ ea (x 4 0 0) 4 + 16 ≤ 2 ^ 20 ∧ 4 ≤ (tgetD g.f 15 0).toNat ∧ (tgetD g.f 0 0).toNat < 1 := by
  intro ctx g s x ea
  refine ⟨rfl, rfl, by decide, by decide, fun o ho => ?_, by decide +kernel⟩
  cases (List.mem_replicate.mp (List.mem_of_mem_take ho)).2
  decide

/-- A result that is due at the end of this vc, and one that is due at the end of the next. -/
theorem witness_LandingRule :
    let g (at_ : Nat) : Glaze := { vc := 7, flight := [{ at_, slot := 9, res := .flag 15 65535 }] }
    ∀ n ∈ [7, 8], ∃ f, ((glazed (g n) 0).gl 0).flight = [f] ∧ f.slot < 10 ∧ f.at_ = n := by
  intro g n hn; exact ⟨_, rfl, by revert n; decide, rfl⟩

/-- Kiln core 0 after boot, with its own ports and those of others; a window on device memory and on a hole; both kinds of event queue, empty and not; the last place in a minor frame. -/
theorem witness_KilnControlResults :
    let s : State := { cur := .kiln 0 0, time := 1100, fw := { booted := true, bootTime := 0, kilns := [(0, { memwin := 0x1000 })], events := [(6, [1])] } }
    let hole : State := { s with fw := { s.fw with kilns := [(0, { memwin := 0x100000000000000 })] } }
    let t : State := { s with cur := .kiln 3 0 }
    OnKiln s 0 ∧ 0 ∈ (portCores 0x010).getD [] ∧ 0 ∈ (portCores 0x1FF).getD [] ∧ 0 ∉ (portCores 0x050).getD [] ∧ 0 ∉ (portCores 0x0FF).getD [] ∧
    (memwinRead (spent s 0 256) 0 0x3FF).isSome = true ∧ (memwinWrite (spent s 0 2) 0 0x200 5).isSome = true ∧ memwinRead (spent hole 0 256) 0 0x200 = none ∧
    (waitEnd s 1023).isSome = true ∧ waitEnd s 10 = some (1100 + 1024 * 110) ∧ waitEnd { s with fw := {} } 1 = none ∧
    memwinWrite (spent hole 0 2) 0 0x200 5 = none ∧
    (∀ q ∈ [0, 1, 2], q < 3 ∧ ({ s with fw := { s.fw with events := [(q, [1])] } } : State).events q = 1 :: []) ∧
    (OnKiln t 3 ∧ queueOwner 6 = 3 ∧ t.events 6 = [1]) ∧ (queueOwner 2 = 0 ∧ s.events 2 = []) ∧ queueOwner 6 ≠ 0 :=
  ⟨⟨0, rfl⟩, by decide, by decide, by decide, by decide, by decide +kernel, by decide +kernel, by decide, by decide, by decide, by decide, by decide, by decide, ⟨⟨0, rfl⟩, by decide, by decide⟩, by decide, by decide⟩

/-- A slot of a kiln core's table whose start has passed while the slot before it ran, and one whose start lies ahead. -/
theorem witness_KilnControlResults_slot :
    let late : State := { time := 440, fw := { booted := true, kilns := [(3, { slots := [[{ off := 1 }, { off := 9 }]], inSlot := true })] } }
    slotDue late (late.kiln 3) 1 = some (0, 0, true) ∧ slotDue late (late.kiln 3) 9 = none := by decide

/-! ## The module, its registers and its queues: witnesses -/

/-- Address space 0 with one page of 1 GiB that maps addresses to themselves (R240, R241); its tables take three cells of memory each. -/
def tables : Cells := cellsWrite (cellsWrite (cellsWrite [] 0x1000 (leBytes 8 0x2001)) 0x2000 (leBytes 8 0x3001)) 0x3000 (leBytes 8 15)
def mapped : State := { mem := tables, xlat := { asCopies := [(0, 0x1001, 0)] } }
/-- The coil of `drawing0` in an address space in which its pass has a descriptor at 256, whose children have their record at 512. -/
def opening0 : State :=
  let s := drawing0 pass0 1
  let put (m : Cells) (e : Nat × Nat) : Cells := cellsWrite m e.1 (leBytes 8 e.2)
  { s with
    gfx := {}
    mem := [(256 + 8, 128 + 64 * 2 ^ 16 + 4 * 2 ^ 32), (256 + 80, 2 + 2 ^ 16), (256 + 88, 0x3F000000 * 2 ^ 32), (256 + 96, 0x3F800000), (256 + 104, 0x3F800000),
      (256 + 128, 512), (256 + 136, 512), (256 + 144, 8), (256 + 152, 16), (512 + 24, 2 ^ 32 + 2 ^ 36 + 2 ^ 42), (512 + 144, 8)].foldl put tables
    xlat := { s.xlat with asCopies := [(0, 0x1001, 0)] } }

/-- The first geometry instruction of a launch opens its pass. -/
theorem witness_GeometryResults_opens :
    (let cx := ctxOf opening0 0 0 1 0 emitp0
     let s0 := issuedState opening0 0 0 1 0 emitp0
     passGate cx s0 = .closed ∧ (openPass s0 (opening0.group 0).launch (opening0.coil 0 0).pass.toNat).any (fun u => passGate cx u == .open_ 1) = true) ∧
    Ready opening0 0 0 1 0 emitp0 (namedOf emitp0 { a := 1, b := 1, c := 1 }) :=
  ⟨by decide +kernel, ready_of (by decide)⟩

/-- Another pass with its tag is open. -/
theorem witness_GeometryResults_tagTaken :
    let s : State := { opening0 with gfx := { passes := [(7, { pass0 with launch := 9 })] } }
    let cx := ctxOf s 0 0 1 0 emitp0
    passGate cx (issuedState s 0 0 1 0 emitp0) = .closed ∧ (openPass (issuedState s 0 0 1 0 emitp0) (s.group 0).launch (s.coil 0 0).pass.toNat).isSome = false ∧
    (emitLeft cx).isSome = false := by decide +kernel

/-- The part as it runs after boot. -/
def running : State := { mapped with mod := { cond := .running }, fw := { booted := true, kilns := [(0, {})] }, time := 440 }
def image0 (ok : Bool) : Image :=
  { secver := 3, edOk := ok, mlOk := true, digestOk := true, digest := 0, length := 1, carryWrites := 0, carryFrom := 0, carryTo := 0, slots := [List.replicate 64 [{ off := 0, src := some 0, budget := 64 }]], code := [], data := [], entry := [] }

/-- Boot from the active slot, from the other slot, and from none; the watchdog one fc past its limit; both states of each request. -/
theorem witness_ModuleResults :
    let boots (f : Tab Image) : State := { mod := { flash := f, fuse := 3 } }
    (∀ f ∈ [[(0, image0 true)], [(0, image0 false), (1, image0 true)], [(1, image0 false)]],
      (boots f).mod.cond = .booting ∧ ∀ e ∈ (boots f).fw.kilns, e.2.stopped = true) ∧
    (tget [(0, image0 true)] 0 = some (image0 true) ∧ Passing (boots []) (image0 true)) ∧
    (tget [(0, image0 false), (1, image0 true)] 0 = some (image0 false) ∧ ¬ Passing (boots []) (image0 false) ∧ tget [(0, image0 false), (1, image0 true)] 1 = some (image0 true)) ∧
    (∀ b : Bool, ∀ i, tget (boots [(1, image0 false)]).mod.flash (if b then 1 else 0) = some i → ¬ Passing (boots [(1, image0 false)]) i) ∧
    ((boots []).mod.cond = .booting ∧ [(0, ({} : Kiln))] ≠ []) ∧
    (running.mod.modState ≠ 2 ∧ ({ running.mod with modState := 2 } : Module).modState = 2 ∧ ({ running.mod with modState := 1 } : Module).modState = 1 ∧ drained running = true) ∧
    ((0x5751 : W16) ≠ 0x5752 ∧ (0x5752 : W16) = 0x5752) ∧
    (running.fw.booted = true ∧ 3 < 4 ∧ ({ running with time := 2048 * 110 + 1 }.kiln 3).lastMinor + 2048 * 110 < 2048 * 110 + 1) ∧
    (let a : State := { running with mod := { running.mod with attState := 1, attAddr := 0x8000000000 } }
     a.mod.attState = 1 ∧ inHost (a.mod.attAddr.toNat * 4096) 65536 = true ∧ linkDown a = false) ∧
    inHost ((0 : BitVec 40).toNat * 4096) 65536 = false ∧
    (updateCode running 0 (image0 true) ≠ 0 ∧ updateCode running 1 (image0 true) = 0) ∧
    (let u : State := { running with time := 0, fw := { running.fw with upd := some (image0 true), updState := 3 } }
     u.fw.upd = some (image0 true) ∧ u.fw.updState = 3 ∧ (framePos u).toNat % 65536 = 0) := by
  refine ⟨by decide, ⟨rfl, by unfold Passing; decide⟩, ⟨rfl, by unfold Passing; decide, rfl⟩, fun b i h => ?_, by decide, by decide, by decide, by decide +kernel, by decide, by decide, by decide, rfl, rfl, by decide⟩
  unfold Passing
  cases b
  · simp [tget] at h
  · cases h; decide

/-- A core that may be lowered; an update that is copied and one that is verified; a kiln core whose deadline falls at the end of a major frame in which an update is ready. -/
theorem witness_ModuleResults_edges :
    (2825 ≤ coreFreq running 191) ∧ (running.modFw (fun f => { f with updState := 1 })).fw.updState = 1 ∧
    (running.modFw (fun f => { f with updState := 2, upd := some (image0 true) })).fw.upd = some (image0 true) ∧
    (({ running with time := 65536 * 110 } : State).kiln 3).lastMinor + 2048 * 110 ≤ 65536 * 110 ∧ (framePos { running with time := 65536 * 110 }).toNat % 65536 = 0 := by
  refine ⟨by decide, rfl, rfl, by decide +kernel, by decide +kernel⟩

/-- The last byte of local memory; a write of the host to host memory and to the last device byte, with the link up; an address space without a FABRIC, a destination that lands and one that does not; and bytes that came before. -/
theorem witness_ChannelAndLinkResults_edges :
    let fab : State := { running with mem := cellsWrite tables (4 * 4095) (leBytes 4 0x10000) }
    (∃ s : State, (s.group? 0).isSome = true ∧ 8191 < localSize s 0) ∧
    (inHost 0x8000000000000 1 = true ∧ hostReaches running = true ∧ inDevice (2 ^ 39 - 1) 1 = true ∧ unreachable running (2 ^ 39 - 1) = false) ∧
    (fabricAsid running 4095 = none ∧ fabricAsid fab 4095 = some 0 ∧ (landingPa fab 0 0x4000).isSome = true ∧ (landingPa fab 0 0x4000000000).isSome = false) ∧
    (2 ^ 27 - 1 < 2 ^ 27 ∧ (tgetD running.mod.frameCe 5 (0, false)).2 = false ∧ running.mod.ceThreshold ≤ 64) :=
  ⟨⟨small coil0 1, by decide⟩, by decide, by decide +kernel, by decide⟩

/-- The last channel, port, slice and core; a message that ends its copy and one that was sent too long ago. -/
theorem witness_ChannelAndLinkResults :
    let m : OutMsg := { copy := 1, msg := 2, offset := 0, len := 4, resends := 16, sent := 0 }
    let late : State := { running with time := 20 * 132000, mod := { running.mod with outMsgs := [m] } }
    let fab : State := { running with mem := cellsWrite tables (4 * 4095) (leBytes 4 0x10000) }
    (63 < 64 ∧ (running.chan 63).nextWindow ≤ running.time ∧ (tgetD running.mod.windows 191 {}).nextWindow ≤ running.time) ∧
    (1 ≤ 5 ∧ inDevice (2 ^ 39 - 1) 1 = true ∧ (2 ^ 39 - 1) / 32 ∉ running.poison) ∧
    (2 ^ 27 - 1 < 2 ^ 27 ∧ (tgetD running.mod.frameCe (2 ^ 27 - 1) (0, false)).2 = false) ∧
    ((running.chan 63).st.toNat < 2 ∧ ({ st := 2 } : Chan).st = 2) ∧
    ((running.iclPort 1).st ≠ .down ∧ (running.iclPort 1).spareUsed = false ∧ ({ st := .retraining, spareUsed := true } : IclPort).st = .retraining) ∧
    (({ st := .down } : IclPort).st = .down ∧ running.mod.cond ≠ .removed ∧ 7 < 8) ∧
    (displayRuns running = true ∧ displayRuns { running with mod := { cond := .parked } } = false) ∧
    (let q := (small coil0 1).group 0
     ((small coil0 1).group? 0).isSome = true ∧ 0 < q.coils.length ∧ 255 < 256 ∧ 31 < 32) ∧
    (fabricAsid fab 4095 = some 0 ∧ (∀ a ∈ rangePages 0x4000 4, (landingPa fab 0 a).isSome = true) ∧ fab.mod.inCopies = []) ∧
    (tgetD running.mod.sliceSpares (127 / 32) 2 ≠ 0 ∧ (hostSlice { running with mod := { running.mod with sliceSpares := [(3, 0)] } } 127).isSome = true) ∧
    (191 ∉ running.mod.coreGone ∧ regionOf 191 ∉ running.mod.spareUsed ∧ regionOf 191 ∈ [23]) ∧
    (let gs := (small coil0 1).cor.groups.map (·.1)
     gs.all (groupReady (small coil0 1)) = true ∧
     gs.all (groupReady (small { coil0 with task := some { tcb := 0, launch := 0, part := 0, iter := 0, pro := 0, ker := 0, epi := 0, trip := 0, itreg := 0, hasEpi := false } } 1)) = false) ∧
    (late.mod.outMsgs.find? (fun o => o.copy = 1 && o.msg = 2) = some m ∧ late.copy? 1 = none ∧ m.sent + late.mod.iftRto.toNat * 132000 ≤ late.time ∧ 16 ≤ m.resends) ∧
    (({ late with cor := { copies := [(1, { st := .remote })] } } : State).copy? 1).isSome = true ∧ ∃ o ∈ late.mod.outMsgs, o.copy = 1 := by
  intro m late fab
  exact ⟨by decide, by decide, by decide, by decide, by decide, by decide, by decide, by decide, by decide +kernel, by decide +kernel, by decide, by decide, by decide, by decide⟩

/-- Registers of the host alone and of all; the first and the last classes; shares of 64 and more; queues mapped and not. -/
theorem witness_RegisterResults :
    let saved : State := { running with cor := { groups := [(1, { placedGroup with saved := true })] } }
    let busy : State := { running with cmd := { queues := [(4095, { st := .active })] } }
    (hostReaches running = true ∧ readHub running 0x2040 = some (0, true) ∧ mayWrite .host 0x2040 = true ∧ mayWrite (.kiln 0) 0x2040 = true) ∧
    (mayWrite .host 0x50C0 = false ∧ (readHub running 0x50C0).isSome = true ∧ mayWrite (.kiln 0) 0x50C0 = false ∧ mayWrite (.kiln 1) 0x50C0 = true) ∧
    (hostRead running 0 16).isSome = true ∧ inMailbox (mmioBase + 0x20000FF) = true ∧ inMailbox mmioBase = false ∧
    (inDevice (2 ^ 39 - 8) 8 = true ∧ unreachable running (2 ^ 39 - 8) = false ∧ (2 ^ 39 - 8) % 8 = 0 ∧ poisoned running (2 ^ 39 - 8) 8 = false ∧ 2 ^ 39 - 8 < mmioBase) ∧
    ((memwinRead running 0 0x200).isSome = true ∧ (memwinWrite running 0 0x3FF 1).isSome = true) ∧
    ((∀ e ∈ running.cor.groups, e.2.saved = false) ∧ ∃ e ∈ saved.cor.groups, e.2.saved = true) ∧
    ((∀ e ∈ running.cmd.queues, e.2.st = .unmapped) ∧ ∃ e ∈ busy.cmd.queues, e.2.st ≠ .unmapped) ∧
    (({ running with fw := { running.fw with kilns := [(0, { memwin := 0x100000000000000 })] } } : State).kiln 0).memwin ≠ 0 := by
  intro saved busy
  refine ⟨by decide +kernel, by decide +kernel, by decide +kernel, by decide, by decide, by decide, by decide +kernel, by decide, by decide, by decide⟩

/-- A queue of 64 packets at 0x4000, its W at 0x5000 and its R at 0x5008, in the table at 0. -/
def qdesc0 : QDesc := { ring := 0x4000, wptr := 0x5000, rptr := 0x5008 }
def queued (q : Queue) : State := { running with cmd := { queues := [(1, q)], scanEnable := true } }

/-- The descriptor of queue 1, one that is all zeros, a poll that finds nothing and one that finds W too far ahead; waits that are over. -/
theorem witness_QueueResults :
    let tab : State := { running with mem := cellsWrite tables 64 (leBytes 32 (0x4000 + 2 ^ 64 * 0x5000 + 2 ^ 128 * 0x5008 + 2 ^ 208 * 6)) }
    let a : Queue := { st := .active, desc := qdesc0 }
    let p : Packet := { idx := 0xFFFFFFFF, words := [], place := .held }
    let w : QWait := { cnt := 0x5000, val := 0, pa := 0x5000, deadline := some 440, due := 440 }
    ((readQueue tab 1).isSome = true ∧ readQueue tab 0 = none ∧ (tab.queue 1).st = .unmapped ∧ ((queued { a with st := .error }).queue 1).st = .error ∧ ((queued a).queue 1).st ≠ .unmapped) ∧
    (let s : State := { queued a with time := 550 }
     scannerRuns s = true ∧ pollSlot s = true ∧ pollSlot (queued a) = false ∧ dueQueue s = some 1 ∧ readW s a = some 0) ∧
    readW (queued a) { a with desc := { qdesc0 with wptr := 0x4000000000 } } = none ∧ 2 ^ 6 < ((65 : W32) - 0).toNat ∧
    (oldestHeld { a with buf := [p] } = some p ∧ (1 + 2 ^ 16 * 0xFFFFFFFF) % 2 ^ 12 = 1 ∧ (1 + 2 ^ 16 * 0xFFFFFFFF) / 2 ^ 16 % 2 ^ 32 = p.idx.toNat) ∧
    (let q : Queue := { a with st := .waiting, wait := some w }
     w.due ≤ (queued q).time ∧ (∀ r ∈ q.running, False) ∧ readCounter (queued q) 0 w.cnt = some (0x5000, 0) ∧ w.deadline = some 440 ∧ 440 ≤ (queued q).time) ∧
    (a.scanErr = none ∧ (queueWrite (queued a) qdesc0 0x5008 (leBytes 4 1)).isSome = true) := by
  intro tab a p w
  exact ⟨by decide +kernel, by decide +kernel, by decide +kernel, by decide, by decide, by decide +kernel, by decide +kernel⟩

/-- A packet of each command, by its words and the class of its queue, and a `NOP` with a reserved bit. -/
theorem witness_PacketResults :
    let pk (ws : List W64) : Packet := { idx := 0, words := ws }
    (∀ p ∈ [(0, 0, [(0 : W64)]), (0, 1, [1, 0x4000]), (0, 2, [2, 0x4000]), (0, 3, [3, 0x4000]), (0, 4, [4, 0x5000, 1]), (0, 5, [5, 0x5000, 1, 1]), (0, 6, [6, 7, 0x5000]),
        (0, 7, [7, 1, 0x5000]), (0, 7, [7, 2, 0x5000]), (0, 8, [8, 1]), (0, 9, [9, 0])],
      let q : Queue := { st := .active, desc := { qdesc0 with cls := p.1 }, buf := [pk p.2.2] }
      startable (queued q) 1 = some (pk p.2.2) ∧ (pk p.2.2).command = p.2.1 ∧ packetOk p.1 (pk p.2.2) = true) ∧
    packetOk 0 (pk [512]) = false ∧ (readCounter (queued {}) 0 0x5000).isSome = true ∧ readCounter (queued {}) 0 0x4000000000 = none ∧
    (hubBytes (queued {}) 0 0x4000 64).isSome = true ∧ hubBytes (queued {}) 0 0x4000000000 64 = none ∧
    (hubUpdate (releaseAll (queued {})) 0 0x5000 (fun v => v + 1)).isSome = true ∧ hubUpdate (releaseAll (queued {})) 0 0x4000000000 (fun v => v + 1) = none ∧
    pubReadable (queued {}) 0 4095 = true ∧ pubEntry (queued {}) 0 4095 = none := by
  intro pk
  exact ⟨by decide +kernel, by decide, by decide +kernel, by decide +kernel, by decide +kernel, by decide +kernel, by decide +kernel, by decide +kernel, by decide +kernel, by decide +kernel⟩

/-! ## The dispatcher, tasks, translation and renders: witnesses -/

def done0 : Coil := { threads := [], complete := true }
def taskOf (ending faulted : Bool) : TaskCtx :=
  { tcb := 0x4000, launch := 0, part := 1, iter := 0, pro := 0, ker := 0, epi := 0, trip := 1, itreg := 0, hasEpi := false, ending, faulted }
/-- A running part whose group 0 has one coil, in address space 0. -/
def working (co : Coil) : State := { small co 1 with mem := tables, xlat := { asCopies := [(0, 0x1001, 0)] }, mod := { cond := .running }, cur := .none }

/-- A group that has completed; the two cores of one episode under BAL_WINDOW of 1; a cluster that stops without an error, and one in which a register of lane 31 holds an error. -/
theorem witness_DispatchResults :
    let g := working done0
    let e : State := { running with fw := { running.fw with balWindow := 0 }, mod := { running.mod with episodes := [(0, 1)], balance := [(0, [(0, 4000, 2), (1, 0, 2)])] } }
    let rs := episodeRanks 2 [(0, 4000, 2), (1, 0, 2)]
    let stops (co : Coil) : State := { working co with disp := { (working co).disp with clusters := [(0, { launch := 0, x := 0, y := 0, z := 0, groups := [0], stopping := true })] } }
    (∃ q, g.group? 0 = some q ∧ q.started = true ∧ q.saved = false ∧ (∀ co ∈ q.coils, co.complete = true) ∧ (∀ c ∈ g.cor.copies, (c.2.owner.map (·.1)) ≠ some 0) ∧
      q.mx.queue = [] ∧ (g.cluster q.cluster).render = none) ∧
    (tgetD running.mod.episodes 0 0 < running.fw.balWindow.toNat + 1 ∧ e.fw.balWindow.toNat + 1 ≤ tgetD e.mod.episodes 0 0 ∧ tgetD e.mod.balance 0 [] = [(0, 4000, 2), (1, 0, 2)]) ∧
    (rs.map (·.1) = [1, 0] ∧ e.fw.balEn = true ∧ (∀ k ∈ [0, 1], qLe (coreScore rs k) (coreScore rs 0) = true ∧ (qLe (coreScore rs 0) (coreScore rs k) = true → 0 ≤ k)) ∧
      (∀ k ∈ [0, 1], qLe (coreScore rs 1) (coreScore rs k) = true ∧ (qLe (coreScore rs k) (coreScore rs 1) = true → k ≤ 1)) ∧
      coreFreq e 0 < 3600 ∧ coreFreq e 0 < tgetD e.mod.ceiling 0 3600 ∧ 2800 < coreFreq e 1) ∧
    (∀ co ∈ [coil0, { coil0 with bad := [31] }], (tget (stops co).disp.clusters 0).map (·.stopping) = some true ∧ ((stops co).group? 0).isSome = true ∧ groupReady (stops co) 0 = true) ∧
    pendingIn ((quietGroup (stops coil0) 0).group 0) = none ∧ pendingIn ((quietGroup (stops { coil0 with bad := [31] }) 0).group 0) = some (0, 31, 0) := by
  intro g e rs stops
  exact ⟨⟨_, rfl, by decide⟩, by decide, by decide, by decide, by decide +kernel, by decide +kernel⟩

/-- Regions 0 and 23 are allowed: the part without groups puts two groups on the first two cores of region 0, and finds no region for nine. -/
theorem witness_PlacementRule : [0, 23].Pairwise (· < ·) ∧ bestFit running {} 2 [0, 23] = some (0, [0, 1]) ∧ bestFit running {} 9 [0, 23] = none := by decide +kernel

theorem witness_TaskAndCopyResults :
    let faulty : State := { working coil0 with cor := { (working coil0).cor with regions := [(23, { faults := [(0x4000, 0)] })] } }
    let ready : State := { working { coil0 with parked := true } with cor := { (working { coil0 with parked := true }).cor with regions := [(0, { ready := [(3, [{ tcb := 0x4000, launch := 0, at_ := 0 }])] })] } }
    let copies (c : Copy) : State := { working coil0 with cor := { (working coil0).cor with copies := [(1, c)], cores := [(0, { copyq := [1] })] } }
    ((faulty.region 23).faults = (0x4000, 0) :: [] ∧ 23 < 24 ∧ tcbPa faulty (faulty.launch 0).asid.toNat 0x4000 = some 0x4000 ∧ (faulty.region 0).faults = []) ∧
    (unread_ ready 0 = [] ∧ pickTask ready 0 = some (3, { tcb := 0x4000, launch := 0, at_ := 0 }, 0, 0)) ∧ (({ coil0 with stopped := true } : Coil).stopped = true) ∧
    (let s := working { coil0 with task := some (taskOf false true) }
     (s.coil 0 0).task = some (taskOf false true) ∧ (s.coil 0 0).stopped = false) ∧
    (let s := working { coil0 with task := some (taskOf true false) }
     (s.coil 0 0).task = some (taskOf true false) ∧ (s.coil 0 0).stopped = false ∧ (s.group 0).saved = false ∧ (∀ e ∈ s.cor.copies, e.2.owner = none) ∧ (s.group 0).mx.queue = [] ∧
     tcbPa (releaseAt s 0 3) 0 0x4000 = some 0x4000 ∧ tcbPa (releaseAt s 0 3) 0 0x4001 = none) ∧
    (let s := working { coil0 with parked := true }
     allPlaced s 0 = true ∧ noTasks s 0 = true ∧ ∀ e ∈ s.cor.groups, e.2.launch = 0 → ∀ co ∈ e.2.coils, co.parked = true ∨ co.complete = true) ∧
    (let c : Copy := { owner := some (0, 0, 31), st := .running }
     (copies c).copy? 1 = some c ∧ ((copies c).core 0).copyq = 1 :: [] ∧ mayMove (copies c) 1 c = true ∧ ((copies c).group 0).saved = false ∧ spareWaits (copies c) { c with st := .landed } = false ∧ localBad (copies c) 0 c.off 64 = false) ∧
    (let c : Copy := { st := .failed, status := 1 }
     (copies c).copy? 1 = some c ∧ c.owner = none) := by
  intro faulty ready copies
  exact ⟨by decide +kernel, by decide, by decide, by decide, by decide +kernel, by decide, by decide, by decide⟩

/-- Pages that are mapped, absent and of no address space; a thread whose watchdog has run out; a key without a holder whose watchdog has, and a request that is retried. -/
theorem witness_TranslationAndCoreResults :
    let miss (asid vpn : Nat) (posted : Bool) : Merge := { asid, vpn, kind := 1, core := 0, posted }
    let s : State := { running with xlat := { running.xlat with merge := [(4095, miss 0 4 false), (4094, miss 0 0x40000 true), (4093, miss 1 0 false)], busy := true } }
    let w : Waiter := { gid := 0, coil := 0, lane := 0, seq := 1 }
    let e : KeyEntry := { asid := 0, dom := 5, key := 7, waiters := [w], wdog := 40 * 2 ^ 20 }
    let t : State := { running with time := 40 * 2 ^ 20, slices := [(127, { keys := [(1, e)] })] }
    let late : Coil := { coil0 with landings := [{ regs := [((false, 255, 31), 1)] }] }
    let watch : State := { working coil0 with time := 40, disp := { (working coil0).disp with launches := [(0, { launch0 with rec_ := { launch0.rec_ with wdog := 1, fair := true } })] } }
    (tget s.xlat.merge 4095 = some (miss 0 4 false) ∧ walk s 0 (4 * 4096) = .leaf (0x400F + 3 * 2 ^ 64)) ∧ walk s 0 (0x40000 * 4096) = .absent ∧ walk s 1 0 = .bad ∧
    ((miss 0 0x40000 true).posted = true ∧ (miss 0 4 false).fail = 0 ∧ s.xlat.busy = true ∧ tgetD s.xlat.scWaiting (s.xlat.wheel % 256) [] = []) ∧
    ((working late).coil 0 0).landings = { regs := [((false, 255, 31), 1)] } :: [] ∧
    (watchdogLanes watch 0 0 = List.range 32 ∧ (watch.launchOf 0).rec_.fair = true ∧ 256 ≤ ({ coil0 with stickyCount := 256 } : Coil).stickyCount) ∧
    (tget (t.slice 127).keys 1 = some e ∧ keyExpired t e = true ∧
     let r : WaitRec := { lanes := 1, wait := .table 127 0, order := 0, next := 0 }
     ({ coil0 with waits := [r] } : Coil).waits = [] ++ r :: [] ∧ 0 ≤ t.time ∧ keyFull t 127 = false) ∧
    s.xlat.tlbiFrom = none ∧ tlbiWaits (tlbiRemove s) ((tlbiRemove s).xlat.tlbiFrom.getD 0) = false ∧ (tlbiRemove s).xlat.tlbiFrom = some 0 := by
  intro miss s w e t late watch
  exact ⟨by decide +kernel, by decide +kernel, by decide +kernel, by decide, by decide, by decide, by decide +kernel, rfl, by decide +kernel, by decide +kernel⟩

/-- An invalidation that waits for an `SC` operation issued before its entries went, and one that waits for none. -/
theorem witness_TranslationAndCoreResults_waits :
    let o : ScOp := { kind := 0, gid := 0, coil := 0, core := 0, scope := 0, size := 4, order := 3, data := 0, data2 := 0, aop := 0, at_ := 0, sx := false, regs := [], pages := [(0, 0)] }
    let s (ops : Tab (List ScOp)) : State := { running with xlat := { running.xlat with busy := true, tlbiFrom := some 3, tlbiAllAsid := true, scWaiting := ops } }
    tlbiWaits (s [(0, [o])]) 3 = true ∧ tlbiWaits (s []) 3 = false ∧ (s []).xlat.tlbiFrom = some 3 := by decide

/-- A render with a fragment to shade and a free coil; one applied, killed and not; and all applied. A pass of each code that ends. -/
theorem witness_RenderResults :
    let r (n a : Nat) (f : Frag) : Render := { pass := 1, tile := 0, cluster := 0, owner := 0, frags := [f], nextFrag := n, applied := a }
    let s (q : Render) (p : Pass) : State := { working done0 with gfx := { renders := [(1, q)], passes := [(1, p)] } }
    let kill : Frag := { fragment0 with done := true }
    let show_ : Frag := { fragment0 with done := true, result := some ([0, 0, 0, 0], 1) }
    let ended : State := { working done0 with gfx := { passes := [(1, { pass0 with code := 1 })] }, disp := { launches := [(0, { launch0 with ended := some .cancelled })] } }
    (tget (s (r 0 0 fragment0) pass0).gfx.renders 1 = some (r 0 0 fragment0) ∧ freeCoil (s (r 0 0 fragment0) pass0) 0 = some (0, 0) ∧ 0 < (r 0 0 fragment0).frags.length) ∧
    (∀ f ∈ [kill, show_], (r 1 0 f).frags[(r 1 0 f).applied]? = some f ∧ tget (s (r 1 0 f) pass0).gfx.passes 1 = some pass0 ∧ f.done = true) ∧
    (kill.result = none ∧ show_.result = some ([0, 0, 0, 0], 1)) ∧
    (let t := s (r 1 1 kill) pass0
     (r 1 1 kill).frags.length ≤ (r 1 1 kill).applied ∧ ∀ g ∈ (t.cluster 0).groups, (∀ co ∈ (t.group g).coils, co.complete = true) ∧ (t.group g).mx.queue = [] ∧ ∀ e ∈ t.cor.copies, (e.2.owner.map (·.1)) ≠ some g) ∧
    ((ended.launch 0).ended.isSome = true ∧ pass0.stage ≠ .ended) ∧
    (let p : Pass := { pass0 with stage := .rendering, shadeLaunch := 9 }
     p.code = 0 ∧ p.todo = [] ∧ (∀ e ∈ ({ working done0 with gfx := { passes := [(1, p)] } } : State).gfx.renders, e.2.pass ≠ 1) ∧
     ∀ e ∈ (working done0).disp.clusters, e.2.launch ≠ p.shadeLaunch) := by
  intro r s kill show_ ended
  exact ⟨by decide, by decide, by decide, by decide, by decide, by decide⟩

/-! ## The display: witnesses -/

/-- Head 0 in a mode of 8 by 64 pixels and 100 lines, a line time of 1 dc, with a row of core 0. -/
def head0 : Head :=
  { timing := { hactive := 8, vactive := 64, vtotal := 100, iface := 1, outBits := 8, lt := 256 }, synth := true, row := { members := [0] } }
def showing (d : Head) (g : Glaze) (t : Nat) : State := { running with time := t, dpy := { heads := [(0, d)], glaze := [(0, g)], member := 1, synthEn := 1 } }

/-- The bytes that a read of a source gives, if it gives any, and the code that it fails with. -/
def readOf (r : Except Nat (List Byte)) : Option (List Byte) × Option Nat := match r with | .ok b => (some b, none) | .error e => (none, some e)
theorem sourceBytes_ok {r : Except Nat (List Byte)} {b : List Byte} (h : (readOf r).1 = some b) : r = .ok b := by
  cases r with
  | ok c => simpa [readOf] using h
  | error e => simp [readOf] at h
theorem sourceBytes_error {r : Except Nat (List Byte)} {e : Nat} (h : (readOf r).2 = some e) : r = .error e := by
  cases r with
  | ok c => simp [readOf] at h
  | error f => simpa [readOf] using h

/-- A round whose time has come, with members, without and past the end; rows that issue, stop and go on; a `SYNC` at which all have arrived; a band that starts and one that drains. -/
theorem witness_RowResults :
    let s := showing head0 { row := some 0 } 0
    let entry : FifoEntry := { bundle := none, cores := [0] }
    let full_ : Glaze := { row := some 0, fifo := List.replicate 2048 entry }
    (displayRuns s = true ∧ head0.on = true ∧ head0.row.active = false ∧ head0.row.stopped = false ∧ (head0.mode = none ∨ head0.trains = false) ∧ head0.dueAt 0 0 ≤ (s.time : Int) * 256) ∧
    (0 < head0.nbands 0 ∧ head0.nbands 0 ≤ 2) ∧ rowFull s 0 = false ∧
    (2048 ≤ fifoCount (showing head0 full_ 0) 0 0 ∧ fifoCount s 0 0 < 2048) ∧
    (let d : Head := { head0 with row := { head0.row with syncWait := true } }
     d.row.syncWait = true ∧ d.row.members[0]? = some 0 ∧ syncArrived (showing d { row := some 0, begun := true } 0) 0 0 0 = true) ∧
    (let g : Glaze := { row := some 0, fifo := [entry], roundFrame := 9 }
     let t := (showing head0 g 0).modGl 0 dropStale
     (t.gl 0).row = some 0 ∧ (t.gl 0).fifo = entry :: [] ∧ entry.cores.findIdx? (· = 0) = some 0 ∧ (t.gl 0).phase = .idle ∧ entry.due ≤ (t.head 0).row.time) ∧
    (({ phase := .draining } : Glaze).phase = .draining ∧ ({ phase := .draining } : Glaze).flight = []) ∧
    (let d : Head := { head0 with row := { head0.row with active := true, first := 1 } }
     d.row.active = true ∧ min (d.row.first + d.row.members.length) (d.nbands d.row.frame) - 1 = 1 ∧ (d.row.startAt : Int) * 256 ≤ d.deadlineAt 0 1 ∧ d.deadlineAt 0 1 < ((1650 : Int) + 55) * 256) ∧
    (let done : Fetch := { m1 := true, src := 0x4000, dst := 0, len := 4, zeros := false }
     let f : Fetch := { done with left := [0] }
     let g : Glaze := { fetches := [f] }
     ([done].find? (fun f => f.m1 = true) = some done ∧ g.fetches.find? (fun f => f.m1 = true) = some f) ∧ f.left[Config.fetchPiece s.free % f.left.length]? = some 0 ∧
     f.due ≤ s.time ∧ s.time < ({ f with due := 1 } : Fetch).due ∧ bankLocked g 0 4 = false ∧ bankUsed s g 0 4 = false ∧ bankUsed s g (metaAt g.sparse) 1 = false ∧
     sourceBytes s f.asid.toNat 0 (0x4000 + 32 * 0) 4 = .ok [0, 0, 0, 0] ∧ sourceBytes s 0 0 0x4000000000 4 = .error tPAGE_FAULT ∧ g.roundFrame = f.frame ∧ g.round = f.round) := by
  intro s entry full_
  refine ⟨by decide, by decide, by decide, ⟨?_, by decide⟩, by decide, by decide, by decide, by decide, ⟨by decide, ?_, by decide, by decide, by decide, by decide, by decide, ?_, ?_, rfl, rfl⟩⟩
  · decide +kernel
  · simp [Nat.mod_one]
  · exact sourceBytes_ok (by decide +kernel)
  · exact sourceBytes_error (by decide +kernel)

/-- Requests and commands, free and not; a pose at its time, a deadline, a line with and without pixels, and a frame that ends as it was, with a new timing, and off. -/
theorem witness_HeadResults :
    let off : Head := { head0 with timing := {} }
    let last : Head := { head0 with line := 64 }
    let x : Band := { frame := 0, band := 0, deadline := true }
    let lines (q : List (Nat × Nat × Nat × List W64)) : Head := { head0 with bands := [x], fifo := q }
    (({ head0 with hreqState := 1 } : Head).hreqState = 1 ∧ head0.hreqState ≠ 1) ∧
    ((0x19 : W64).toNat / 2 ^ 3 % 4 = 3 ∧ (0x19 : W64).toNat % 8 = 1 ∧ (0x1C : W64).toNat / 2 ^ 3 % 4 = 3 ∧ (0x1C : W64).toNat % 8 = 4) ∧
    ((0x39 : W64).getLsbD 5 = true ∧ (0x19 : W64).getLsbD 5 = false) ∧
    (head0.on = true ∧ (framesAhead head0).find? (fun f => head0.awaits f 1 && ((head0.bandOf f 1).bind (·.pose)).isNone) = some 0 ∧ head0.latchAt 0 1 < ((0 : Int) + 55) * 256 ∧
      (framesAhead head0).find? (fun f => head0.awaits f 1 && !(((head0.bandOf f 1).map (·.deadline)).getD false)) = some 0 ∧ head0.deadlineAt 0 1 < ((1650 : Int) + 55) * 256) ∧
    (∀ q ∈ [[], [(0, 0, 0, List.replicate 8 0)]], (lines q).scanning = false ∧ (lines q).line < (lines q).timing.vactive.toNat ∧ (lines q).lineAt 0 0 ≤ (0 : Int) * 256 ∧ (lines q).bandOf 0 0 = some x) ∧
    (let d : Head := { lines [] with scanning := true }
     d.on = true ∧ d.scanning = true ∧ (0 : Int) * 256 < d.lineAt 0 (d.line + 1) ∧ d.lineAt 0 (d.line + 1) ≤ (5500 : Int) * 256) ∧ ({ head0 with trains := false } : Head).trains = false ∧
    (off.on = false ∧ ({ off with mode := some {} } : Head).mode = some {} ∧ ({ off with offPending := true } : Head).offPending = true) ∧
    (last.on = true ∧ last.timing.vactive.toNat ≤ last.line ∧ last.lineAt 1 0 ≤ (5500 : Int) * 256 ∧ last.mode = none ∧ last.offPending = false) := by
  intro off last x lines
  exact ⟨by decide, by decide, by decide, by decide +kernel, by decide +kernel, by decide +kernel, by decide, by decide, by decide +kernel⟩

/-! ## Encodings and steps: witnesses -/

/-- An `IADD` that decodes, an event without words, a bundle of slots, and a kiln bundle. -/
theorem witness_RoundTrip :
    let i : Instr := .iadd { msk := 3, mn := false, dst := .v 3, a := .v 1 false, b := .s 2 true, c := .v 0 false, fn := 0, ext := .none }
    (encodingOk i = true ∧ encode i = some (.xamal 0x11180C0102001100 none)) ∧ decode (.xamal 0x11180C0102001100 none) = some i ∧
    (decodeBundle (BitVec.ofNat 384 (0x84210004 * 2 ^ 32))).isSome = true ∧ (decodeKiln (BitVec.ofNat 128 (0x22800123 + 0x84210004 * 2 ^ 32))).isSome = true :=
  ⟨by decide, by decide, by decide +kernel, by decide +kernel⟩

/-- The state with a word placed, without the turn that runs it. -/
def placed (nbits w : Nat) : State := { State.reset.withFetchWord nbits w with agenda := [] }

/-- The bytes fetched, where the fetch succeeds. -/
def fetched (r : Except FetchStop Nat) : Option Nat := match r with | .ok n => some n | .error _ => none
theorem fetched_ok {r : Except FetchStop Nat} {n : Nat} (h : fetched r = some n) : r = .ok n := by
  cases r with
  | ok m => simpa [fetched] using h
  | error e => simp [fetched] at h
def decoded (r : Except Reject Instr) : Option Instr := match r with | .ok i => some i | .error _ => none
theorem decoded_ok {r : Except Reject Instr} {i : Instr} (h : decoded r = some i) : r = .ok i := by
  cases r with
  | ok m => simpa [decoded] using h
  | error e => simp [decoded] at h

/-- A placed `IADD` at the turn of its coil; a two-word `LD`; a bundle of a running band, and one whose line of 128 pixels takes two dc (R443); a
bundle of a kiln core; a due packet. -/
theorem witness_StepRunsDecoded :
    (let t := placed 64 0x11180C0102001100
     mayIssue t 0 0 = true ∧
     let u := goesTo t (exec (.fairnessTimerExpiry 0 0) t)
     nextPath (coreCycles u (u.group 0).core) (u.launchOf 0).rec_.fair (u.coil 0 0) = some (0xFFFFFFFF, true) ∧
     let x : State := { u with cur := .coil 0 0 (eligible (coreCycles u (u.group 0).core) (u.coil 0 0) 0xFFFFFFFF) 0 }
     (u.coil 0 0).turnOver = true ∧ ((u.coil 0 0).thread (lowestLane 0xFFFFFFFF)).pc = 0 ∧
     fetched (fetchWord x 0 0) = some 0x11180C0102001100 ∧
     decoded (decodeXamal 0x11180C0102001100 0) = some (.iadd { msk := 3, mn := false, dst := .v 3, a := .v 1 false, b := .s 2 true, c := .v 0 false, fn := 0, ext := .none })) ∧
    (let t := placed 128 (0xC078140600000002 + 0x0B000040 * 2 ^ 64)
     let u := goesTo t (exec (.fairnessTimerExpiry 0 0) t)
     let x : State := { u with cur := .coil 0 0 (eligible (coreCycles u (u.group 0).core) (u.coil 0 0) 0xFFFFFFFF) 0 }
     fetched (fetchWord x 0 0) = some 0xC078140600000002 ∧ fetched (fetchWord x 0 8) = some 0x0B000040) ∧
    (let t := placed 40 0x0C0A200200
     let g := t.gl 0
     ∃ e tail w b, g.phase = .running ∧ g.fifo = e :: tail ∧ g.inSync = false ∧ e.due ≤ (t.head g.ctx.head).row.time ∧ e.frame = g.roundFrame ∧ e.round = g.round ∧ e.bad = false ∧
       e.bundle = some w ∧ decodeBundle w = some b ∧ bundleWaits t g b = false ∧ remoteHead t 0 = false ∧ sixAhead g b = none ∧ bundleBad g b = false ∧ bundleDcs t g b ≤ g.served + 1) ∧
    (let p := placed 40 0x2C00000000
     let t := (p.modHead 0 (fun h => { h with timing := { h.timing with hactive := 128 } })).modGl 0 (fun g => { g with ctx := { g.ctx with head := 0, line0 := 0, nlines := 1 }, nextLine := 0 })
     let g := t.gl 0
     ∃ e tail w b, g.phase = .running ∧ g.fifo = e :: tail ∧ g.inSync = false ∧ e.due ≤ (t.head g.ctx.head).row.time ∧ e.frame = g.roundFrame ∧ e.round = g.round ∧ e.bad = false ∧
       e.bundle = some w ∧ decodeBundle w = some b ∧ bundleWaits t g b = false ∧ remoteHead t 0 = false ∧ sixAhead g b = none ∧ bundleBad g b = false ∧
       bundleDcs t g b = 2 ∧ g.served = 0) ∧
    (let t := placeControl State.reset 0x22800123
     let c := t.kiln 0
     c.stopped = false ∧ c.busy ≤ t.time ∧ c.waitcyc = none ∧ (decodeKiln ((c.code[c.pc.toNat]?).getD 0)).isSome = true) ∧
    (DueRow (queued { buf := [{ idx := 0, words := [5] }] }) (.packet 1) (.pktSignal 1) ∧ ((queued { buf := [{ idx := 0, words := [5] }] }).queue 1).buf ≠ []) := by
  refine ⟨⟨by decide +kernel, by decide +kernel, by decide +kernel, by decide +kernel, by decide +kernel, by decide⟩, ⟨by decide +kernel, by decide +kernel⟩, ?_, ?_, by decide +kernel, ⟨rfl, by decide⟩⟩
  · exact ⟨_, _, _, _, rfl, rfl, rfl, by decide, rfl, rfl, rfl, rfl, rfl, by decide +kernel, by decide +kernel, by decide +kernel, by decide +kernel, by decide +kernel⟩
  · exact ⟨_, _, _, _, rfl, rfl, rfl, by decide, rfl, rfl, rfl, rfl, rfl, by decide +kernel, by decide +kernel, by decide +kernel, by decide +kernel, by decide +kernel, rfl⟩

/-- A step from reset, whose memory is in its form and lists nothing, and one from a memory that lists a byte. -/
theorem witness_StepInvariant : Memory.wf State.reset.mem = true ∧ Memory.wf (State.reset.withFetchWord 64 0x11180C0102001100).mem = true ∧
    (State.reset.withFetchWord 64 0x11180C0102001100).mem ≠ [] := by decide +kernel

/-! ## Well-formedness: each check refuses an ill-formed term -/

/-- The source of a field that is not used. -/
def none0 : Src := .v 0 false

/-- For every event whose unit is numbered, the first number that names none. -/
theorem test_eventOk_refuses : ∀ i ∈ ([
    .displayCreditWindow 64, .classShareWindow 192, .gddrCrcError 64 0 0, .pageRetirement ⟨134217728, 0⟩, .channelEvacuation 64, .evacDone 64,
    .memRsvCtlWrite (.kiln 4) 0, .iclLaneFail 2, .iclRetrainDone 2, .iclPortFail 2, .iclLinkReturn 2, .ethLaneFail 8, .coreRetire 192,
    .coreRetireNoSpare 192, .sliceRetire ⟨128, []⟩, .sliceLossNoSpare ⟨128, []⟩, .kilnWatchdogRestart 4, .qmapMap 4096, .qmapUnmap 4096, .qmapRestart 4096,
    .qmapReload 4096, .pktNop 4096, .pktLaunch 4096, .pktGraph 4096, .pktCopy 4096, .pktWait 4096, .waitRecheck 4096, .waitTimeout 4096,
    .pktSignal 4096, .pktPhase 4096, .pktJobctlCancel 4096, .pktJobctlSetPriority 4096, .pktPresent 4096, .pktFence 4096, .energyRebalance 24,
    .waysClassWrite 4 0, .bwClassWrite 4 0, .memwinAccess 4 0x200 0 none, .memwinAccess 0 0x1FF 0 none, .taskDecideRetry 24,
    .taskDecideCancelSubgraph 24, .taskDecideLeave 24, .taskStart 24, .pageWalkComplete 4096, .dirtyLineSweep 192, .copyDescriptorFetch 192,
    .osGrant 128 0, .osWatchdogExpiry 128 0, .osOverflowRetry 128, .bandCfgWrite 4 0, .memheadWrite 4 0, .hreqModeSet 4, .hreqKernelLoad 4,
    .hreqHeadOff 4, .headCmdComplete 4, .poseSnapshot 4 0, .roundStart 4, .rowBundleIssue 4, .bandStart 16, .rowStop 4, .rowResume 4, .syncRelease 4,
    .bandDrainEnd 16, .roundTimeout 4, .poseLatch 4 0, .bandDeadline 4 0, .lineScanout 4, .fetchComplete 16 false, .gqPush 16,
    .hubRegisterWrite (.kiln 4) 0 false 0, .headFrameEnd 4] : List Instr), encodingOk i = true ∧ i.wellFormed = false := by decide +kernel

/-- For every rule of an encoding, a term that breaks it. -/
theorem test_encodingOk_refuses : ∀ i ∈ ([
    -- the mask code, a mask destination, an unused source, an unused destination, an unassigned FN, a mask that is none, a `.UNI` form with operands of kind `v`
    .iadd { op (.v 3) (.v 1 false) (.v 2 false) none0 with msk := 12 }, .iadd { op (.v 3) (.v 1 false) (.v 2 false) none0 with msk := 14 }, .mset (op (.m 12) (.v 1 false) none0 none0),
    .iadd (op (.v 3) (.v 1 false) (.v 2 false) (.v 1 false)), .exit (op (.v 1) none0 none0 none0), .iadd (op (.v 3) (.v 1 false) (.v 2 false) none0 3),
    .iadd (op (.v 3) (.mask 13) (.v 2 false) none0), .iadd (op (.v 3) (.v 1 false) (.v 2 false) none0 4), .iadd (op (.s 3) (.v 1 false) (.s 2 false) none0 4),
    -- a special register that none names or that takes no immediate, and comparisons and stores against their entries
    .gets (op (.v 3) none0 none0 none0 0x0E), .sets (op (.sp 0x0E) (.v 1 false) none0 none0), .sets (op (.sp 0x0D) (.imm 1) none0 none0), .fcmp (op (.m 3) (.v 1 false) (.v 2 false) none0 2),
    .st { op (.v 0) (.v 1 false) (.imm 1) none0 4 with ext := memExt 0 0 0 },
    -- the second word: missing, there where none belongs, an offset of a branch, a scope, an order, both type codes, a slot without type code 18, the fields of a matrix instruction
    .bra (op (.v 0) none0 none0 none0), .exit { op (.v 0) none0 none0 none0 with ext := .b 0 }, .bra { op (.v 0) none0 none0 none0 with ext := .b 4 },
    .ld { op (.v 3) (.v 1 false) none0 none0 2 with ext := memExt 0 5 0 }, .ld { op (.v 3) (.v 1 false) none0 none0 2 with ext := memExt 0 0 2 },
    .ld { op (.v 3) (.v 1 false) none0 none0 2 with ext := memExt 0 2 4 }, .cvt { op (.v 3) (.v 1 false) none0 none0 with ext := .c 7 17 0 },
    .cvt { op (.v 3) (.v 1 false) none0 none0 with ext := .c 10 3 1 }, .mma { op (.v 0) none0 none0 none0 with ext := .x 2 3 2 6 1 2 128 0 },
    .mma { op (.v 0) none0 none0 none0 with ext := .x 1 3 2 6 1 2 64 0 },
    -- Swevar and kiln slots: a condition, a predicate, a TYPE, an FN, a field that is not used, an odd destination, a length, and registers of an even pair
    .sqbr 0 5 0, .sqbr 1 0 0, .swCmpReg 1 0 6 0, .swCmpImm 1 0 7 0, .vadd { ty := 6, pred := 9, d := 1, a := 1, b := 2, c := 0, fn := 0 }, .vadd { ty := 13, pred := 8, d := 1, a := 1, b := 2, c := 0, fn := 0 },
    .vadd { ty := 6, pred := 8, d := 1, a := 1, b := 2, c := 1, fn := 0 }, .vmul { ty := 0, pred := 8, d := 5, a := 1, b := 2, c := 0, fn := 8 }, .vsel { ty := 0, pred := 8, d := 5, a := 1, b := 2, c := 0, fn := 1 },
    .vrcp { ty := 0, pred := 8, d := 2, a := 1, fn := 0 }, .swRed { ty := 0, pred := 8, d := 4, a := 1, fn := 0 }, .psmov { ty := 6, pred := 8, d := 1, a := 4, fn := 0 },
    .spld { pred := 9, d := 5, a := 2, imm := 0 }, .fetch { pred := 8, d := 5, a := 2, imm := 33 }, .lineout { pred := 8, d := 32, a := 0, imm := 0 }, .poseget { pred := 8, d := 0, a := 1, imm := 0 },
    .srcgen { pred := 8, d := 1, a := 0, imm := 0 }, .mxl { pred := 8, d := 8, a := 0, imm := 0 }, .sixcfg { pred := 8, d := 3, a := 0, imm := 0 }, .kcIord 1 0, .kcIowr 1 0, .kcEvpop 2 0] : List Instr), i.wellFormed = false := by decide +kernel

/-- The terms beside them that break no rule. -/
theorem test_wellFormed : ∀ i ∈ ([.iadd (op (.v 3) (.v 1 false) (.v 2 false) none0), .iadd (op (.s 3) (.s 1 false) (.imm 2) none0 4), .gets (op (.v 3) none0 none0 none0 0x0D),
    .sets (op (.sp 0x0D) (.v 2 false) none0 none0), .bra { op (.v 0) none0 none0 none0 with ext := .b 8 }, .ld { op (.v 3) (.v 1 false) none0 none0 2 with ext := memExt 0 4 4 },
    .mma { op (.v 0) none0 none0 none0 with ext := .x 1 3 2 6 1 2 128 0 }, .sqbr 1 4 0, .vmul { ty := 0, pred := 8, d := 4, a := 1, b := 2, c := 0, fn := 8 }, .kcEvpop 4 0,
    .headFrameEnd 3, .pktFence 4095] : List Instr), i.wellFormed = true := by decide +kernel

/-! ## Words that the spec writes out -/

/-- The example words of chapters 13 to 16 and 19 to 23, beside those of `Obligations.DecodeWords`. -/
theorem test_decode_spec_words :
    decode (.xamal 0x5878000000000000 none) = some (.bar (op (.v 0) none0 none0 none0)) ∧
    decode (.xamal 0x6000000D00004000 none) = some (.ckick { op (.v 0) (.s 13 false) none0 none0 with msk := 0 }) ∧
    decode (.xamal 0x6178000200008000 none) = some (.waitall (op (.v 0) (.imm 2) none0 none0)) ∧
    decode (.xamal 0x5F10000400000000 none) = some (.taskarm { op (.v 0) (.v 4 false) none0 none0 with msk := 2 }) ∧
    decode (.xamal 0x2188200725081000 none) = some (.ffma { op (.v 8) (.v 7 false) (.s 37 false) (.v 8 false) with msk := 1 }) ∧
    decode (.xamal 0x5FF8000000000001 none) = some (.taskendAbort (op (.v 0) none0 none0 none0 1)) ∧
    decode (.xamal 0x06F82B0300004000 none) = some (.sets (op (.sp 0x0A) (.s 3 false) none0 none0)) ∧
    decode (.xamal 0xC1F80C0100000002 (some 0x09000000)) = some (.ldl { op (.v 3) (.v 1 false) none0 none0 2 with ext := memExt 0 1 1 }) ∧
    decode (.xamal 0x0508000000000000 none) = some (.yield { op (.v 0) none0 none0 none0 with msk := 1 }) ∧
    decode (.xamal 0x8178000300002000 (some 0xFFFFFFE0)) = some (.brc { op (.v 0) (.v 3 false) (.imm 0) none0 with ext := .b 0xFFFFFFE0 }) ∧
    decode (.xamal 0xC278000101002002 (some 0x11000000)) = some (.stl { op (.v 0) (.v 1 false) (.imm 1) none0 2 with ext := memExt 0 1 2 }) ∧
    decode (.xamal 0x1DF8080101002008 none) = some (.shfl (op (.v 2) (.v 1 false) (.imm 1) none0 8)) ∧
    decode (.xamal 0x5A00240704069400 none) = some (.osenter { op (.v 9) (.imm 7) (.s 4 false) (.s 6 false) with msk := 0 }) ∧
    decode (.xamal 0x5A80000704009001 none) = some (.osleaveLast { op (.v 0) (.imm 7) (.s 4 false) none0 1 with msk := 0 }) ∧
    decode (.xamal 0xEBF8000402006000 (some 0x10000)) = some (.zld { op (.v 0) (.s 4 false) (.imm 2) none0 with ext := .x 0 0 0 0 1 0 0 0 }) ∧
    decode (.xamal 0xE878000000000001 (some 0x2011182D)) = some (.mmas { op (.v 0) none0 none0 none0 1 with ext := .x 1 3 2 6 1 2 128 0 }) ∧
    decode (.xamal 0xE878000000000000 (some 0x90408)) = some (.mma { op (.v 0) none0 none0 none0 with ext := .x 0 2 0 1 1 1 0 0 }) ∧
    decode (.xamal 0xE9F800080E0F5400 (some 0x100000000)) = some (.acdrain { op (.v 0) (.s 8 false) (.s 14 false) (.s 15 false) with ext := .x 0 0 0 0 0 0 0 2 }) ∧
    decode (.xamal 0xEFF8000600004001 (some 0)) = some (.zrest { op (.v 0) (.s 6 false) none0 none0 1 with ext := .x 0 0 0 0 0 0 0 0 }) := by decide +kernel

/-- Words put together by hand from R296 and R302, for the families of which the spec writes none. -/
theorem test_decode_words :
    decode (.xamal 0x03F8000000000000 none) = some (.exit (op (.v 0) none0 none0 none0)) ∧
    decode (.xamal 0x0660140000000003 none) = none ∧
    decode (.xamal 0x0678140000000003 none) = some (.gets (op (.v 5) none0 none0 none0 3)) ∧
    decode (.xamal 0x3CF8000000000000 none) = some (.kill (op (.v 0) none0 none0 none0)) ∧
    decode (.xamal 0x38F8100206004000 none) = some (.texs (op (.v 4) (.s 2 false) (.v 6 false) none0)) ∧
    decode (.xamal 0x5FF8000000000000 none) = some (.taskend (op (.v 0) none0 none0 none0)) ∧
    decode (.xamal 0x6078000400004000 none) = some (.ckick (op (.v 0) (.s 4 false) none0 none0)) := by decide +kernel

/-- Rows of the opcode table that have words: the table's `match` of each, with its other bits 0. -/
theorem test_decode_table_words :
    decodeTableWord 32 0x04000000 = some (.swAddReg 0 0 0) ∧ decodeTableWord 48 0 = some .swVectorNop ∧ decodeTableWord 8 0x40 = some (.fwait 0 0) := by decide +kernel

/-! ## Values that the spec's examples give -/

/-- A register of a lane after an instruction. -/
def vAfter (i : Instr) (s : State) (lane n w : Nat) : Nat := ((goesTo s (exec i s)).coil 0 0).vNat lane n w
def sAfter (i : Instr) (s : State) (n w : Nat) : Nat := ((goesTo s (exec i s)).coil 0 0).sNat n w

/-- The table of R230: conversions from FP32 under RNE with SATC 0, code and flags (IV 1, DZ 2, OF 4, UF 8, NX 16). -/
theorem test_narrow_r230 :
    ([0x3F800000, 0x3E99999A, 0xC0200000, 0x43E00000, 0x43FA0000, 0x3A800000, 0x7F800000, 0x7FC00000].map (fun x =>
      [3, 4, 0, 5, 8].map (fun c => ((narrow c (valueOf 10 x) 0 false 0).1, ((narrow c (valueOf 10 x) 0 false 0).2).toNat)))) =
    [[(0x38, 0), (0x3C, 0), (0x2, 0), (0x0, 16), (0x3F80, 0)],
     [(0x2A, 16), (0x35, 16), (0x1, 24), (0x0, 16), (0x3E9A, 16)],
     [(0xC2, 0), (0xC1, 0), (0xC, 16), (0xD, 0), (0xC020, 0)],
     [(0x7E, 0), (0x5F, 0), (0x7, 20), (0x7, 20), (0x43E0, 0)],
     [(0x7F, 20), (0x60, 16), (0x7, 20), (0x7, 20), (0x43FA, 0)],
     [(0x00, 24), (0x14, 0), (0x0, 24), (0x0, 16), (0x3A80, 0)],
     [(0x7F, 4), (0x7C, 0), (0x7, 4), (0x7, 4), (0x7F80, 0)],
     [(0x7F, 0), (0x7E, 0), (0x0, 1), (0x0, 1), (0x7FC0, 0)]] := by decide +kernel

/-- R230: with SATC 1, 500 and +∞ become 448 in E4M3. -/
theorem test_narrow_satc : (narrow 3 (valueOf 10 0x43FA0000) 0 true 0).1 = 0x7E ∧ (narrow 3 (valueOf 10 0x7F800000) 0 true 0).1 = 0x7E := by decide +kernel

/-- R330: `LEA.S32 v[4:5], s[2:3], v9, 3`. -/
theorem test_lea : vAfter (.lea (op (.v 4) (.s 2 false) (.v 9 false) (.imm 3))) (small { coil0 with s := [(2, 0x1000), (3, 0x40)], v := [(9 * 32, 0xFFFFFFFE)] } 1) 0 4 2 = 0x0000004000000FF0 := by
  decide +kernel

/-- R333: one path holds lanes 0 to 7, with v2 = lane + 1 and v9 = 1; lanes 8 to 31 have v2 = 100. -/
def lanes8 : State :=
  small { coil0 with v := (List.range 32).map (fun l => (2 * 32 + l, if l < 8 then BitVec.ofNat 32 (l + 1) else 100)) ++ (List.range 8).map (fun l => (9 * 32 + l, 1)) } 0xFF

theorem test_iscan : (List.range 8).map (fun l => vAfter (.iscan (op (.v 3) (.v 2 false) none0 none0)) lanes8 l 3 1) = [1, 3, 6, 10, 15, 21, 28, 36] := by decide +kernel
theorem test_shfl_down : ((goesTo lanes8 (exec (.shfl (op (.v 4) (.v 2 false) (.v 9 false) none0 0x10)) lanes8)).coil 0 0).landings.flatMap (·.regs) =
    [2, 3, 4, 5, 6, 7, 8, 8].mapIdx (fun l n => ((false, 4, l), n)) := by decide +kernel
theorem test_iredc_max : sAfter (.iredc (op (.s 5) (.v 2 false) none0 none0 0x10)) lanes8 5 1 = 8 := by decide +kernel

/-- R346: `CVT.E4M3.F32.SR.SAT` of 0.3 by r = 4,660 and r = 40,960: 0x2A and 0x29, with NX. -/
theorem test_cvt_sr : ∀ p ∈ [((0x1234 : W32), 0x2A), (0xFFFFA000, 0x29)],
    let s := small { coil0 with v := [(5 * 32, 0x3E99999A), (6 * 32, p.1)] } 1
    let i : Instr := .cvt { op (.v 4) (.v 5 false) none0 (.v 6 false) 6 with ext := .c 10 3 0 }
    vAfter i s 0 4 1 = p.2 ∧ (((goesTo s (exec i s)).coil 0 0).thread 0).fpstat = 16 := by decide +kernel

/-- R366: four lanes add 1, 2, 3 and 4 to a word that holds 10; they get 10, 11, 13 and 16 in lane order, and it ends at 20. -/
theorem test_atom_add :
    let s : State := { small { coil0 with v := (List.range 4).map (fun l => (32 + l, BitVec.ofNat 32 (l + 1))) } 15 with mem := cellsWrite [] placedPage (leBytes 4 10) }
    let i : Instr := .atom { op (.v 7) (.s 4 false) (.v 1 false) none0 with ext := memExt 0 3 0 }
    let t := goesTo s (exec i s)
    ((t.coil 0 0).landings.map (·.regs)) = [[((false, 7, 0), 10), ((false, 7, 1), 11), ((false, 7, 2), 13), ((false, 7, 3), 16)]] ∧ loadNat t 0 (leaf0 0) 3 placedPage 4 = 20 := by decide +kernel

/-- R235: two products round to 47 and −7 at AE −6, in one step or two; 40 drains to FP16 as 0x3900; a third product of 2.25 makes 49, not 50. -/
theorem test_accumulate :
    let p (n : Int) (k : Int) : XR := xOfQ (qMul (qInt n) (pow2 k))
    accStep (-6) 0 0 [p 189 (-8), p (-27) (-8)] = (40, 0) ∧ (accStep (-6) 0 (accStep (-6) 0 0 [p (-27) (-8)]).1 [p 189 (-8)]).1 = 40 ∧
    drainValue (-6) 0 40 9 false = (0x3900, 0) ∧ drainValue (-6) 2 40 9 false = (0x7E00, 0) ∧ drainValue (-6) 4 40 9 false = (0x7C00, 0) ∧
    (accStep (-6) 0 0 [p 189 (-8), p 9 (-8)]).1 = 49 := by decide +kernel

/-- R137: |A2| of the example is 393,216, under 512 × 1,024. -/
theorem test_small_triangle :
    let v (x y : Int) : SVert := { x, y, depth := 0, w := .fin (qInt 1), attrs := [] }
    (area2 (v 2560 2560) (v 3072 2560) (v 2560 3328)).natAbs = 393216 := by decide

/-- R155: the pixel key and the block key of pixel (70, 3) under PASSTAG 2. -/
theorem test_fragkey : fragKey { desc0 with passtag := 2 } 70 3 = 0x2000C046 ∧ fragKey { desc0 with passtag := 2, coarse := true } 70 3 = 0x20000011 := by decide

/-- R182: the homography of the example. -/
theorem test_homography :
    let pose (x : Nat) : List Byte := [0x3F800000, 0, 0, 0, 0x3F800000, 0, 0, 0, 0x3F800000, x, 0, 0].flatMap (fun n => leBytes 4 n)
    homography (pose 0) (pose 0x3D800000) { focalX := 0x447A0000, focalY := 0x447A0000, centreX := 0x44F00000, centreY := 0x44870000, depth := 0x40000000 } =
      some [0x40000000, 0, 0x427A0000, 0, 0x40000000, 0, 0, 0, 0x40000000] := by decide +kernel

/-- R76: with HUBWIN.PAGE 0x14, port 0x130 is TASK_DECIDE at 0x50C0. -/
theorem test_task_decide : 0x14 * 1024 + 4 * (0x130 - 0x100) = 0x50C0 ∧
    ((goesTo running (exec (.kcIowr 4 0x130) { running with fw := { running.fw with kilns := [(1, { hubwin := 0x5000 })] }, cur := .kiln 1 0 })).kiln 1).badIo = false := by decide +kernel

/-- R355: `TEXS` of the example gives R 0x3F8D0000, G and B 0 and A 1.0; `TEXG` of channel 0 gives 0.0, 1.0, 2.0 and 3.0. -/
theorem test_texture :
    let land (i : Instr) := ((goesTo textured (exec i textured)).coil 0 0).landings.flatMap (fun d => d.regs.map (·.2))
    land (.texs sample0) = [0x3F8D0000, 0, 0, 0x3F800000] ∧ land (.texg sample0) = [0, 0x3F800000, 0x40000000, 0x40400000] := by decide +kernel

/-- R423: at vc t + 1 = 1 `VMUL.S8.W w4, w1, w2 ?p1` lands at the end of t + 4; element 4 gives 10,000 in bytes 4 and 5 of w4; element 5, disabled, leaves w5. -/
theorem test_vmul_wide :
    let g : Glaze := { vc := 1, p := [(1, 0x5555)], w := [(1, 0x0364#32 ++ 0#32), (2, 0xF964#32 ++ 0#32), (5, 0xAAAA#32 ++ 0#32)].map (fun e => (e.1, e.2.setWidth 4096)) }
    let fl := ((goesTo (glazed g 3) (exec (.vmul { ty := 0, pred := 1, d := 4, a := 1, b := 2, c := 0, fn := 8 }) (glazed g 3))).gl 0).flight
    let h := fl.foldl (fun g f => landRes g f.res) g
    fl.map (·.at_) = [4] ∧ (tgetD h.w 4 0).extractLsb' 32 16 = 0x2710 ∧ (tgetD h.w 5 0).extractLsb' 32 16 = 0xAAAA := by decide +kernel

end Sys2Proof.Tests
end

section
/-! PROOF. What the hub's accesses to memory leave of the time, of the command registers and of a queue's scan error (R43, R47, R57, R262). -/
namespace Sys2Proof.QueueProofs
open Sys2Proof.Machine Sys2Proof.Laws

/-! ## Fields of words -/

theorem field_zero (w n : Nat) : field w 0 n = w % 2 ^ n := by rw [field, Nat.pow_zero, Nat.div_one]

theorem bit_eq_testBit (w i : Nat) : bit w i = w.testBit i := by
  rw [Nat.testBit_eq_decide_div_mod_eq, bit]
  rfl

/-! ## What an access of the hub leaves unchanged -/

@[simp] theorem recallLines_cmd (s : State) (k pa n : Nat) : (recallLines s k pa n).cmd = s.cmd :=
  List.foldlRecOn (motive := fun t : State => t.cmd = s.cmd) _ _ rfl (fun _ h _ _ => h)

@[simp] theorem recallLines_time (s : State) (k pa n : Nat) : (recallLines s k pa n).time = s.time :=
  List.foldlRecOn (motive := fun t : State => t.time = s.time) _ _ rfl (fun _ h _ _ => h)

@[simp] theorem hubNote_cmd (s : State) (asid va n : Nat) : (hubNote s asid va n).cmd = s.cmd := by
  unfold hubNote
  split
  · split
    · exact recallLines_cmd ..
    · rfl
  · rfl

@[simp] theorem hubNote_time (s : State) (asid va n : Nat) : (hubNote s asid va n).time = s.time := by
  unfold hubNote
  split
  · split
    · exact recallLines_time ..
    · rfl
  · rfl

/-- The error that the scanner has found for a queue (R47). -/
abbrev scanErrOf (s : State) (qid : Nat) : Option Nat := (s.queue qid).scanErr

theorem tget_map {α β : Type} (f : α → β) (k : Nat) : ∀ t : Tab α, tget (t.map (fun e => (e.1, f e.2))) k = (tget t k).map f
  | [] => rfl
  | (j, x) :: t => by
    simp only [List.map_cons, tget]
    split
    · rfl
    · exact tget_map f k t

theorem putPhys_cmd (s : State) (pa : Nat) (bs : List Byte) : (putPhys s pa bs).cmd = s.cmd := by
  unfold putPhys
  dsimp only
  split
  · split <;> rfl
  · rfl

/-- A write that the device makes reaches a queue only in its waits (R57). -/
theorem physWrite_queue (s : State) (pa : Nat) (bs : List Byte) (qid : Nat) :
    (physWrite s pa bs).queue qid = (s.queue qid).written (putPhys s pa bs).time pa bs.length := by
  simp only [physWrite, State.queue, tgetD, tget_map (Queue.written _ pa bs.length), putPhys_cmd]
  cases tget s.cmd.queues qid <;> rfl

theorem physWrite_scanErr (s : State) (pa : Nat) (bs : List Byte) (qid : Nat) : scanErrOf (physWrite s pa bs) qid = scanErrOf s qid := by
  rw [scanErrOf, physWrite_queue]
  rfl

theorem recallOwners_scanErr (s : State) (k line qid : Nat) : scanErrOf (recallOwners s k line) qid = scanErrOf s qid := rfl

theorem mergeBytes_scanErr (s : State) (line : Nat) (d : DirtyLine) (qid : Nat) : ∀ n, scanErrOf (mergeBytes s line d n) qid = scanErrOf s qid
  | 0 => rfl
  | n + 1 => by
    simp only [mergeBytes]
    split
    · rw [physWrite_scanErr, mergeBytes_scanErr s line d qid n]
    · exact mergeBytes_scanErr s line d qid n

theorem regionWriteBack_scanErr (s : State) (r line qid : Nat) : scanErrOf (regionWriteBack s r line) qid = scanErrOf s qid := by
  unfold regionWriteBack
  split
  · exact mergeBytes_scanErr (recallOwners s 192 line) line _ qid 128
  · rfl

theorem recallRegions_scanErr (s : State) (line qid : Nat) : scanErrOf (recallRegions s line) qid = scanErrOf s qid :=
  List.foldlRecOn (motive := fun t => scanErrOf t qid = scanErrOf s qid) _ _ rfl (fun t h r _ => (regionWriteBack_scanErr t r line qid).trans h)

theorem deviceWrite_scanErr (s : State) (k pa : Nat) (bs : List Byte) (qid : Nat) : scanErrOf (deviceWrite s k pa bs) qid = scanErrOf s qid := by
  rw [deviceWrite, physWrite_scanErr, recallOwners_scanErr, recallRegions_scanErr]

theorem queueWrite_scanErr {s t : State} {d : QDesc} {va : Nat} {bs : List Byte} (h : queueWrite s d va bs = some t) (qid : Nat) :
    scanErrOf t qid = scanErrOf s qid := by
  unfold queueWrite at h
  split at h
  · split at h
    · cases h
    · obtain rfl := Option.some.inj h
      exact deviceWrite_scanErr ..
  · cases h

theorem settleScanError_of_none {s : State} {qid : Nat} (h : scanErrOf s qid = none) : settleScanError s qid = s := by
  simp only [settleScanError, h]

end Sys2Proof.QueueProofs
end

section
/-! PROOF. The command interface (R40 to R48, R57, R66, R76): QMAP, one poll of a queue, its waits, and what KC0 submits. -/
namespace Sys2Proof.QueueProofs
open Sys2Proof.Machine Sys2Proof.Laws

/-! ## QMAP (R45 to R47, R66) -/

section Qmap
variable {s : State} {qid : Nat} {d : QDesc}

theorem exec_qmapMap (hd : readQueue s qid = some d) (hq : qid < 4096) (hst : (s.queue qid).st = .unmapped) :
    exec (.qmapMap qid) s = .next (openQueue s qid d { running := (s.queue qid).running }) := by
  show execQmapMap qid s = _
  simp only [execQmapMap, hd, hst, Nat.not_le.2 hq, ne_eq, not_true, or_self, if_false]

theorem exec_qmapRestart (hd : readQueue s qid = some d) (hst : (s.queue qid).st = .error) :
    exec (.qmapRestart qid) s = .next (openQueue s qid d (s.queue qid)) := by
  show execQmapRestart qid s = _
  simp only [execQmapRestart, hd, hst, ne_eq, not_true, if_false]

/-- A queue with what RELOAD reads again of its descriptor (R47). -/
def reloaded (d : QDesc) (q : Queue) : Queue :=
  { q with desc := { q.desc with cls := d.cls, prio := d.prio, direct := d.direct, ivmax := d.ivmax } }

theorem exec_qmapReload (hd : readQueue s qid = some d) (hst : (s.queue qid).st ≠ .unmapped) :
    exec (.qmapReload qid) s = .next (if d.prio = (s.queue qid).desc.prio then s.modQueue qid (reloaded d)
      else toDispatcher (s.modQueue qid (reloaded d)) (.queuePrio qid d.prio)) := by
  show execQmapReload qid s = _
  simp only [execQmapReload, hd, hst, if_false]
  rfl

theorem exec_qmap_without_descriptor (hd : readQueue s qid = none) :
    exec (.qmapMap qid) s = .next (mapError s) ∧ exec (.qmapRestart qid) s = .next (mapError s) ∧ exec (.qmapReload qid) s = .next (mapError s) := by
  refine ⟨?_, ?_, ?_⟩
  · show execQmapMap qid s = _
    simp only [execQmapMap, hd, ite_self]
  · show execQmapRestart qid s = _
    simp only [execQmapRestart, hd, ite_self]
  · show execQmapReload qid s = _
    simp only [execQmapReload, hd, ite_self]

/-- A queue that UNMAP has taken down (R47). -/
def unmappedQueue (q : Queue) : Queue :=
  { q with st := .unmapped, err := 0, buf := [], wait := none, scanErr := none, phase := none }

theorem exec_qmapUnmap (hst : (s.queue qid).st ≠ .unmapped) :
    let q := s.queue qid
    let t := (dropTags s qid).modQueue qid unmappedQueue
    exec (.qmapUnmap qid) s = .next (closePhase
      ((queueWrite t q.desc q.desc.rptr.toNat (leBytes 4 q.r.toNat ++ leBytes 4 0)).getD (recordError t qid 8)) q.phase) := by
  intro q t
  show execQmapUnmap qid s = _
  simp only [execQmapUnmap, hst, if_false]
  change Host.Outcome.next (closePhase (match queueWrite t q.desc q.desc.rptr.toNat (leBytes 4 q.r.toNat ++ leBytes 4 0) with
    | some t => t | none => recordError t qid 8) q.phase) = _
  cases queueWrite t q.desc q.desc.rptr.toNat (leBytes 4 q.r.toNat ++ leBytes 4 0) <;> rfl

theorem exec_qmapUnmap_unmapped (hst : (s.queue qid).st = .unmapped) : exec (.qmapUnmap qid) s = .next (mapError s) := by
  show execQmapUnmap qid s = _
  simp only [execQmapUnmap, hst, if_true]

end Qmap

/-! ## One poll (R48, R49) -/

section Poll
variable {s : State} {qid : Nat}

/-- The scanner as it reads the W of a queue. -/
def pollBegun (s : State) (qid : Nat) : State :=
  s.modCmd (fun c => { c with reads := c.reads + 1, lastQid := qid, late := c.late || decide ((s.queue qid).due + 4 * 132000 < s.time) })

/-- The interval of a queue after a poll that saw `w` (R48). -/
def nextInterval (s : State) (q : Queue) (w : W32) : Nat :=
  if w ≠ q.wSeen then 32 * 132 else min (2 * q.interval) (2 ^ min q.desc.ivmax s.cmd.qmax.toNat * (32 * 132))

/-- A queue whose poll has seen `w`. -/
def pollSeen (s : State) (qid : Nat) (w : W32) : State :=
  let q := s.queue qid
  let iv := nextInterval s q w
  (hubNote (pollBegun s qid) q.desc.asid.toNat q.desc.wptr.toNat 4).modQueue qid (fun q => { q with interval := iv, due := s.time + iv, wSeen := w })

theorem exec_scannerPoll (hr : scannerRuns s = true) (hp : pollSlot s = true) (hd : dueQueue s = some qid) :
    exec .scannerPoll s = .next (pollQueue s qid) := by
  show execScannerPoll s = _
  simp only [execScannerPoll, hr, hp, hd, Bool.not_true, Bool.false_eq_true, or_self, if_false]

theorem pollQueue_unread (h : readW (pollBegun s qid) (s.queue qid) = none) :
    pollQueue s qid = settleScanError ((pollBegun s qid).modQueue qid (fun q => { q with scanErr := some 6 })) qid := by
  unfold pollBegun at h ⊢
  simp only [pollQueue, h]

theorem pollQueue_read {w : W32} (h : readW (pollBegun s qid) (s.queue qid) = some w) :
    let q := s.queue qid
    let u := pollSeen s qid w
    pollQueue s qid = settleScanError (if 2 ^ q.desc.ringLog2 < (w - q.r).toNat then u.modQueue qid (fun q => { q with scanErr := some 2 })
      else fetchBatches qid 3 u) qid := by
  unfold pollBegun at h
  simp only [pollQueue, h, pollSeen, nextInterval, pollBegun, pollCeiling, poll32, hubNote_cmd, hubNote_time]
  rfl

end Poll

/-! ## Waits (R57) -/

section Waits
variable {s : State} {qid : Nat} {w : QWait}

theorem foldl_eq_self {α β : Type} {f : β → α → β} {l : List α} {b : β} (h : ∀ a ∈ l, f b a = b) : l.foldl f b = b :=
  List.foldlRecOn (motive := (· = b)) l f rfl (fun _ e a ha => by rw [e, h a ha])

/-- A queue none of whose launches waits re-reads the counter of its own `WAIT` alone. -/
theorem exec_waitRecheck {pa v : Nat} (hst : (s.queue qid).st = .waiting) (hw : (s.queue qid).wait = some w) (hdue : w.due ≤ s.time)
    (hl : ∀ r ∈ (s.queue qid).running, ∀ id x, r.2 ≠ .launchWait id x) (hc : readCounter s (s.queue qid).desc.asid w.cnt = some (pa, v)) :
    let q := s.queue qid
    let t := hubNote s q.desc.asid.toNat w.cnt.toNat 8
    exec (.waitRecheck qid) s = .next (
      if w.val.toNat ≤ v then storeStatus (t.modQueue qid (fun q => { q with st := .active, wait := none })) qid
      else t.modQueue qid (fun q => { q with wait := some ({ w with pa }.again s.time (pollCeiling s q)) })) := by
  intro q t
  show execWaitRecheck qid s = _
  have hnow : ¬ s.time < w.due := Nat.not_lt.2 hdue
  simp only [execWaitRecheck]
  rw [foldl_eq_self]
  · simp only [hw, hst, hnow, hc, pollCeiling, hubNote_cmd, hubNote_time, ne_eq, not_true, or_self, if_false, q, t]
  · intro r hr
    split
    · rename_i id x h
      exact absurd h (hl r hr id x)
    · rfl

theorem exec_waitTimeout {t : Nat} (hst : (s.queue qid).st = .waiting) (hw : (s.queue qid).wait = some w) (hd : w.deadline = some t)
    (ht : t ≤ s.time) : exec (.waitTimeout qid) s = .next (failWait s qid 4) := by
  show execWaitTimeout qid s = _
  simp only [execWaitTimeout, hst, hw, hd, ht, Option.bind_some, and_self, if_true]

end Waits

/-! ## What KC0 submits (R76) -/

/-- The packet `p` of a queue in the hands of the hub, as KC0 submitted it. -/
def submitted (s : State) (qid : Nat) (p : Packet) (act : Nat) : State :=
  s.modQueue qid (fun q => { q with
    buf := q.buf.map (fun b => if b.idx = p.idx then { b with place := .submitted, act, addr := s.fw.submit.setWidth 57 } else b) })

theorem submit_oldestHeld {s : State} {qid act : Nat} {val : W64} {p : Packet} (hq : val.toNat % 2 ^ 12 = qid) (h12 : val.toNat / 2 ^ 12 % 16 = 0)
    (h48 : val.toNat / 2 ^ 48 = 0) (hp : oldestHeld (s.queue qid) = some p) (hi : val.toNat / 2 ^ 16 % 2 ^ 32 = p.idx.toNat)
    (ha : s.fw.submit.toNat / 2 ^ 57 % 16 = act) :
    submit s val act = startHead (submitted s qid p act) qid (fun b => b.idx = p.idx) := by
  have hqid : field val.toNat 0 12 = qid := (field_zero ..).trans hq
  have hact : field s.fw.submit.toNat 57 4 = act := ha
  have hidx : field val.toNat 16 32 = p.idx.toNat := hi
  have hlow : field val.toNat 12 4 = 0 := h12
  have hhigh : field val.toNat 48 16 = 0 := by rw [field, h48, Nat.zero_mod]
  simp only [submit, hqid, hact, hidx, hlow, hhigh, hp, ne_eq, not_true, or_self, if_false]
  rfl

/-- A queue that its oldest packet has left: R is past it (R43). -/
def passed (s : State) (q : Queue) : Queue :=
  { q with buf := q.buf.drop 1, r := q.r + 1, running := q.running.filter (fun r => !pendingDone s r.2) }

/-- Where the scanner has found no error, all that a start does to its queue is to pass the packet and to store R. -/
theorem takeHead_of_stored {s t : State} {qid : Nat} (he : (s.queue qid).scanErr = none)
    (h : let q := s.queue qid
      queueWrite (s.modQueue qid (passed s)) q.desc q.desc.rptr.toNat (leBytes 4 (q.r + 1).toNat) = some t) : takeHead s qid = t := by
  have hstored : storeR (s.modQueue qid (passed s)) qid = t := by
    simp only [storeR, modQueue_queue_same, passed, h]
  have hnone : scanErrOf t qid = none := by
    rw [queueWrite_scanErr h, scanErrOf, modQueue_queue_same]
    exact he
  change settleScanError (storeR (s.modQueue qid (passed s)) qid) qid = t
  rw [hstored, settleScanError_of_none hnone]

/-- Settles O47, one operation of the command interface at a time. That a poll and a wait keep the time and the registers is `hubNote_time` and
`hubNote_cmd`; that the write of R leaves the scanner without an error is `queueWrite_scanErr`. -/
theorem queueResults : Obligations.QueueResults := by
  intro s qid q
  refine ⟨fun d hd => ⟨exec_qmapMap hd, exec_qmapRestart hd, exec_qmapReload hd⟩, exec_qmap_without_descriptor, exec_qmapUnmap, exec_qmapUnmap_unmapped,
    ?poll, ?submit, fun w pa v => exec_waitRecheck, fun w t => exec_waitTimeout, fun t => takeHead_of_stored⟩
  case poll =>
    intro hr hs hd
    rw [exec_scannerPoll hr hs hd]
    exact ⟨fun h => congrArg _ (pollQueue_unread h), fun w h => congrArg _ (pollQueue_read h)⟩
  case submit =>
    intro val p hq h12 h48 hp hi act t e he ha
    have hsub : ∀ n, n = act → Host.Outcome.next (submit s val n) = (.next (startHead t qid (fun b => b.idx = p.idx)) : Out) := by
      rintro n rfl
      exact congrArg _ (submit_oldestHeld hq h12 h48 hp hi rfl)
    simp only [List.mem_cons, List.not_mem_nil, or_false] at he
    obtain rfl | rfl | rfl | rfl := he <;> exact hsub _ ha

end Sys2Proof.QueueProofs
end

section
/-! PROOF. How the oldest packet of a queue starts, and what each command does (R51 to R62). -/
namespace Sys2Proof.QueueProofs
open Sys2Proof.Machine Sys2Proof.Laws

/-! ## The oldest packet starts (R51 to R62) -/

/-- What a valid packet does as a command starts it. -/
def startAs (s : State) (qid : Nat) (p : Packet) : Nat → State
  | 0 => startNop s qid
  | 1 => startLaunch s qid p
  | 2 => startGraph s qid p
  | 3 => startCopy s qid p
  | 4 => startWait s qid p
  | 5 => startSignal s qid p
  | 6 => startPhase s qid p
  | 7 => if field (p.word 1) 0 4 = 1 then startCancel s qid p else startPrio s qid p
  | 8 => startPresent s qid p
  | 9 => startFence s qid p
  | _ => enterError s qid 1

section Start
variable {s : State} {qid n : Nat} {p : Packet} {which : Packet → Bool}

theorem startHead_invalid (hs : startable s qid = some p) (hw : which p = true) (hok : packetOk (s.queue qid).desc.cls p = false) :
    startHead s qid which = enterError s qid 1 := by
  simp only [startHead, hs, hw, hok, Bool.not_true, Bool.not_false, Bool.false_eq_true, or_true, if_false, if_true]

theorem startHead_valid (hs : startable s qid = some p) (hw : which p = true) (hok : packetOk (s.queue qid).desc.cls p = true)
    (hc : p.command = n) (hn : n ≠ 255) : startHead s qid which = startAs s qid p n := by
  subst hc
  simp only [startHead, hs, hw, hok, hn, Bool.not_true, Bool.false_eq_true, or_self, if_false]
  rfl

end Start

section Commands
variable {s : State} {qid : Nat} {p : Packet}

/-! ### `LAUNCH` (R55, R64, R65) -/

/-- The counter that a `LAUNCH` waits on; 0 names none. -/
def waitCounter (p : Packet) : BitVec 57 := if p.op = 1 then BitVec.ofNat 57 (p.word 2) else 0

/-- The launch that a packet of a queue names. -/
def launchOf (q : Queue) (qid : Nat) (p : Packet) : Launch :=
  let kc0 := p.place == .submitted && p.act == 0
  { recAddr := if kc0 then p.addr else BitVec.ofNat 57 (p.word 1), asid := q.desc.asid, qid, phase := q.phase, viaKc0 := kc0, direct := !kc0 }

/-- A launch handed to the dispatcher at once. -/
def launchNow (q : Queue) (qid : Nat) (p : Packet) (t : State) : State :=
  let n := newLaunch (phaseJoin t q.phase) { launchOf q qid p with waiting := false }
  takeHead (addRunning (toDispatcher n.2 (.launch n.1)) qid p.idx (.launch n.1)) qid

theorem startLaunch_without_counter (hw : waitCounter p = 0) : startLaunch s qid p = launchNow (s.queue qid) qid p s := by
  unfold waitCounter at hw
  simp only [startLaunch, hw, if_true]
  rfl

theorem startLaunch_counter_reached {pa v : Nat} (hw : waitCounter p ≠ 0)
    (hc : readCounter s (s.queue qid).desc.asid (waitCounter p) = some (pa, v)) (hv : p.word 3 % 2 ^ 64 ≤ v) :
    startLaunch s qid p = launchNow (s.queue qid) qid p (hubNote s (s.queue qid).desc.asid.toNat (waitCounter p).toNat 8) := by
  unfold waitCounter at hw hc ⊢
  simp only [startLaunch, hw, hc, if_false, BitVec.toNat_ofNat, hv, if_true]
  rfl

theorem startLaunch_waits {pa v : Nat} (hw : waitCounter p ≠ 0)
    (hc : readCounter s (s.queue qid).desc.asid (waitCounter p) = some (pa, v)) (hv : v < p.word 3 % 2 ^ 64) :
    let q := s.queue qid
    let m := newLaunch (phaseJoin (hubNote s q.desc.asid.toNat (waitCounter p).toNat 8) q.phase) { launchOf q qid p with waiting := true }
    startLaunch s qid p = takeHead (addRunning m.2 qid p.idx
      (.launchWait m.1 { cnt := waitCounter p, val := BitVec.ofNat 64 (p.word 3), pa, due := s.time + 32 * 132 })) qid := by
  unfold waitCounter at hw hc ⊢
  simp only [startLaunch, hw, hc, if_false, BitVec.toNat_ofNat, Nat.not_le.2 hv, hubNote_time]
  rfl

/-! ### `GRAPH` (R55, R87) -/

/-- The graph that a packet of a queue names. -/
def graphOf (q : Queue) (qid : Nat) (p : Packet) : Graph :=
  let kc0 := p.place == .submitted && p.act == 1
  { qid, asid := q.desc.asid, descAddr := if kc0 then p.addr else BitVec.ofNat 57 (p.word 1), nl := if p.op = 2 then p.word 2 % 2 ^ 16 else 0, phase := q.phase,
    viaKc0 := kc0 }

theorem startGraph_eq :
    let id := s.disp.nextGraph
    let t := phaseJoin s (s.queue qid).phase
    let u := { t with disp := { t.disp with graphs := tput t.disp.graphs id (graphOf (s.queue qid) qid p), nextGraph := id + 1 } }
    startGraph s qid p = takeHead (addRunning (toDispatcher u (.graph id)) qid p.idx (.graph id)) qid := by
  simp only [startGraph, graphOf, field_zero]

/-! ### `COPY` (R56) -/

theorem startCopy_without_descriptor (h : hubBytes s (s.queue qid).desc.asid.toNat (BitVec.ofNat 57 (p.word 1)).toNat 64 = none) :
    startCopy s qid p = takeHead s qid := by
  simp only [startCopy, h]

theorem startCopy_with_descriptor {bs : List Byte} (h : hubBytes s (s.queue qid).desc.asid.toNat (BitVec.ofNat 57 (p.word 1)).toNat 64 = some bs) :
    let d := parseDesc bs
    let r := hubCopy s qid p.idx (s.queue qid).desc.asid (BitVec.ofNat 57 (p.word 1)) d (p.word 2)
    startCopy s qid p = if d.kind ∈ [2, 3, 6] then enterError s qid 1 else takeHead (addRunning r.2 qid p.idx (.copy r.1)) qid := by
  simp only [startCopy, h, List.mem_cons, List.not_mem_nil, or_false]

/-! ### `WAIT` (R57) -/

/-- The wait that a packet names, on a counter at `pa`. -/
def waitOf (now pa : Nat) (p : Packet) : QWait :=
  let us := p.word 3 % 2 ^ 32
  { cnt := BitVec.ofNat 57 (p.word 1), val := BitVec.ofNat 64 (p.word 2), pa, deadline := if us = 0 then none else some (now + us * 132000), due := now + 32 * 132 }

theorem startWait_counter_read {pa v : Nat} (hc : readCounter s (s.queue qid).desc.asid (BitVec.ofNat 57 (p.word 1)) = some (pa, v)) :
    let u := hubNote s (s.queue qid).desc.asid.toNat (BitVec.ofNat 57 (p.word 1)).toNat 8
    let t := takeHead (u.modQueue qid (fun q => { q with st := .waiting, wait := some (waitOf s.time pa p) })) qid
    startWait s qid p = if p.word 2 % 2 ^ 64 ≤ v then takeHead u qid else if (t.queue qid).st = .waiting then storeStatus t qid else t := by
  simp only [startWait, hc, waitOf, BitVec.toNat_ofNat, hubNote_time, field_zero, poll32]

theorem startWait_counter_unread (hc : readCounter s (s.queue qid).desc.asid (BitVec.ofNat 57 (p.word 1)) = none) :
    startWait s qid p = enterError s qid 5 := by
  simp only [startWait, hc]

/-! ### `SIGNAL` (R58) -/

/-- The counter of a `SIGNAL` as it leaves it, on the state whose writes it has made visible. -/
def signalled (s : State) (qid : Nat) (p : Packet) : Option State :=
  hubUpdate (releaseAll s) (s.queue qid).desc.asid.toNat (p.word 1 % 2 ^ 57)
    (fun v => if (p.word 3).testBit 0 then (v + p.word 2) % 2 ^ 64 else p.word 2)

theorem startSignal_written {t : State} (h : signalled s qid p = some t) : startSignal s qid p = takeHead t qid := by
  unfold signalled at h
  simp only [startSignal, field_zero, bit_eq_testBit, h]

theorem startSignal_unwritten (h : signalled s qid p = none) : startSignal s qid p = enterError (releaseAll s) qid 5 := by
  unfold signalled at h
  simp only [startSignal, field_zero, bit_eq_testBit, h]

/-! ### `PRESENT` (R61) -/

theorem startPresent_published (hr : pubReadable s (s.queue qid).desc.asid.toNat (p.word 1 % 2 ^ 12) = true)
    (he : (pubEntry s (s.queue qid).desc.asid.toNat (p.word 1 % 2 ^ 12)).isSome = true) :
    startPresent s qid p = takeHead ((List.range 4).foldl (fun t h =>
      if (p.word 1).testBit (16 + h) then t.modHead h (fun d => { d with srcFrame := BitVec.ofNat 64 (p.word 2) }) else t)
      (publishEntry (releaseCores s 3) (s.queue qid).desc.asid.toNat (p.word 1 % 2 ^ 12))) qid := by
  have hn : ¬ ((!pubReadable s (s.queue qid).desc.asid.toNat (p.word 1 % 2 ^ 12)) = true ∨
      (pubEntry s (s.queue qid).desc.asid.toNat (p.word 1 % 2 ^ 12)).isNone = true) := by
    simp only [hr, Option.isNone_eq_false_iff.2 he, Bool.not_true, Bool.false_eq_true, or_self, not_false_eq_true]
  simp only [startPresent, field_zero, bit_eq_testBit, hn, if_false]

theorem startPresent_unpublished (h : pubReadable s (s.queue qid).desc.asid.toNat (p.word 1 % 2 ^ 12) = false ∨
    pubEntry s (s.queue qid).desc.asid.toNat (p.word 1 % 2 ^ 12) = none) : startPresent s qid p = enterError s qid 7 := by
  have hn : (!pubReadable s (s.queue qid).desc.asid.toNat (p.word 1 % 2 ^ 12)) = true ∨
      (pubEntry s (s.queue qid).desc.asid.toNat (p.word 1 % 2 ^ 12)).isNone = true := by
    simpa only [Bool.not_eq_true', Option.isNone_iff_eq_none] using h
  simp only [startPresent, field_zero, hn, if_true]

end Commands

/-- Settles O48: a startable packet that is valid starts as its command (`startHead_valid`), and each command does what its own lemma says; one that
is not valid stops its queue (`startHead_invalid`). -/
theorem packetResults : Obligations.PacketResults := by
  intro s qid p hs q done cmd w cnt counter
  have starts : ∀ {n}, n ≠ 255 → cmd n → startHead s qid (fun p => p.command = n) = startAs s qid p n :=
    fun hn ⟨hc, hok⟩ => startHead_valid hs (decide_eq_true hc) hok hc hn
  refine ⟨?invalid, ?nop, ?launch, ?graph, ?copy, ?wait, ?waitUnread, ?signal, ?phase, ?jobctl, ?present, ?fence⟩
  case invalid =>
    intro hbad e he hc
    simp only [List.mem_cons, List.not_mem_nil, or_false] at he
    obtain rfl | rfl | rfl | rfl | rfl | rfl | rfl | rfl | rfl := he <;>
      exact congrArg _ (startHead_invalid hs (by simp [hc]) hbad)
  case nop =>
    rintro ⟨hc, hok⟩
    exact congrArg _ (startHead_valid hs (by simp [hc]) hok hc (by decide))
  case launch =>
    intro h kc0 l wcnt u m now
    have hl : exec (.pktLaunch qid) s = .next (startLaunch s qid p) := congrArg _ (starts (by decide) h)
    rw [hl]
    exact ⟨fun h0 => congrArg _ (startLaunch_without_counter h0), fun h0 pa v hv =>
      ⟨fun hle => congrArg _ (startLaunch_counter_reached h0 hv hle), fun hlt => congrArg _ (startLaunch_waits h0 hv hlt)⟩⟩
  case graph =>
    intro h
    exact congrArg _ ((starts (by decide) h).trans startGraph_eq)
  case copy =>
    intro h
    have hl : exec (.pktCopy qid) s = .next (startCopy s qid p) := congrArg _ (starts (by decide) h)
    rw [hl]
    exact ⟨fun hb => congrArg _ (startCopy_without_descriptor hb), fun bs hb => congrArg _ (startCopy_with_descriptor hb)⟩
  case wait =>
    intro h pa v hv
    exact congrArg _ ((starts (by decide) h).trans (startWait_counter_read hv))
  case waitUnread =>
    intro h hv
    exact congrArg _ ((starts (by decide) h).trans (startWait_counter_unread hv))
  case signal =>
    intro h r
    have hl : exec (.pktSignal qid) s = .next (startSignal s qid p) := congrArg _ (starts (by decide) h)
    rw [hl]
    exact ⟨fun t ht => congrArg _ (startSignal_written ht), fun hn => congrArg _ (startSignal_unwritten hn)⟩
  case phase =>
    intro h
    exact congrArg _ (starts (by decide) h)
  case jobctl =>
    rintro ⟨hc, hok⟩
    refine ⟨fun h1 => ?_, fun h2 => ?_⟩
    · have hact : field (p.word 1) 0 4 = 1 := (field_zero ..).trans h1
      exact congrArg _ ((startHead_valid hs (by simp [hc, hact]) hok hc (by decide)).trans (if_pos hact))
    · have hact : field (p.word 1) 0 4 = 2 := (field_zero ..).trans h2
      exact congrArg _ ((startHead_valid hs (by simp [hc, hact]) hok hc (by decide)).trans (if_neg (by simp [hact])))
  case present =>
    intro h asid n
    have hl : exec (.pktPresent qid) s = .next (startPresent s qid p) := congrArg _ (starts (by decide) h)
    rw [hl]
    exact ⟨fun hr he => congrArg _ (startPresent_published hr he), fun hn => congrArg _ (startPresent_unpublished hn)⟩
  case fence =>
    intro h
    refine congrArg _ ((starts (by decide) h).trans ?_)
    show startFence s qid p = _
    rw [startFence, bit_eq_testBit]

end Sys2Proof.QueueProofs
end

section
/-! PROOF. The control words of the kiln cores (R70, R76, R438): each word's state as its rule gives it, and the end of a `WAITCYC`. -/
namespace Sys2Proof.KilnProofs
open Sys2Proof.Machine Sys2Proof.Laws Sys2Proof.Claims

/-! ## What a control word reads and writes -/

theorem onKiln_of_cur {s : State} {k : Nat} (h : OnKiln s k) (f : Nat → Kiln → State) : onKiln s f = f k (s.kiln k) := by
  obtain ⟨part, hc⟩ := h
  simp only [onKiln, hc]

theorem kbusy_eq_spent (s : State) (k fc : Nat) : kbusy s k fc = spent s k fc := rfl

theorem areg_toNat {s : State} {k : Nat} (h : OnKiln s k) (a : BitVec 5) : (areg s a).toNat = (s.kiln k).reg a.toNat := by
  obtain ⟨part, hc⟩ := h
  simp only [areg, hc, Kiln.reg, Nat.mod_eq_of_lt a.isLt]

theorem reg_eq_zero_iff {s : State} {k : Nat} (h : OnKiln s k) (a : BitVec 5) : (s.kiln k).reg a.toNat = 0 ↔ areg s a = 0 := by
  rw [← areg_toNat h]
  exact (BitVec.toNat_eq (y := 0)).symm

/-- The register after `a` is a number modulo 32 (R438). -/
theorem areg_succ_toNat {s : State} {k : Nat} (h : OnKiln s k) (a : BitVec 5) : (areg s (a + 1)).toNat = (s.kiln k).reg (a.toNat + 1) := by
  rw [areg_toNat h, BitVec.toNat_add, Kiln.reg, Kiln.reg, Nat.mod_mod]
  rfl

/-- The pair of registers that `IOWR` writes to a port, low word first (R438). -/
theorem areg_pair {s : State} {k : Nat} (h : OnKiln s k) (a : BitVec 5) :
    BitVec.ofNat 64 ((s.kiln k).reg a.toNat + (s.kiln k).reg (a.toNat + 1) * 2 ^ 32) = areg s (a + 1) ++ areg s a := by
  apply BitVec.eq_of_toNat_eq
  rw [BitVec.toNat_ofNat, BitVec.toNat_append, ← Nat.shiftLeft_add_eq_or_of_lt (areg s a).isLt, Nat.shiftLeft_eq, ← areg_toNat h, ← areg_succ_toNat h]
  omega

/-- The state with further register writes pending at the end of its bundle. -/
abbrev pending (s : State) (l : List (Nat × Nat × W32)) : State := { s with kwrites := s.kwrites ++ l }

theorem kput_kput (s : State) (a v b w : Nat) : kput (kput s a v) b w = pending s [kwrite a v, kwrite b w] := by
  simp only [kput, kwrite, pending, List.append_assoc, List.cons_append, List.nil_append]

theorem pending_pending (s : State) (l m : List (Nat × Nat × W32)) : pending (pending s l) m = pending s (l ++ m) := by
  simp only [pending, List.append_assoc]

/-- The four words of a record, in four registers from `a` on. -/
abbrev quadOf (a : BitVec 5) (v : Nat) : List (Nat × Nat × W32) :=
  [kwrite a.toNat v, kwrite (a.toNat + 1) (v / 2 ^ 32), kwrite (a.toNat + 2) (v / 2 ^ 64), kwrite (a.toNat + 3) (v / 2 ^ 96)]

theorem kput_quad (u : State) (a : BitVec 5) (v : Nat) :
    kput (kput (kput (kput u a.toNat v) (a.toNat + 1) (v / 2 ^ 32)) (a.toNat + 2) (v / 2 ^ 64)) (a.toNat + 3) (v / 2 ^ 96) = pending u (quadOf a v) := by
  rw [kput_kput, kput_kput, pending_pending]
  rfl

/-- The record of an empty queue has source 0xFF (R438). -/
theorem emptyRecord_source (u : State) : emptyRecord u % 2 ^ 8 = 0xFF := by
  unfold emptyRecord
  omega

/-! ## What a word does beside its registers -/

/-- A wait to a minor-frame boundary is the one that the watchdog requires (R71). -/
abbrev atMinor (k : Nat) (off : BitVec 10) (t : Nat) (u : State) : State := if off = 0 then u.modKiln k (fun q => { q with lastMinor := t }) else u

/-- What the pop of a record of KC0's queues frees, with `left` records still in the queue: a packet's is KC0's from then on, and launches that waited for
room go on (R65, R72, R73, R76). -/
def afterPop (q left : Nat) (t : State) : State :=
  match q with
  | 0 => popPacket t
  | 1 => { t with fw := { t.fw with acctHeld := if left + 64 ≤ 1024 then false else t.fw.acctHeld } }
  | 2 => retryEnds t
  | _ => t

/-- The conditions of R72, R73 and R76 one after the other, as `EVPOP` meets them. -/
theorem afterPop_eq (q left : Nat) (t : State) :
    (let u := if q = 0 then popPacket t else t
     let u := if q = 1 ∧ left + 64 ≤ evDepth 1 then u.modFw (fun f => { f with acctHeld := false }) else u
     if q = 2 then retryEnds u else u) = afterPop q left t := by
  match q with
  | 0 | 2 => rfl
  | 1 =>
    have h0 : ¬ 1 = 0 := by decide
    have h2 : ¬ 1 = 2 := by decide
    simp only [afterPop, evDepth, true_and, h0, h2, if_false]
    split <;> rfl
  | n + 3 =>
    have h0 : ¬ n + 3 = 0 := by omega
    have h1 : ¬ n + 3 = 1 := by omega
    have h2 : ¬ n + 3 = 2 := by omega
    simp only [afterPop, h0, h1, h2, false_and, if_false]

theorem afterPop_of_le {q left : Nat} {t : State} (hq : 3 ≤ q) : afterPop q left t = t := by
  obtain ⟨n, rfl⟩ := Nat.exists_eq_add_of_le' hq
  rfl

theorem queueOwner_of_lt {q : Nat} (hq : q < 3) : queueOwner q = 0 := by
  revert q
  decide

section Words
variable {s : State} {k : Nat} (h : OnKiln s k)
include h

/-! ## Transfers -/

theorem exec_kcNext : exec .kcNext s = .next (spent s k 1) := congrArg Host.Outcome.next (onKiln_of_cur h _)

theorem exec_kcJmp (t : BitVec 12) : exec (.kcJmp t) s = .next (kgo (spent s k 1) t) := congrArg Host.Outcome.next (onKiln_of_cur h _)

theorem exec_kcBrz (a : BitVec 5) (t : BitVec 12) : exec (.kcBrz a t) s = .next (if areg s a = 0 then kgo (spent s k 1) t else spent s k 1) := by
  show execKcBrz a t s = _
  simp only [execKcBrz, onKiln_of_cur h, kbusy_eq_spent, reg_eq_zero_iff h]

theorem exec_kcBrnz (a : BitVec 5) (t : BitVec 12) : exec (.kcBrnz a t) s = .next (if areg s a ≠ 0 then kgo (spent s k 1) t else spent s k 1) := by
  show execKcBrnz a t s = _
  simp only [execKcBrnz, onKiln_of_cur h, kbusy_eq_spent, ne_eq, reg_eq_zero_iff h]

theorem exec_kcCall (a : BitVec 5) (t : BitVec 12) :
    exec (.kcCall a t) s = .next (kgo (pending (spent s k 1) [kwrite a.toNat ((s.kiln k).pc.toNat + 1)]) t) :=
  congrArg Host.Outcome.next (onKiln_of_cur h _)

theorem exec_kcRet (a : BitVec 5) : exec (.kcRet a) s = .next (kgo (spent s k 1) ((areg s a).setWidth 12)) := by
  have ht : BitVec.ofNat 12 ((s.kiln k).reg a.toNat) = (areg s a).setWidth 12 := by rw [← areg_toNat h]; rfl
  exact congrArg Host.Outcome.next ((onKiln_of_cur h _).trans (congrArg _ ht))

/-! ## Ports and MEMWIN (R76) -/

theorem exec_kcIord_port {a : BitVec 5} {port : BitVec 10} (hp : port.toNat < 0x200) :
    exec (.kcIord a port) s = .next (if k ∈ (portCores port.toNat).getD [] then
        let v := portValue (spent s k 4) k port.toNat
        pending (spent s k 4) [kwrite a.toNat v, kwrite (a.toNat + 1) (v / 2 ^ 32)]
      else setBadIo (pending (spent s k 4) [kwrite a.toNat 0, kwrite (a.toNat + 1) 0]) k) := by
  show execKcIord a port s = _
  simp only [execKcIord, onKiln_of_cur h, kbusy_eq_spent, Nat.not_le.2 hp, if_false, List.contains_iff_mem, kput_kput, Nat.zero_div]

theorem exec_kcIowr_port {a : BitVec 5} {port : BitVec 10} (hp : port.toNat < 0x200) :
    exec (.kcIowr a port) s = .next (if k ∈ (portCores port.toNat).getD [] then portWrite (spent s k 2) k port.toNat (areg s (a + 1) ++ areg s a)
      else setBadIo (spent s k 2) k) := by
  show execKcIowr a port s = _
  simp only [execKcIowr, onKiln_of_cur h, kbusy_eq_spent, Nat.not_le.2 hp, if_false, List.contains_iff_mem, areg_pair h]

theorem exec_kcIord_memwin {a : BitVec 5} {port : BitVec 10} {v : Nat} (hp : 0x200 ≤ port.toNat) (hv : memwinRead (spent s k 256) k port = some v) :
    exec (.kcIord a port) s = .next (pending (memwinNote (spent s k 256) k port) [kwrite a.toNat v, kwrite (a.toNat + 1) (v / 2 ^ 32)]) := by
  show execKcIord a port s = _
  simp only [execKcIord, onKiln_of_cur h, kbusy_eq_spent, hp, if_true, kput_kput, hv]

theorem exec_kcIord_memwin_refused {a : BitVec 5} {port : BitVec 10} (hp : 0x200 ≤ port.toNat) (hn : memwinRead (spent s k 256) k port = none) :
    exec (.kcIord a port) s =
      .next (setBadIo (pending (spent s k 256) [kwrite a.toNat (2 ^ 64 - 1), kwrite (a.toNat + 1) ((2 ^ 64 - 1) / 2 ^ 32)]) k) := by
  show execKcIord a port s = _
  simp only [execKcIord, onKiln_of_cur h, kbusy_eq_spent, hp, if_true, kput_kput, hn]

theorem exec_kcIowr_memwin {a : BitVec 5} {port : BitVec 10} (hp : 0x200 ≤ port.toNat) :
    exec (.kcIowr a port) s = .next ((memwinWrite (spent s k 2) k port (areg s (a + 1) ++ areg s a)).getD (setBadIo (spent s k 2) k)) := by
  show execKcIowr a port s = _
  simp only [execKcIowr, onKiln_of_cur h, kbusy_eq_spent, hp, if_true, areg_pair h]

/-! ## WAITCYC (R70, R71, R438) -/

theorem exec_kcWaitcyc_slot {off : BitVec 10} {f i : Nat} {late : Bool} (hd : slotDue s (s.kiln k) off = some (f, i, late)) :
    exec (.kcWaitcyc off) s = .next (atMinor k off (s.time + 110) (s.modKiln k (fun q =>
      { q with busy := s.time + 110, nextMinor := f, nextSlot := i + 1, slip := if late then satInc q.slip else q.slip }))) := by
  show execKcWaitcyc off s = _
  simp only [execKcWaitcyc, onKiln_of_cur h, hd]

theorem exec_kcWaitcyc_ends {off : BitVec 10} {t : Nat} (hd : slotDue s (s.kiln k) off = none) (ht : waitEnd s off.toNat = some t) :
    exec (.kcWaitcyc off) s = .next (atMinor k off t (waitUntil s k t)) := by
  show execKcWaitcyc off s = _
  simp only [execKcWaitcyc, onKiln_of_cur h, hd, ht]

theorem exec_kcWaitcyc_waits {off : BitVec 10} (hd : slotDue s (s.kiln k) off = none) (ht : waitEnd s off.toNat = none) :
    exec (.kcWaitcyc off) s = .next (s.modKiln k (fun q => { q with waitcyc := some off })) := by
  show execKcWaitcyc off s = _
  simp only [execKcWaitcyc, onKiln_of_cur h, hd, ht]

/-! ## EVPOP (R72, R73, R76) -/

theorem exec_kcEvpop_record {a : BitVec 5} {src : BitVec 3} {r : BitVec 128} {rest : List (BitVec 128)}
    (ho : queueOwner src.toNat = k) (he : s.events src.toNat = r :: rest) :
    exec (.kcEvpop a src) s = .next (afterPop src.toNat rest.length (pending ((spent s k 2).setEvents src.toNat rest) (quadOf a r.toNat))) := by
  have he' : (spent s k 2).events src.toNat = r :: rest := he
  show execKcEvpop a src s = _
  simp only [execKcEvpop, onKiln_of_cur h, kbusy_eq_spent, ho, ne_eq, not_true, if_false, he', kput_quad]
  exact congrArg _ (afterPop_eq ..)

theorem exec_kcEvpop_empty {a : BitVec 5} {src : BitVec 3} (ho : queueOwner src.toNat = k) (he : s.events src.toNat = []) :
    exec (.kcEvpop a src) s = .next { pending (spent s k 2) (quadOf a (emptyRecord (spent s k 2))) with free := s.free + 2 } := by
  have he' : (spent s k 2).events src.toNat = [] := he
  show execKcEvpop a src s = _
  simp only [execKcEvpop, onKiln_of_cur h, kbusy_eq_spent, ho, ne_eq, not_true, if_false, he', kput_quad]
  rfl

theorem exec_kcEvpop_refused {a : BitVec 5} {src : BitVec 3} (ho : queueOwner src.toNat ≠ k) :
    let u := setBadIo (spent s k 2) k
    exec (.kcEvpop a src) s = .next { pending u (quadOf a (emptyRecord u)) with free := s.free + 2 } := by
  show execKcEvpop a src s = _
  simp only [execKcEvpop, onKiln_of_cur h, kbusy_eq_spent, ho, ne_eq, not_false_eq_true, if_true, kput_quad]
  rfl

end Words

/-! ## The place of an fc in its minor frame -/

/-- The end of a `WAITCYC` after boot completion is an fc later by at most one minor frame, at its place. -/
theorem waitEnd_booted {s : State} {off t : Nat} (hoff : off < 1024) (hb : s.fw.booted = true) (ht : waitEnd s off = some t) :
    let fc := (s.time - s.fw.bootTime) / 110
    ∃ ahead, 1 ≤ ahead ∧ ahead ≤ 1024 ∧ t = s.fw.bootTime + (fc + ahead) * 110 ∧ (fc + ahead) % 1024 = off := by
  simp only [waitEnd, hb, if_true, Option.some.injEq] at ht
  exact ⟨_, by omega, by omega, ht.symm, by omega⟩

/-- Of the fc after this one, within one minor frame, the one at a place is the first there. -/
theorem place_unique {fc ahead n : Nat} (hle : ahead ≤ 1024) (h1 : fc < n) (h2 : n < fc + ahead) : n % 1024 ≠ (fc + ahead) % 1024 := by
  omega

theorem waitEnd_first {s : State} {off t : Nat} (hoff : off < 1024) (hb : s.fw.booted = true) (hboot : s.fw.bootTime ≤ s.time) (ht : waitEnd s off = some t) :
    s.time < t ∧ t ≤ s.time + 1024 * 110 ∧ (t - s.fw.bootTime) % 110 = 0 ∧ (t - s.fw.bootTime) / 110 % 1024 = off ∧
    ∀ u, s.time < u → u < t → (u - s.fw.bootTime) % 110 = 0 → (u - s.fw.bootTime) / 110 % 1024 ≠ off := by
  obtain ⟨ahead, h1, hle, rfl, rfl⟩ := waitEnd_booted hoff hb ht
  refine ⟨by omega, by omega, by omega, by omega, fun u hu hut hfc => ?_⟩
  exact place_unique hle (by omega) (by omega)

/-- Settles O43: each control word does what its own lemma says, and a wait ends at the first fc at its place (`waitEnd_first`). -/
theorem kilnControlResults : Obligations.KilnControlResults := by
  intro s k h c b put go
  refine ⟨exec_kcNext h, exec_kcJmp h, fun a t => ⟨exec_kcBrz h a t, exec_kcBrnz h a t, exec_kcCall h a t, exec_kcRet h a⟩, ?ports, ?memwin, ?waitcyc, ?waitUntil_,
    ?evpop, fun off t => waitEnd_first⟩
  case ports =>
    intro a port hp v pair
    refine ⟨fun hk => ⟨?_, ?_⟩, fun hk => ⟨?_, ?_⟩⟩
    · rw [exec_kcIord_port h hp, if_pos hk]
    · rw [exec_kcIowr_port h hp, if_pos hk]
    · rw [exec_kcIord_port h hp, if_neg hk]
    · rw [exec_kcIowr_port h hp, if_neg hk]
  case memwin =>
    intro a port hp pair
    refine ⟨fun v hv => ?_, fun hn => ?_, fun hn => ?_, fun u hu => ?_⟩
    · exact exec_kcIord_memwin h hp hv
    · exact exec_kcIord_memwin_refused h hp hn
    · rw [exec_kcIowr_memwin h hp, hn, Option.getD_none]
    · rw [exec_kcIowr_memwin h hp, hu, Option.getD_some]
  case waitcyc =>
    intro off minor
    exact ⟨fun f i late hd => exec_kcWaitcyc_slot h hd, fun hd => ⟨fun t => exec_kcWaitcyc_ends h hd, exec_kcWaitcyc_waits h hd⟩⟩
  case waitUntil_ =>
    intro t c'
    have hc' : c' = _ := modKiln_kiln_same ..
    rw [hc']
  case evpop =>
    intro a src quad
    refine ⟨fun r rest ho h3 he => ?other, fun q r rest hq hlt hk he => ?kc0, fun ho he => ⟨_, emptyRecord_source _, exec_kcEvpop_empty h ho he⟩,
      fun ho => ⟨_, emptyRecord_source _, exec_kcEvpop_refused h ho⟩⟩
    case other =>
      rw [exec_kcEvpop_record h ho he, afterPop_of_le h3]
    case kc0 =>
      subst hq hk
      rw [exec_kcEvpop_record h (queueOwner_of_lt hlt) he]
      exact ⟨fun h0 => by rw [h0]; rfl, fun h1 => by rw [h1]; rfl, fun h2 => by rw [h2]; rfl⟩

end Sys2Proof.KilnProofs
end

section
/-! PROOF. The dispatcher (R75, R76, R90, R95, R100, R276, R283, R284, R287, R289, R319): its decision and what reaches it, the end of a group, the step of a
window of episodes, and the save of a cluster. -/
namespace Sys2Proof.DispatchProofs
open Sys2Proof.Machine Sys2Proof.Laws

/-! ## Insertion by an order -/

theorem mem_insertBy {α : Type} (lt : α → α → Bool) (x y : α) (l : List α) : y ∈ insertBy lt x l ↔ y = x ∨ y ∈ l := by
  induction l with
  | nil => exact List.mem_cons
  | cons z t ih =>
    rw [insertBy]
    split
    · exact List.mem_cons
    · rw [List.mem_cons, ih, List.mem_cons]
      exact or_left_comm

theorem mem_sortBy {α : Type} (lt : α → α → Bool) (l : List α) (x : α) : x ∈ sortBy lt l ↔ x ∈ l := by
  suffices h : ∀ acc : List α, x ∈ l.foldl (fun a y => insertBy lt y a) acc ↔ x ∈ l ∨ x ∈ acc from
    (h []).trans (or_iff_left List.not_mem_nil)
  induction l with
  | nil => exact fun acc => (or_iff_right List.not_mem_nil).symm
  | cons y t ih =>
    intro acc
    rw [List.foldl_cons, ih, mem_insertBy, List.mem_cons]
    exact or_left_comm.trans or_assoc.symm

theorem insertBy_ascending {l : List Nat} (h : l.Pairwise (· ≤ ·)) (x : Nat) : (insertBy (fun a b => decide (a < b)) x l).Pairwise (· ≤ ·) := by
  induction l with
  | nil => exact List.pairwise_singleton ..
  | cons y t ih =>
    obtain ⟨hy, ht⟩ := List.pairwise_cons.1 h
    by_cases hxy : x < y
    · have hx : ∀ z ∈ y :: t, x ≤ z := List.forall_mem_cons.2 ⟨Nat.le_of_lt hxy, fun z hz => Nat.le_trans (Nat.le_of_lt hxy) (hy z hz)⟩
      simpa only [insertBy, hxy, decide_true, if_true] using List.pairwise_cons.2 ⟨hx, h⟩
    · have hins : ∀ z ∈ insertBy (fun a b => decide (a < b)) x t, y ≤ z := by
        intro z hz
        obtain rfl | hz := (mem_insertBy ..).1 hz
        · exact Nat.not_lt.1 hxy
        · exact hy z hz
      simpa only [insertBy, hxy, decide_false, Bool.false_eq_true, if_false] using List.pairwise_cons.2 ⟨hins, ih ht⟩

theorem sortBy_ascending (l : List Nat) : (sortBy (fun a b => decide (a < b)) l).Pairwise (· ≤ ·) :=
  List.foldlRecOn (motive := fun a : List Nat => a.Pairwise (· ≤ ·)) _ _ List.Pairwise.nil (fun _ h x _ => insertBy_ascending h x)

/-! ## The best and the worst core of a window (R100) -/

/-- A pass over an ascending list that keeps one of two ends at the entry that it prefers to each smaller one and to each greater one. -/
theorem foldl_ends_at {f : Nat → Nat → Nat} {w : Nat} (hpick : ∀ a b, f a b = a ∨ f a b = b) :
    ∀ (l : List Nat) (c : Nat), (c :: l).Pairwise (· ≤ ·) → w ∈ c :: l → (∀ a ∈ c :: l, a < w → f a w = w) → (∀ a ∈ c :: l, w < a → f w a = w) →
      l.foldl f c = w
  | [], c, _, hw, _, _ => (List.mem_singleton.1 hw).symm
  | d :: l, c, hs, hw, hlt, hgt => by
    have hcd : c ≤ d := List.rel_of_pairwise_cons hs List.mem_cons_self
    have hsub : (f c d :: l).Sublist (c :: d :: l) := by
      obtain h | h := hpick c d <;> rw [h]
      · exact (List.sublist_cons_self d l).cons_cons c
      · exact List.sublist_cons_self ..
    have hkeep : w ∈ f c d :: l := by
      by_cases hl : w ∈ l
      · exact List.mem_cons_of_mem _ hl
      · have hwcd : w = c ∨ w = d := by simpa only [List.mem_cons, hl, or_false] using hw
        have hfw : f c d = w := by
          obtain hlt' | rfl := Nat.lt_or_eq_of_le hcd
          · obtain rfl | rfl := hwcd
            · exact hgt d (List.mem_cons_of_mem _ List.mem_cons_self) hlt'
            · exact hlt c List.mem_cons_self hlt'
          · exact ((hpick c c).elim id id).trans (hwcd.elim Eq.symm Eq.symm)
        rw [hfw]
        exact List.mem_cons_self
    exact foldl_ends_at hpick l (f c d) (hs.sublist hsub) hkeep (fun a ha => hlt a (hsub.subset ha)) (fun a ha => hgt a (hsub.subset ha))

theorem qLt_eq_not_qLe (a b : Q) : qLt a b = !qLe b a := by
  rw [qLt, qLe, ← decide_not, decide_eq_decide, Int.not_le]

/-- The core of a list with the highest score, the lowest of them on a tie. -/
def IsWorst (score : Nat → Q) (l : List Nat) (w : Nat) : Prop :=
  w ∈ l ∧ ∀ k ∈ l, qLe (score k) (score w) = true ∧ (qLe (score w) (score k) = true → w ≤ k)

/-- The core of a list with the lowest score, the highest of them on a tie. -/
def IsBest (score : Nat → Q) (l : List Nat) (b : Nat) : Prop :=
  b ∈ l ∧ ∀ k ∈ l, qLe (score b) (score k) = true ∧ (qLe (score k) (score b) = true → k ≤ b)

theorem ite_keeps_or_takes (p : Prop) [Decidable p] (a b : Nat) : (if p then b else a) = a ∨ (if p then b else a) = b := by
  split
  · exact .inr rfl
  · exact .inl rfl

section Window
variable {score : Nat → Q} {c w : Nat} {l : List Nat}

theorem foldl_worst (hs : (c :: l).Pairwise (· ≤ ·)) (hw : IsWorst score (c :: l) w) :
    l.foldl (fun w k => if qLt (score w) (score k) then k else w) c = w := by
  obtain ⟨hmem, h⟩ := hw
  refine foldl_ends_at (fun a b => ite_keeps_or_takes ..) l c hs hmem (fun a ha haw => ?_) (fun a ha hwa => ?_)
  · have hn : qLe (score w) (score a) = false := Bool.eq_false_iff.2 (fun hle => absurd ((h a ha).2 hle) (Nat.not_le.2 haw))
    simp only [qLt_eq_not_qLe, hn, Bool.not_false, if_true]
  · simp only [qLt_eq_not_qLe, (h a ha).1, Bool.not_true, Bool.false_eq_true, if_false]

theorem foldl_best (hs : (c :: l).Pairwise (· ≤ ·)) (hw : IsBest score (c :: l) w) :
    l.foldl (fun b k => if qLe (score k) (score b) then k else b) c = w := by
  obtain ⟨hmem, h⟩ := hw
  refine foldl_ends_at (fun a b => ite_keeps_or_takes ..) l c hs hmem (fun a ha haw => ?_) (fun a ha hwa => ?_)
  · exact if_pos (h a ha).1
  · exact if_neg (fun hle => absurd ((h a ha).2 hle) (Nat.not_le.2 hwa))

end Window

/-- The cores that have a count in a window, ascending. -/
abbrev countedCores (rs : List (Nat × Q)) : List Nat := sortBy (fun a b => decide (a < b)) (rs.map (·.1)).eraseDups

theorem mem_countedCores {rs : List (Nat × Q)} {k : Nat} : k ∈ countedCores rs ↔ ∃ q, (k, q) ∈ rs := by
  simp only [countedCores, mem_sortBy, List.mem_eraseDups, List.mem_map, Prod.exists, exists_and_right, exists_eq_right]

theorem exists_cons_cons_of_mem_ne {l : List Nat} {a b : Nat} (ha : a ∈ l) (hb : b ∈ l) (hne : a ≠ b) : ∃ c d t, l = c :: d :: t := by
  match l with
  | [] => cases ha
  | [x] => exact absurd ((List.mem_singleton.1 ha).trans (List.mem_singleton.1 hb).symm) hne
  | c :: d :: t => exact ⟨c, d, t, rfl⟩

section Rebalance
variable {s : State} {region : Nat}

/-- The ranks that a window has given. -/
abbrev ranksOf (s : State) (region : Nat) : List (Nat × Q) :=
  episodeRanks (tgetD s.mod.balance region []).length (tgetD s.mod.balance region [])

/-- The state after the scores and counts of a window are gone (R100). -/
abbrev windowReset (s : State) (region : Nat) : State :=
  { s with mod := { s.mod with episodes := tput s.mod.episodes region 0, balance := tput s.mod.balance region [] } }

theorem exec_energyRebalance_within (h : tgetD s.mod.episodes region 0 < s.fw.balWindow.toNat + 1) : exec (.energyRebalance region) s = .next s := by
  show execEnergyRebalance region s = _
  simp only [execEnergyRebalance, h, if_true]

theorem exec_energyRebalance_disabled (h : s.fw.balWindow.toNat + 1 ≤ tgetD s.mod.episodes region 0) (hen : s.fw.balEn = false) :
    exec (.energyRebalance region) s = .next (windowReset s region) := by
  show execEnergyRebalance region s = _
  simp only [execEnergyRebalance, Nat.not_lt.2 h, if_false, hen, Bool.not_false, true_or, if_true]
  split <;> rfl

theorem exec_energyRebalance_moves {w b : Nat} (h : s.fw.balWindow.toNat + 1 ≤ tgetD s.mod.episodes region 0)
    (hw : IsWorst (coreScore (ranksOf s region)) (countedCores (ranksOf s region)) w)
    (hb : IsBest (coreScore (ranksOf s region)) (countedCores (ranksOf s region)) b) (hne : w ≠ b)
    (hen : s.fw.balEn = true) (hmax : coreFreq s w < 3600) (hceil : coreFreq s w < tgetD s.mod.ceiling w 3600) (hmin : 2800 < coreFreq s b) :
    exec (.energyRebalance region) s =
      .next (postFree (idleCore (idleCore (setFreq (setFreq (windowReset s region) w (coreFreq s w + 25)) b (coreFreq s b - 25)) w) b) 3 w) := by
  have hs : (countedCores (ranksOf s region)).Pairwise (· ≤ ·) := sortBy_ascending _
  obtain ⟨c, d, t, hc⟩ := exists_cons_cons_of_mem_ne hw.1 hb.1 hne
  rw [hc] at hs hw hb
  have hfreq : ∀ k, coreFreq (windowReset s region) k = coreFreq s k := fun _ => rfl
  have hfree : ¬((!s.fw.balEn) = true ∨ w = b ∨ 3600 ≤ coreFreq (windowReset s region) w ∨
      tgetD s.mod.ceiling w 3600 ≤ coreFreq (windowReset s region) w ∨ coreFreq (windowReset s region) b ≤ 2800) := by
    simp only [hfreq, hen, hne, Nat.not_le.2 hmax, Nat.not_le.2 hceil, Nat.not_le.2 hmin, Bool.not_true, Bool.false_eq_true, or_self, not_false_eq_true]
  show execEnergyRebalance region s = _
  simp only [execEnergyRebalance, Nat.not_lt.2 h, if_false, hc, foldl_worst hs hw, foldl_best hs hb, hfree]
  rfl

end Rebalance

/-! ## The end of a group (R80, R319) -/

/-- A group whose coils, copies and matrix instructions are done returns what it held, and its exit reaches the dispatcher. -/
theorem exec_groupComplete {s : State} {gid : Nat} {g : Group} (hg : s.group? gid = some g) (hst : g.started = true) (hsv : g.saved = false)
    (hco : ∀ co ∈ g.coils, co.complete = true) (hcp : ∀ e ∈ s.cor.copies, (e.2.owner.map (·.1)) ≠ some gid) (hmx : g.mx.queue = [])
    (hr : (s.cluster g.cluster).render = none) :
    let t := dropGroup (forgetGroup s gid) gid
    exec (.groupComplete gid) s = .next (testCbar { t with disp := { t.disp with
      clusters := tupd t.disp.clusters g.cluster (fun c => { c with completed := c.completed ++ [gid] })
      inbox := t.disp.inbox ++ [.groupExit g.cluster] } } g.cluster) := by
  have hall : g.coils.all (·.complete) = true := List.all_eq_true.2 hco
  have hany : s.cor.copies.any (fun e => decide ((e.2.owner.map (·.1)) = some gid)) = false :=
    List.any_eq_false.2 (fun e he hd => hcp e he (of_decide_eq_true hd))
  show execGroupComplete gid s = _
  simp only [execGroupComplete, hg, hst, hsv, hall, hany, hmx, hr, List.isEmpty_nil, Option.isSome_none, Bool.not_true, Bool.false_eq_true, or_self, if_false]

/-! ## The save of a cluster (R276, R284, R287, R289) -/

section Save
variable {s : State} {cluster : Nat} {cl : Cluster}

/-- The groups of a cluster that have not completed. -/
abbrev leftIn (s : State) (cl : Cluster) : List Nat := cl.groups.filter (fun g => (s.group? g).isSome)

/-- The state in which each of them has been stopped. -/
abbrev quieted (s : State) (cl : Cluster) : State := (leftIn s cl).foldl quietGroup s

/-- A cluster changed, if it is there. -/
abbrev putCluster (s : State) (cluster : Nat) (f : Cluster → Cluster) : State :=
  { s with disp := { s.disp with clusters := tupd s.disp.clusters cluster f } }

theorem exec_clusterSave_saves (hc : tget s.disp.clusters cluster = some cl) (hst : cl.stopping = true) (hr : ∀ g ∈ leftIn s cl, groupReady s g = true)
    (hp : ∀ g ∈ leftIn s cl, pendingIn ((quieted s cl).group g) = none) :
    let gs := leftIn s cl
    let t := quieted s cl
    let u := { t with disp := { t.disp with serial := t.disp.serial + 1 } }
    let v := cl.areas.foldl (fun v a => saveArea v a.1 (t.disp.serial + 1).toNat a.2.1) u
    let w := (gs.map (fun g => (v.group g).core)).foldl idleCore (gs.foldl (fun v g => v.modGroup g (fun g => { g with saved := true })) v)
    exec (.clusterSave cluster) s = .next (settlePreempt (settlePause
      ((putCluster w cluster (fun c => { c with stopping := false, saved := true, serial := t.disp.serial + 1 })).modLaunch cl.launch
        (fun l => { l with saved := l.saved ++ [cluster] })))) := by
  have hall : (leftIn s cl).all (groupReady s) = true := List.all_eq_true.2 hr
  have hfind : (leftIn s cl).findSome? (fun g => (pendingIn ((quieted s cl).group g)).map (fun p => (g, p))) = none :=
    List.findSome?_eq_none_iff.2 (fun g hg => by rw [hp g hg]; rfl)
  show execClusterSave cluster s = _
  simp only [execClusterSave, hc, hst, hall, hfind, Bool.not_true, Bool.false_eq_true, or_self, if_false]

theorem exec_clusterSave_contains {g c lane : Nat} {addr : W64} {pre post : List Nat} (hc : tget s.disp.clusters cluster = some cl) (hst : cl.stopping = true)
    (hr : ∀ g ∈ leftIn s cl, groupReady s g = true) (hgs : leftIn s cl = pre ++ g :: post)
    (hpre : ∀ h ∈ pre, pendingIn ((quieted s cl).group h) = none)
    (hp : pendingIn ((quieted s cl).group g) = some (c, lane, addr)) :
    let t := quieted s cl
    exec (.clusterSave cluster) s = .next (settlePreempt (containAt
      ((putCluster t cluster (fun c => { c with stopping := false, areas := [] })).modCoil g c (fun co => { co with stopped := true }))
      g c lane ((t.coil g c).thread lane).pc addr)) := by
  have hall : (leftIn s cl).all (groupReady s) = true := List.all_eq_true.2 hr
  have hfind : (leftIn s cl).findSome? (fun g => (pendingIn ((quieted s cl).group g)).map (fun p => (g, p))) = some (g, c, lane, addr) :=
    List.findSome?_eq_some_iff.2 ⟨pre, g, post, hgs, by rw [hp]; rfl, fun h hh => by rw [hpre h hh]; rfl⟩
  show execClusterSave cluster s = _
  simp only [execClusterSave, hc, hst, hall, hfind, Bool.not_true, Bool.false_eq_true, or_self, if_false]
  rfl

end Save

/-! ## What reaches the next decision (R76, R95, R283) -/

theorem exec_dspPrio (s : State) (val : W64) :
    exec (.dspPrio val) s = .next (toDispatcher s (.prio none (val.setWidth 57) (val.toNat / 2 ^ 57 % 8) (val.toNat / 2 ^ 60))) := by
  have hp : field val.toNat 60 4 = val.toNat / 2 ^ 60 := Nat.mod_eq_of_lt (by omega)
  show execDspPrio val s = _
  rw [execDspPrio, hp]
  rfl

/-- Settles O49: a decision is its five steps by definition, the end of a group, the window and the save do what their lemmas say, and the window's two folds
end at the worst and the best core (`foldl_worst`, `foldl_best`). -/
theorem dispatchResults : Obligations.DispatchResults := by
  intro s
  refine ⟨rfl, fun gid g => exec_groupComplete, ?rebalance, ?preempt, fun val => ⟨rfl, exec_dspPrio s val⟩, ?save⟩
  case rebalance =>
    intro region l rs score counted t
    refine ⟨exec_energyRebalance_within, fun h => ⟨exec_energyRebalance_disabled h, fun w b hw hb hne hworst hbest => ?_⟩⟩
    exact exec_energyRebalance_moves h ⟨mem_countedCores.2 hw, fun k hk => hworst k (mem_countedCores.1 hk)⟩
      ⟨mem_countedCores.2 hb, fun k hk => hbest k (mem_countedCores.1 hk)⟩ hne
  case preempt =>
    intro lcnt e he
    simp only [List.mem_cons, List.not_mem_nil, or_false] at he
    obtain rfl | rfl | rfl := he <;> rfl
  case save =>
    intro cluster cl hc hst gs t put hr
    exact ⟨exec_clusterSave_saves hc hst hr, fun g c lane addr pre post hgs hpre => exec_clusterSave_contains hc hst hr hgs hpre⟩

end Sys2Proof.DispatchProofs
end

section
/-! PROOF. Placement (R97): `BestFit` keeps the tightest region that fits, and of its cores those of least room. -/
namespace Sys2Proof.PlacementProofs
open Sys2Proof.Machine Sys2Proof.DispatchProofs

/-! ## The order of regions and of cores

A region stands with the number of its cores that have room, a core with its room: the fewer come first, the lower index on a tie. -/

/-- The order of R97 on pairs of an index and a number. -/
def FewerFirst (x y : Nat × Nat) : Prop := x.2 < y.2 ∨ (x.2 = y.2 ∧ x.1 ≤ y.1)

theorem FewerFirst.refl (x : Nat × Nat) : FewerFirst x x := .inr ⟨rfl, Nat.le_refl _⟩

theorem FewerFirst.trans {x y z : Nat × Nat} (hxy : FewerFirst x y) (hyz : FewerFirst y z) : FewerFirst x z := by
  simp only [FewerFirst] at *
  omega

/-- The strict form of the order, by which `bestFit` sorts. -/
abbrev fewerB (x y : Nat × Nat) : Bool := x.2 < y.2 || (x.2 == y.2 && x.1 < y.1)

theorem FewerFirst.of_fewerB {x y : Nat × Nat} (h : fewerB x y = true) : FewerFirst x y := by
  simp only [fewerB, Bool.or_eq_true, Bool.and_eq_true, decide_eq_true_eq, beq_iff_eq] at h
  simp only [FewerFirst]
  omega

theorem FewerFirst.of_not_fewerB {x y : Nat × Nat} (h : ¬fewerB x y = true) : FewerFirst y x := by
  simp only [fewerB, Bool.or_eq_true, Bool.and_eq_true, decide_eq_true_eq, beq_iff_eq] at h
  simp only [FewerFirst]
  omega

/-! ## Sorting by the order -/

theorem insertBy_perm {α : Type} (lt : α → α → Bool) (x : α) (l : List α) : (insertBy lt x l).Perm (x :: l) := by
  induction l with
  | nil => exact .refl [x]
  | cons y t ih =>
    rw [insertBy]
    split
    · exact .refl _
    · exact (ih.cons y).trans (.swap x y t)

theorem sortBy_perm {α : Type} (lt : α → α → Bool) (l : List α) : (sortBy lt l).Perm l := by
  suffices h : ∀ acc : List α, (l.foldl (fun a x => insertBy lt x a) acc).Perm (l ++ acc) from
    (h []).trans (.of_eq (List.append_nil l))
  induction l with
  | nil => exact fun acc => .refl acc
  | cons x t ih =>
    intro acc
    exact ((ih _).trans ((insertBy_perm lt x acc).append_left t)).trans List.perm_middle

theorem insertBy_fewerFirst {l : List (Nat × Nat)} (h : l.Pairwise FewerFirst) (x : Nat × Nat) : (insertBy fewerB x l).Pairwise FewerFirst := by
  induction l with
  | nil => exact List.pairwise_singleton ..
  | cons y t ih =>
    obtain ⟨hy, ht⟩ := List.pairwise_cons.1 h
    rw [insertBy]
    split
    next hxy =>
      have hx : FewerFirst x y := .of_fewerB hxy
      exact List.pairwise_cons.2 ⟨List.forall_mem_cons.2 ⟨hx, fun z hz => hx.trans (hy z hz)⟩, h⟩
    next hxy =>
      refine List.pairwise_cons.2 ⟨fun z hz => ?_, ih ht⟩
      obtain rfl | hz := (mem_insertBy ..).1 hz
      · exact .of_not_fewerB hxy
      · exact hy z hz

theorem sortBy_fewerFirst (l : List (Nat × Nat)) : (sortBy fewerB l).Pairwise FewerFirst :=
  List.foldlRecOn (motive := fun a : List (Nat × Nat) => a.Pairwise FewerFirst) _ _ List.Pairwise.nil (fun _ h x _ => insertBy_fewerFirst h x)

/-- What a cut takes from an ordered list stands before what it leaves. -/
theorem rel_of_mem_take_of_not_mem_take {α : Type} {R : α → α → Prop} {l : List α} {n : Nat} {a b : α} (h : l.Pairwise R) (ha : a ∈ l.take n)
    (hb : b ∈ l) (hnb : b ∉ l.take n) : R a b := by
  rw [← List.take_append_drop n l] at h hb
  exact (List.pairwise_append.1 h).2.2 a ha b ((List.mem_append.1 hb).resolve_left hnb)

/-! ## The cores of a region with room -/

section Region
variable (s : State) (g : Nat) (r : LaunchRec)

/-- Whether a core can take a group of a launch. -/
abbrev hasRoom (k : Nat) : Bool := coreOpen s k && decide (1 ≤ roomOn s k r)

/-- The cores of a region that can take a group of a launch, ascending. -/
abbrev roomyIds : List Nat := ((List.range 8).map (· + 8 * g)).filter (hasRoom s r)

theorem roomyCores_eq_map : roomyCores s g r = (roomyIds s g r).map (fun k => (k, roomOn s k r)) := by
  rw [roomyIds, ← List.filterMap_eq_filter, List.map_filterMap]
  refine congrArg (List.filterMap · _) (funext fun k => ?_)
  by_cases h : coreOpen s k = true ∧ 1 ≤ roomOn s k r
  · have hk : hasRoom s r k = true := by rw [hasRoom, Bool.and_eq_true, decide_eq_true_eq]; exact h
    simp only [h, hk, Option.guard, and_self, if_true, Option.map_some]
  · have hk : hasRoom s r k = false := by rw [← Bool.not_eq_true, hasRoom, Bool.and_eq_true, decide_eq_true_eq]; exact h
    simp only [h, hk, Option.guard, if_false, Bool.false_eq_true, Option.map_none]

variable {s g r}

theorem mem_roomyIds {k : Nat} : k ∈ roomyIds s g r ↔ 8 * g ≤ k ∧ k < 8 * g + 8 ∧ coreOpen s k = true ∧ 1 ≤ roomOn s k r := by
  have hrange : k ∈ (List.range 8).map (· + 8 * g) ↔ 8 * g ≤ k ∧ k < 8 * g + 8 := by
    simp only [List.mem_map, List.mem_range]
    exact ⟨by omega, fun h => ⟨k - 8 * g, by omega, by omega⟩⟩
  simp only [roomyIds, List.mem_filter, hrange, hasRoom, Bool.and_eq_true, decide_eq_true_eq, and_assoc]

theorem mem_roomyCores {x : Nat × Nat} : x ∈ roomyCores s g r ↔ x.1 ∈ roomyIds s g r ∧ x.2 = roomOn s x.1 r := by
  rw [roomyCores_eq_map, List.mem_map]
  constructor
  · rintro ⟨k, hk, rfl⟩
    exact ⟨hk, rfl⟩
  · rintro ⟨hk, hroom⟩
    exact ⟨x.1, hk, Prod.ext rfl hroom.symm⟩

theorem roomyIds_nodup : (roomyIds s g r).Nodup :=
  (List.Pairwise.map _ (fun _ _ hne heq => hne (Nat.add_right_cancel heq)) List.nodup_range).filter _

theorem length_roomyCores :
    (roomyCores s g r).length = ((List.range 8).filter (fun i => coreOpen s (8 * g + i) && decide (1 ≤ roomOn s (8 * g + i) r))).length := by
  rw [roomyCores_eq_map, List.length_map, roomyIds, List.filter_map, List.length_map]
  simp only [Function.comp_def, hasRoom, Nat.add_comm (8 * g)]

end Region

/-! ## The cores taken from a region -/

section Taken
variable {s : State} {g need : Nat} {r : LaunchRec}

/-- The cores that a placement takes from a region, each with its room. -/
abbrev takenPairs (s : State) (r : LaunchRec) (need g : Nat) : List (Nat × Nat) := (sortBy fewerB (roomyCores s g r)).take need

/-- The cores that a placement takes from a region. -/
abbrev takenCores (s : State) (r : LaunchRec) (need g : Nat) : List Nat := (takenPairs s r need g).map (·.1)

theorem length_takenCores (h : need ≤ (roomyCores s g r).length) : (takenCores s r need g).length = need := by
  rw [List.length_map, List.length_take, (sortBy_perm ..).length_eq, Nat.min_eq_left h]

theorem takenCores_nodup : (takenCores s r need g).Nodup := by
  have hids : (roomyCores s g r).map (·.1) = roomyIds s g r := by
    rw [roomyCores_eq_map, List.map_map]
    exact List.map_id _
  have hall : ((sortBy fewerB (roomyCores s g r)).map (·.1)).Nodup :=
    (((sortBy_perm fewerB _).map (·.1)).trans (.of_eq hids)).nodup_iff.2 roomyIds_nodup
  exact hall.sublist ((List.take_sublist ..).map _)

theorem mem_takenCores {k : Nat} : k ∈ takenCores s r need g ↔ (k, roomOn s k r) ∈ takenPairs s r need g := by
  refine ⟨fun h => ?_, fun h => List.mem_map.2 ⟨_, h, rfl⟩⟩
  obtain ⟨x, hx, rfl⟩ := List.mem_map.1 h
  have hroom : x.2 = roomOn s x.1 r := (mem_roomyCores.1 ((mem_sortBy ..).1 (List.mem_of_mem_take hx))).2
  exact hroom ▸ hx

theorem mem_roomyIds_of_mem_takenCores {k : Nat} (h : k ∈ takenCores s r need g) : k ∈ roomyIds s g r :=
  (mem_roomyCores.1 ((mem_sortBy ..).1 (List.mem_of_mem_take (mem_takenCores.1 h)))).1

theorem takenCores_fewerFirst {k j : Nat} (hk : k ∈ takenCores s r need g) (hj : j ∈ roomyIds s g r) (hjn : j ∉ takenCores s r need g) :
    FewerFirst (k, roomOn s k r) (j, roomOn s j r) :=
  rel_of_mem_take_of_not_mem_take (sortBy_fewerFirst _) (mem_takenCores.1 hk) ((mem_sortBy ..).2 (mem_roomyCores.2 ⟨hj, rfl⟩))
    (fun h => hjn (mem_takenCores.2 h))

end Taken

/-! ## The pass over the regions -/

section Pass
variable {n : Nat → Nat} {need : Nat}

/-- One region of the pass: it replaces the best so far if it has enough cores and fewer than that one. -/
def keepTightest (n : Nat → Nat) (need : Nat) (b : Option (Nat × Nat)) (g : Nat) : Option (Nat × Nat) :=
  if need ≤ n g then (match b with | some (_, m) => if n g < m then some (g, n g) else b | none => some (g, n g)) else b

theorem keepTightest_of_lt {g : Nat} (h : n g < need) (b : Option (Nat × Nat)) : keepTightest n need b g = b := if_neg (Nat.not_le.2 h)

theorem keepTightest_none {g : Nat} (h : need ≤ n g) : keepTightest n need none g = some (g, n g) := if_pos h

theorem keepTightest_some {g : Nat} (h : need ≤ n g) (b : Nat × Nat) :
    keepTightest n need (some b) g = if n g < b.2 then some (g, n g) else some b := if_pos h

/-- What the pass has found in the regions that it has seen: the first of those with enough cores, if there is one. -/
def IsTightest (n : Nat → Nat) (need : Nat) (seen : List Nat) : Option (Nat × Nat) → Prop
  | none => ∀ g ∈ seen, n g < need
  | some b => b.1 ∈ seen ∧ b.2 = n b.1 ∧ need ≤ n b.1 ∧ ∀ h ∈ seen, need ≤ n h → FewerFirst b (h, n h)

theorem IsTightest.skip {seen : List Nat} {b : Option (Nat × Nat)} {g : Nat} (hb : IsTightest n need seen b) (hg : n g < need) :
    IsTightest n need (seen ++ [g]) b := by
  cases b with
  | none => exact List.forall_mem_append.2 ⟨hb, List.forall_mem_singleton.2 hg⟩
  | some b =>
    obtain ⟨hmem, hnum, hfit, hbest⟩ := hb
    exact ⟨List.mem_append_left _ hmem, hnum, hfit,
      List.forall_mem_append.2 ⟨hbest, List.forall_mem_singleton.2 fun h => absurd h (Nat.not_le.2 hg)⟩⟩

theorem IsTightest.keep {seen : List Nat} {b : Nat × Nat} {g : Nat} (hb : IsTightest n need seen (some b)) (hg : FewerFirst b (g, n g)) :
    IsTightest n need (seen ++ [g]) (some b) := by
  obtain ⟨hmem, hnum, hfit, hbest⟩ := hb
  exact ⟨List.mem_append_left _ hmem, hnum, hfit, List.forall_mem_append.2 ⟨hbest, List.forall_mem_singleton.2 fun _ => hg⟩⟩

theorem isTightest_last {seen : List Nat} {g : Nat} (hg : need ≤ n g) (hbest : ∀ h ∈ seen, need ≤ n h → FewerFirst (g, n g) (h, n h)) :
    IsTightest n need (seen ++ [g]) (some (g, n g)) :=
  ⟨List.mem_append_right _ List.mem_cons_self, rfl, hg, List.forall_mem_append.2 ⟨hbest, List.forall_mem_singleton.2 fun _ => .refl _⟩⟩

theorem keepTightest_isTightest {seen : List Nat} {b : Option (Nat × Nat)} {g : Nat} (hb : IsTightest n need seen b) (hlt : ∀ h ∈ seen, h < g) :
    IsTightest n need (seen ++ [g]) (keepTightest n need b g) := by
  obtain hg | hg := Nat.lt_or_ge (n g) need
  · rw [keepTightest_of_lt hg]
    exact hb.skip hg
  · cases b with
    | none =>
      rw [keepTightest_none hg]
      exact isTightest_last hg (fun h hh hfit => absurd hfit (Nat.not_le.2 (hb h hh)))
    | some b =>
      have ⟨hmem, _, _, hbest⟩ := hb
      rw [keepTightest_some hg]
      split
      next hm => exact isTightest_last hg (fun h hh hfit => FewerFirst.trans (.inl hm) (hbest h hh hfit))
      next hm => exact hb.keep ((Nat.lt_or_eq_of_le (Nat.not_lt.1 hm)).imp_right fun heq => ⟨heq, Nat.le_of_lt (hlt _ hmem)⟩)

theorem foldl_keepTightest_isTightest {l seen : List Nat} {b : Option (Nat × Nat)} (hl : (seen ++ l).Pairwise (· < ·))
    (hb : IsTightest n need seen b) : IsTightest n need (seen ++ l) (l.foldl (keepTightest n need) b) := by
  induction l generalizing seen b with
  | nil => rwa [List.append_nil]
  | cons g t ih =>
    have hlt : ∀ h ∈ seen, h < g := fun h hh => (List.pairwise_append.1 hl).2.2 h hh g List.mem_cons_self
    rw [List.append_cons] at hl ⊢
    exact ih hl (keepTightest_isTightest hb hlt)

theorem foldl_keepTightest {l : List Nat} (hl : l.Pairwise (· < ·)) : IsTightest n need l (l.foldl (keepTightest n need) none) :=
  foldl_keepTightest_isTightest (seen := []) hl (List.forall_mem_nil _)

end Pass

theorem bestFit_eq (s : State) (r : LaunchRec) (need : Nat) (allowed : List Nat) :
    bestFit s r need allowed =
      (allowed.foldl (keepTightest (fun g => (roomyCores s g r).length) need) none).map (fun b => (b.1, takenCores s r need b.1)) := rfl

/-- Settles O50: the pass over the regions ends at the tightest that fits (`foldl_keepTightest`), and the cut of its sorted cores takes those of least room
(`takenCores_fewerFirst`). -/
theorem placementRule : Obligations.PlacementRule := by
  intro s r need allowed hasc roomy count
  have hcount : (fun g => (roomyCores s g r).length) = count := funext fun _ => length_roomyCores
  have hpass := foldl_keepTightest (n := count) (need := need) hasc
  rw [bestFit_eq, hcount]
  generalize allowed.foldl (keepTightest count need) none = best at hpass
  cases best with
  | none => exact ⟨iff_of_true rfl hpass, fun _ _ h => nomatch h⟩
  | some b =>
    obtain ⟨hmem, hnum, hfit, hbest⟩ := hpass
    refine ⟨iff_of_false (fun h => nomatch h) (fun h => Nat.not_le.2 (h b.1 hmem) hfit), fun g cores h => ?_⟩
    obtain ⟨rfl, rfl⟩ := Prod.mk.inj (Option.some.inj h)
    refine ⟨hmem, hfit, fun h hh hfit => hnum ▸ hbest h hh hfit, length_takenCores (Nat.le_trans hfit (Nat.le_of_eq (congrFun hcount b.1).symm)), takenCores_nodup,
      fun k hk => mem_roomyIds.1 (mem_roomyIds_of_mem_takenCores hk), fun k hk j hj hjn => ?_⟩
    have hne : k ≠ j := fun h => hjn (h ▸ hk)
    exact (takenCores_fewerFirst hk (mem_roomyIds.2 hj) hjn).imp_right (And.imp_right fun hle => Nat.lt_of_le_of_ne hle hne)

end Sys2Proof.PlacementProofs
end

section
/-! PROOF. Tile renders and the end of a pass (R133, R142, R147, R153, R154, R157): a wave's threads in their coil, the fragments that the blend unit
applies, what a render returns when it retires, and the three ways in which a pass ends. -/
namespace Sys2Proof.RenderProofs
open Sys2Proof.Machine Sys2Proof.Laws

/-! ## Waves (R147) -/

section Waves
variable {s : State} {n gid c : Nat} {r : Render}

/-- The fragments of a render's next wave. -/
abbrev nextWave (r : Render) : List Frag := (r.frags.drop r.nextFrag).take 32

/-- Thread `i` of a wave in a group: at the entry with fragment `i`, or exited where the wave has none. -/
def waveThread (s : State) (n : Nat) (r : Render) (gid i : Nat) : Thread :=
  match (nextWave r)[i]? with
  | some f =>
    { pc := (s.launchOf gid).rec_.code.setWidth 64 + (s.launchOf gid).rec_.entry.setWidth 64
      lastIssue := s.cor.order
      wdogFrom := coreCycles s (s.group gid).core
      frag := some (threadFrag r n (r.nextFrag + i) f) }
  | none => { pc := (s.launchOf gid).rec_.code.setWidth 64 + (s.launchOf gid).rec_.entry.setWidth 64, st := .exited }

/-- The coil that takes a wave. -/
def waveCoil (s : State) (n : Nat) (r : Render) (gid c : Nat) : Coil :=
  { threads := (List.range 32).map (waveThread s n r gid)
    s := (s.group gid).params
    granules := (s.launchOf gid).rec_.vgran
    role := (s.coil gid c).role
    shading := true }

/-- The state with a render's next wave in a coil of a group. -/
def withWave (s : State) (n : Nat) (r : Render) (gid c : Nat) : State :=
  ((s.modGroup gid (fun g =>
    { g with
      pool := if (s.coil gid c).granules = 0 then g.pool - (s.launchOf gid).rec_.vgran else g.pool
      coils := lmod (fun _ => waveCoil s n r gid c) g.coils c })).modRender n (fun q =>
    { q with nextFrag := q.nextFrag + (nextWave r).length })).modPass r.pass (fun p => { p with shaded := p.shaded + (nextWave r).length })

theorem exec_waveStart (hr : tget s.gfx.renders n = some r) (hc : freeCoil s r.cluster = some (gid, c)) (hn : r.nextFrag < r.frags.length) :
    exec (.waveStart n) s = .next (if c = 0 then takeParamTrap (withWave s n r gid c) gid else withWave s n r gid c) := by
  have hrest : (r.frags.drop r.nextFrag).isEmpty = false := by
    rw [List.isEmpty_eq_false_iff, ne_eq, List.drop_eq_nil_iff]
    exact Nat.not_le.2 hn
  show execWaveStart n s = _
  simp only [execWaveStart, hr, hc, hrest]
  rfl

end Waves

/-! ## Fragments applied (R153, R154) -/

section Blend
variable {s : State} {n : Nat} {r : Render} {f : Frag} {p : Pass}

/-- The state in which a render has applied one fragment more. -/
abbrev oneApplied (n : Nat) (t : State) : State := t.modRender n (fun r => { r with applied := r.applied + 1 })

theorem exec_blendApply_killed (hr : tget s.gfx.renders n = some r) (hf : r.frags[r.applied]? = some f) (hp : tget s.gfx.passes r.pass = some p)
    (hd : f.done = true) (hk : f.result = none) : exec (.blendApply n) s = .next (oneApplied n s) := by
  show execBlendApply n s = _
  simp only [execBlendApply, hr, hf, hp, hd, hk, Bool.not_true, Bool.false_eq_true, if_false]

theorem exec_blendApply_result {regs : List W32} {cover : W16} (hr : tget s.gfx.renders n = some r) (hf : r.frags[r.applied]? = some f)
    (hp : tget s.gfx.passes r.pass = some p) (hd : f.done = true) (hres : f.result = some (regs, cover)) :
    exec (.blendApply n) s = .next (oneApplied n (applyFrag s p f regs cover)) := by
  show execBlendApply n s = _
  simp only [execBlendApply, hr, hf, hp, hd, hres, Bool.not_true, Bool.false_eq_true, if_false]

end Blend

/-! ## A render retires (R157) -/

/-- No render of a pass is left. -/
theorem no_render_iff {l : List (Nat × Render)} {n : Nat} : (!l.any (fun e => decide (e.2.pass = n))) = true ↔ ∀ e ∈ l, e.2.pass ≠ n := by
  simp only [Bool.not_eq_true', List.any_eq_false, decide_eq_true_eq, ne_eq]

section Retire
variable {s : State} {n : Nat} {r : Render} {p q : Pass}

/-- A group's coils, matrix queue and copies are done. -/
def GroupDone (s : State) (g : Nat) : Prop :=
  (∀ co ∈ (s.group g).coils, co.complete = true) ∧ (s.group g).mx.queue = [] ∧ ∀ e ∈ s.cor.copies, (e.2.owner.map (·.1)) ≠ some g

/-- The test by which a render waits for its groups fails once they are done. -/
theorem any_group_busy_eq_false {gs : List Nat} (h : ∀ g ∈ gs, GroupDone s g) :
    gs.any (fun g => !(s.group g).coils.all (·.complete) || !(s.group g).mx.queue.isEmpty ||
      s.cor.copies.any (fun e => decide ((e.2.owner.map (·.1)) = some g))) = false := by
  refine List.any_eq_false.2 fun g hg hbusy => ?_
  obtain ⟨hco, hmx, hcp⟩ := h g hg
  have hall : (s.group g).coils.all (·.complete) = true := List.all_eq_true.2 hco
  have hany : s.cor.copies.any (fun e => decide ((e.2.owner.map (·.1)) = some g)) = false :=
    List.any_eq_false.2 fun e he hd => hcp e he (of_decide_eq_true hd)
  rw [hall, hmx, hany] at hbusy
  exact Bool.noConfusion hbusy

/-- The state in which the writes of a render's groups are visible at `DEVICE` scope. -/
abbrev released (s : State) (r : Render) : State := (s.cluster r.cluster).groups.foldl (fun t g => releaseAt t (t.group g).core 3) s

/-- What a render returns: its keys, its groups, its own entry, its cluster, and one render more that its pass counts. -/
def returned (t : State) (n : Nat) (r : Render) (asid : W16) (gs : List Nat) : State :=
  let u := gs.foldl (fun u g => dropGroup (forgetGroup u g) g) (freeRenderKeys t asid r)
  let v : State := { u with
    gfx := { u.gfx with renders := tdel u.gfx.renders n }
    disp := { u.disp with
      clusters := tupd u.disp.clusters r.cluster (fun c => { c with render := none, completed := c.groups })
      inbox := u.disp.inbox ++ [DEvent.groupExit r.cluster] } }
  v.modPass r.pass (fun p => { p with renders := p.renders + 1 })

theorem exec_tileRenderRetire (hr : tget s.gfx.renders n = some r) (ha : r.frags.length ≤ r.applied)
    (hg : ∀ g ∈ (s.cluster r.cluster).groups, GroupDone s g) (hp : tget (released s r).gfx.passes r.pass = some p) :
    let w := returned (released s r) n r p.asid (s.cluster r.cluster).groups
    tget w.gfx.passes r.pass = some q →
      exec (.tileRenderRetire n) s = .next (if q.flushing = true ∧ q.todo = [] ∧ ∀ e ∈ w.gfx.renders, e.2.pass ≠ r.pass
        then w.modPass r.pass (fun p => { p with flushing := false, tiles := [], records := 0 }) else w) := by
  intro w hq
  have hbusy := any_group_busy_eq_false hg
  show execTileRenderRetire n s = _
  simp only [execTileRenderRetire, hr, hbusy, Nat.not_lt.2 ha, hp, Bool.false_eq_true, or_self, if_false, Option.map_some, Option.getD_some]
  change Host.Outcome.next (match tget w.gfx.passes r.pass with | some p => _ | none => _) = _
  rw [hq]
  exact congrArg _ (ite_congr (propext (and_congr Iff.rfl (and_congr List.isEmpty_iff no_render_iff))) (fun _ => rfl) (fun _ => rfl))

end Retire

/-! ## A pass ends (R133, R142) -/

section PassEnd
variable {s : State} {n : Nat} {p : Pass}

theorem exec_passEnd_fatal (hp : tget s.gfx.passes n = some p) (hst : p.stage ≠ .ended) (hc : p.code = 1)
    (hl : (s.launch p.launch).ended.isSome = true) :
    exec (.passEnd n) s = .next ((reportPass s p).modPass n (fun p => { p with stage := .ended })) := by
  have hended : (s.launch p.launch).ended.isNone = false := by rw [← Option.not_isSome, hl]; rfl
  show execPassEnd n s = _
  simp only [execPassEnd, hp, hst, hc, hended, Bool.false_eq_true, if_false, if_true]

theorem exec_passEnd_cancelled (hp : tget s.gfx.passes n = some p) (hst : p.stage ≠ .ended) (hc : p.code = 2) :
    exec (.passEnd n) s = .next ((reportPass s p).modPass n (fun p => { p with stage := .ended, todo := [], visTodo := [], batch := [], tiles := [] })) := by
  have hfatal : ¬p.code = 1 := by rw [hc]; decide
  show execPassEnd n s = _
  simp only [execPassEnd, hp, if_neg hst, if_neg hfatal, if_pos hc]

theorem exec_passEnd_rendered (hp : tget s.gfx.passes n = some p) (hst : p.stage = .rendering) (hc : p.code = 0) (htodo : p.todo = [])
    (hr : ∀ e ∈ s.gfx.renders, e.2.pass ≠ n) (hcl : ∀ e ∈ s.disp.clusters, e.2.launch ≠ p.shadeLaunch) :
    exec (.passEnd n) s = .next ((reportPass (closeLaunch s p.shadeLaunch .ok) p).modPass n (fun p => { p with stage := .ended })) := by
  have hnone : noClusters s p.shadeLaunch = true := List.all_eq_true.2 fun e he => decide_eq_true (hcl e he)
  have hended : ¬p.stage = .ended := by rw [hst]; decide
  have hfatal : ¬p.code = 1 := by rw [hc]; decide
  have hcancelled : ¬p.code = 2 := by rw [hc]; decide
  have hleft : p.stage = .rendering ∧ p.todo.isEmpty = true ∧ (!s.gfx.renders.any (fun e => decide (e.2.pass = n))) = true ∧ noClusters s p.shadeLaunch = true :=
    ⟨hst, List.isEmpty_iff.2 htodo, no_render_iff.2 hr, hnone⟩
  show execPassEnd n s = _
  simp only [execPassEnd, hp, if_neg hended, if_neg hfatal, if_neg hcancelled, if_pos hleft]

end PassEnd

/-- Settles O53: each event under its condition does what its lemma says; a wave, a fragment and a pass by the branch that their conditions choose, a render
that retires because groups that are done keep it no longer (`any_group_busy_eq_false`). -/
theorem renderResults : Obligations.RenderResults := by
  intro s
  refine ⟨fun n r gid c => exec_waveStart, ?blend, ?retire, ?passEnd⟩
  case blend =>
    intro n r f p hr hf hp hd
    exact ⟨exec_blendApply_killed hr hf hp hd, fun regs cover => exec_blendApply_result hr hf hp hd⟩
  case retire =>
    intro n r hr ha gs hg t done p hp u v w q
    exact exec_tileRenderRetire hr ha hg hp
  case passEnd =>
    intro n p hp hst settled
    exact ⟨exec_passEnd_fatal hp hst, exec_passEnd_cancelled hp hst, fun hc hren htodo hr hcl => exec_passEnd_rendered hp hren hc htodo hr hcl⟩

end Sys2Proof.RenderProofs
end

section
/-! PROOF. The sequencer operations of a glaze core (R167, R168, R186, R420): two changes of a core as one, and the model's numbers of a `q` register as its word. -/
namespace Sys2Proof.GlazeProofs
open Sys2Proof.Machine Sys2Proof.Laws Sys2Proof.Claims

/-! ## Changes of a glaze core -/

theorem onGlaze_of_cur {s : State} {k slot : Nat} (h : OnGlaze s k slot) (f : Nat → Nat → Glaze → State) : onGlaze s f = f k slot (s.gl k) := by
  rw [OnGlaze] at h
  simp only [onGlaze, h]

/-- Two changes of one core are one change. -/
theorem modGl_modGl (s : State) (k : Nat) (f f' : Glaze → Glaze) : (s.modGl k f).modGl k f' = s.modGl k (fun g => f' (f g)) := by
  simp only [State.modGl, tmod, tput_tput, tgetD_tput_same]

/-- What a change does depends on the core as it stands alone. -/
theorem modGl_congr {s : State} {k : Nat} {f f' : Glaze → Glaze} (h : f (s.gl k) = f' (s.gl k)) : s.modGl k f = s.modGl k f' := by
  simp only [State.modGl, tmod]
  rw [show f (tgetD s.dpy.glaze k {}) = f' (tgetD s.dpy.glaze k {}) from h]

/-! ## The sequencer field (R420) -/

/-- The count that `SQLOOP` leaves, as the word of its register. -/
theorem ofNat_wrap_pred (q : W32) : BitVec.ofNat 32 (wrap ((q.toNat : Int) - 1) 32) = q - 1 := by
  unfold wrap
  bv_omega

theorem wrap_pred_eq_zero_iff (q : W32) : wrap ((q.toNat : Int) - 1) 32 = 0 ↔ q - 1 = 0 := by
  unfold wrap
  bv_omega

/-- The model's conditions of `SQBR` on the number of a register are those on its signed word (R398). -/
theorem sqCond_toNat (cond : Nat) (q : W32) : sqCond cond q.toNat = sqTaken cond q := by
  have hneg : q.toInt < 0 ↔ 2 ^ 31 ≤ q.toNat := by
    rw [BitVec.toInt_eq_toNat_cond]
    omega
  have hzero : q.toNat = 0 ↔ q = 0 := (BitVec.toNat_eq (y := 0)).symm
  match cond with
  | 0 => rfl
  | 1 => exact Bool.eq_iff_iff.2 (beq_iff_eq.trans (hzero.trans decide_eq_true_iff.symm))
  | 2 => exact Bool.eq_iff_iff.2 (bne_iff_ne.trans ((not_congr hzero).trans decide_eq_true_iff.symm))
  | 3 => simp only [sqCond, sqTaken, hneg]
  | n + 4 => simp only [sqCond, sqTaken, ← Int.not_lt, hneg, Nat.not_le]

section Sequencer
variable {s : State} {k slot : Nat} (h : OnGlaze s k slot)
include h

theorem exec_sqloop (n : BitVec 4) (t : W16) :
    exec (.sqloop n t) s = .next (flyG (seqNextIs s k (if tgetD (s.gl k).q n.toNat 0 - 1 = 0 then (s.gl k).seqNext + 1 else t.toNat)) k slot 1
      (.q n.toNat (tgetD (s.gl k).q n.toNat 0 - 1))) := by
  show Host.Outcome.next (execSeqField (.sqloop n t) s) = _
  simp only [execSeqField, onGlaze_of_cur h, seqEffect, Glaze.qN, ofNat_wrap_pred, wrap_pred_eq_zero_iff]
  split <;> rfl

theorem exec_sqbr (n : BitVec 4) (cond : BitVec 3) (t : W16) :
    exec (.sqbr n cond t) s = .next (seqNextIs s k (if sqTaken cond.toNat (tgetD (s.gl k).q n.toNat 0) then t.toNat else (s.gl k).seqNext + 1)) := by
  show Host.Outcome.next (execSeqField (.sqbr n cond t) s) = _
  simp only [execSeqField, onGlaze_of_cur h, seqEffect, Glaze.qN, sqCond_toNat]
  split <;> rfl

theorem exec_sqset (n : BitVec 4) (imm : W16) :
    exec (.sqset n imm) s = .next (flyG (seqNextIs s k ((s.gl k).seqNext + 1)) k slot 1 (.q n.toNat (imm.signExtend 32))) :=
  congrArg Host.Outcome.next (onGlaze_of_cur h _)

theorem exec_sqadd (n : BitVec 4) (imm : W16) :
    exec (.sqadd n imm) s = .next (flyG (seqNextIs s k ((s.gl k).seqNext + 1)) k slot 1 (.q n.toNat (tgetD (s.gl k).q n.toNat 0 + imm.signExtend 32))) := by
  show Host.Outcome.next (execSeqField (.sqadd n imm) s) = _
  simp only [execSeqField, onGlaze_of_cur h, seqEffect, Glaze.qN, BitVec.ofNat_toNat, BitVec.setWidth_eq]
  rfl

theorem exec_swSync : exec .swSync s = .next (s.modGl k (fun g => { g with seqNext := g.seqNext + 1, inSync := true, syncs := g.syncs + 1 })) :=
  congrArg Host.Outcome.next ((onGlaze_of_cur h _).trans ((modGl_modGl ..).trans (modGl_congr rfl)))

theorem exec_banklock (n : BitVec 4) (banks : W16) :
    exec (.banklock n banks) s =
      .next (s.modGl k (fun g => { g with seqNext := g.seqNext + 1, lockSet := if n = 0 then 0 else banks, lockLeft := n.toNat })) :=
  congrArg Host.Outcome.next ((onGlaze_of_cur h _).trans ((modGl_modGl ..).trans (modGl_congr rfl)))

theorem exec_bandend (hrun : (s.gl k).phase = .running) :
    exec .bandend s = .next (s.modGl k (fun g => { g with seqNext := g.seqNext + 1, phase := .draining })) := by
  refine congrArg Host.Outcome.next ((onGlaze_of_cur h _).trans ((modGl_modGl ..).trans (modGl_congr ?_)))
  simp only [hrun, if_true]

end Sequencer

/-- Settles O37: each operation by its own lemma; a loop and a branch by what their numbers say of the word of the register (`wrap_pred_eq_zero_iff`,
`sqCond_toNat`). -/
theorem sequencerResults : Obligations.SequencerResults := by
  intro s k slot h
  exact ⟨congrArg Host.Outcome.next (onGlaze_of_cur h _), exec_sqloop h, exec_sqbr h, exec_sqset h, exec_sqadd h, exec_swSync h, exec_banklock h, exec_bandend h⟩

end Sys2Proof.GlazeProofs
end

section
/-! PROOF. The memory slots and the SYNC field of a glaze bundle (R186, R187, R430 to R437): the bytes of a register and their mask, the addresses that a slot
reaches, and each operation by the rule of its address. -/
namespace Sys2Proof.GlazeProofs
open Sys2Proof.Machine Sys2Proof.Laws Sys2Proof.Claims Sys2Proof.QueueProofs

/-! ## The bytes of a vector register -/

theorem leNat_append (l m : List Byte) : leNat (l ++ m) = leNat l + 256 ^ l.length * leNat m := by
  induction l with
  | nil => simp [leNat]
  | cons b t ih =>
    simp only [List.cons_append, leNat, ih, List.length_cons, Nat.pow_succ', Nat.mul_add, Nat.mul_assoc, Nat.add_assoc]

/-- Byte `i` of the number that bytes make. -/
theorem ofNat_leNat_byte (l : List Byte) (i : Nat) : BitVec.ofNat 8 (leNat l / 2 ^ (8 * i)) = (l[i]?).getD 0 := by
  induction l generalizing i with
  | nil => simp [leNat]
  | cons b t ih =>
    cases i with
    | zero =>
      apply BitVec.eq_of_toNat_eq
      simpa [leNat] using b.isLt
    | succ i =>
      have hstep : leNat (b :: t) / 2 ^ (8 * (i + 1)) = leNat t / 2 ^ (8 * i) := by
        rw [leNat, Nat.mul_succ, Nat.add_comm (8 * i), Nat.pow_add, ← Nat.div_div_eq_div_mul]
        congr 1
        omega
      rw [hstep, ih, List.getElem?_cons_succ]

theorem extractLsb'_ofNat_byte (n : Nat) {i : Nat} (h : i < 512) :
    (BitVec.ofNat 4096 n).extractLsb' (8 * i) 8 = BitVec.ofNat 8 (n / 2 ^ (8 * i)) := by
  refine BitVec.eq_of_getLsbD_eq fun j hj => ?_
  have hlt : 8 * i + j < 4096 := by omega
  rw [BitVec.getLsbD_extractLsb', BitVec.getLsbD_ofNat, BitVec.getLsbD_ofNat, Nat.testBit_div_two_pow, Nat.add_comm j]
  simp only [hj, hlt, decide_true, Bool.true_and]

/-- The mask that a memory slot packs has a byte of ones where it is enabled. -/
theorem packReg_mask (p : Nat → Bool) (n : Nat) : (packReg 8 1 0 (((List.range n).filter p).map (fun i => (i, 0)))).2 =
    BitVec.ofNat 4096 (leNat ((List.range n).map (fun i => if p i = true then 0xFF else 0))) := by
  refine congrArg (BitVec.ofNat 4096) ?_
  induction n with
  | zero => rfl
  | succ n ih =>
    simp only [List.foldl_map, Nat.mod_one, Nat.div_one, if_true] at ih
    simp only [List.range_succ, List.filter_append, List.map_append, List.foldl_append, leNat_append, List.foldl_map, Nat.mod_one, Nat.div_one, if_true,
      List.map_cons, List.map_nil, List.length_map, List.length_range, ← ih]
    have hpow : 2 ^ (8 * n) = 256 ^ n := Nat.pow_mul ..
    cases hp : p n with
    | false =>
      simp only [List.filter_cons, List.filter_nil, hp, Bool.false_eq_true, if_false, List.foldl_nil, leNat]
      rfl
    | true =>
      simp only [List.filter_cons, List.filter_nil, hp, if_true, List.foldl_cons, List.foldl_nil, leNat, hpow]
      exact congrArg _ (Nat.mul_comm ..)

/-- A register of bytes under the mask of a memory slot. -/
theorem elementsAre_bytes (g : Glaze) (pred : BitVec 4) (l : List Byte) :
    ElementsAre [BitVec.ofNat 4096 (leNat l)] [byteMask g pred] 8 1 512 (fun i => if enabledAt g pred 8 i then some ((l[i]?).getD 0).toNat else none) := by
  refine ⟨rfl, rfl, fun i hi => ?_⟩
  have hmask : (byteMask g pred).extractLsb' (8 * i) 8 = if enabledAt g pred 8 i = true then 0xFF else 0 := by
    rw [byteMask, packReg_mask, extractLsb'_ofNat_byte _ hi, ofNat_leNat_byte]
    simp [hi]
  simp only [Nat.mod_one, Nat.div_one, List.getElem?_cons_zero, Option.getD_some, hmask, extractLsb'_ofNat_byte _ hi, ofNat_leNat_byte]
  cases enabledAt g pred 8 i with
  | false => rfl
  | true =>
    refine ⟨by decide, ?_⟩
    rw [BitVec.ofNat_toNat, BitVec.setWidth_eq]

/-! ## The address of a memory slot (R430) -/

/-- The address of a memory slot as a word, its low `lo` bits cleared. -/
abbrev slotEa (g : Glaze) (x : MOp) (lo : Nat) : Nat := (((tgetD g.a x.a.toNat 0 + x.imm.setWidth 32) >>> lo) <<< lo).toNat

theorem memEa_eq (g : Glaze) (x : MOp) (lo : Nat) : memEa g x lo = slotEa g x lo := by
  have hle : (tgetD g.a x.a.toNat 0 + x.imm.setWidth 32).toNat / 2 ^ lo * 2 ^ lo ≤ (tgetD g.a x.a.toNat 0 + x.imm.setWidth 32).toNat := Nat.div_mul_le_self ..
  have himm : (x.imm.setWidth 32).toNat = x.imm.toNat := BitVec.toNat_setWidth_of_le (by decide)
  rw [slotEa, BitVec.toNat_shiftLeft, BitVec.toNat_ushiftRight, Nat.shiftLeft_eq, Nat.shiftRight_eq_div_pow,
    Nat.mod_eq_of_lt (Nat.lt_of_le_of_lt hle (BitVec.isLt _)), memEa, BitVec.toNat_add, himm]

/-- An address of the own scratchpad. -/
theorem spWindow_own (g : Glaze) (remote : Bool) {ea size : Nat} (h : ea < 2 ^ 20) (hsize : ea + size ≤ 2 ^ 20) : spWindow g remote ea size = some 0 := by
  have hdiv : ea / 2 ^ 20 = 0 := Nat.div_eq_of_lt h
  have hin : ¬(2 ^ 20 < ea % 2 ^ 20 + size ∨ 16 ≤ ea / 2 ^ 20) := by omega
  unfold spWindow
  dsimp only
  rw [if_neg hin, if_pos hdiv]

section Windows
variable {s : State} {k ea size : Nat} {remote : Bool} (f : Nat → Nat → State)

theorem withSp_some {w : Nat} (h : spWindow (s.gl k) remote ea size = some w) : withSp s k remote ea size f = f w (ea % 2 ^ 20) := by
  simp only [withSp, h]

theorem withSp_none (h : spWindow (s.gl k) remote ea size = none) : withSp s k remote ea size f = abortBand s k tACCESS_VIOLATION := by
  simp only [withSp, h]

theorem withSp_own (h : ea < 2 ^ 20) (hsize : ea + size ≤ 2 ^ 20) : withSp s k remote ea size f = f 0 ea := by
  rw [withSp_some f (spWindow_own _ _ h hsize), Nat.mod_eq_of_lt h]

theorem readSp_own (h : ea < 2 ^ 20) (hsize : ea + size ≤ 2 ^ 20) :
    readSp s k remote ea size f = if anyBad (s.gl k).spBad ea size = true then abortBand s k tMACHINE_CHECK else f 0 ea := by
  rw [readSp, withSp_own _ h hsize]
  rfl

end Windows

/-! ## The memory slots (R430 to R436) -/

/-- A byte of a register as an element and as a slice. -/
theorem ofNat_elemOf_byte (g : Glaze) (r : BitVec 6) (i : Nat) : BitVec.ofNat 8 (elemOf (g.wN r) 8 i) = (tgetD g.w r.toNat 0).extractLsb' (8 * i) 8 := by
  apply BitVec.eq_of_toNat_eq
  simp [elemOf, field, Glaze.wN, Nat.shiftRight_eq_div_pow]

/-- The bytes of an element that `MXL` reads: one of FP8, two of FP16. -/
abbrev latchBytes (x : MOp) : Nat := if x.d.getLsbD 2 then 1 else 2

/-- The stream that the 16 bytes of a descriptor describe (R435). -/
theorem streamOf_eq (g : Glaze) (x : MOp) (off : Nat) :
    streamOf g x off = { meta_ := leNat (cellsBytes g.sp off 16) % 2 ^ 20, rle := (leNat (cellsBytes g.sp off 16)).testBit 20
                         left := leNat (cellsBytes g.sp off 16) / 2 ^ 32 % 2 ^ 32, base := BitVec.ofNat 16 (leNat (cellsBytes g.sp off 16) / 2 ^ 64 % 2 ^ 16)
                         rate := 2 ^ (x.d.toNat % 4) } := by
  simp only [streamOf, field_zero, bit_eq_testBit]
  rfl

section Slots
variable {s : State} {k slot : Nat} (x : MOp) (h : OnGlaze s k slot)
include h

theorem exec_spld_some {w : Nat} (hw : spWindow (s.gl k) true (slotEa (s.gl k) x 6) 512 = some w) :
    exec (.spld x) s = .next (if spPoisoned s k w (slotEa (s.gl k) x 6 % 2 ^ 20) 512 = true then abortBand s k tMACHINE_CHECK
      else flyG s k slot 3 (.w x.d.toNat [BitVec.ofNat 4096 (leNat (spBytes s k w (slotEa (s.gl k) x 6 % 2 ^ 20) 512))] [byteMask (s.gl k) x.pred])) := by
  show execSpld x s = _
  simp only [execSpld, onGlaze_of_cur h, memEa_eq, readSp, withSp_some _ hw]

theorem exec_spld_none (hw : spWindow (s.gl k) true (slotEa (s.gl k) x 6) 512 = none) : exec (.spld x) s = .next (abortBand s k tACCESS_VIOLATION) := by
  show execSpld x s = _
  simp only [execSpld, onGlaze_of_cur h, memEa_eq, readSp, withSp_none _ hw]

theorem exec_spst_some {w : Nat} (hw : spWindow (s.gl k) true (slotEa (s.gl k) x 6) 512 = some w) :
    exec (.spst x) s = .next (flyG s k slot 1 (.sp (w * 2 ^ 20 + slotEa (s.gl k) x 6 % 2 ^ 20) ((List.range 512).map (fun i =>
      if enabledAt (s.gl k) x.pred 8 i then some ((tgetD (s.gl k).w x.d.toNat 0).extractLsb' (8 * i) 8) else none)))) := by
  show execSpst x s = _
  simp only [execSpst, onGlaze_of_cur h, memEa_eq, withSp_some _ hw, ofNat_elemOf_byte]

theorem exec_spst_none (hw : spWindow (s.gl k) true (slotEa (s.gl k) x 6) 512 = none) : exec (.spst x) s = .next (abortBand s k tACCESS_VIOLATION) := by
  show execSpst x s = _
  simp only [execSpst, onGlaze_of_cur h, memEa_eq, withSp_none _ hw]

theorem exec_gath (hready : 32 ≤ (s.gl k).gq.length ∨ (s.gl k).sparse.left = 0) (hea : slotEa (s.gl k) x 4 < 2 ^ 20)
    (hoffs : ∀ o ∈ (s.gl k).gq.take 32, slotEa (s.gl k) x 4 + 16 * o.toNat + 16 ≤ 2 ^ 20) :
    exec (.gath x) s = .next (if ∃ o ∈ (s.gl k).gq.take 32, anyBad (s.gl k).spBad (slotEa (s.gl k) x 4 + 16 * o.toNat) 16 = true then abortBand s k tMACHINE_CHECK
      else flyG (s.modGl k (fun g => { g with gq := g.gq.drop 32 })) k slot 6
        (.w x.d.toNat [BitVec.ofNat 4096 (leNat (((s.gl k).gq.take 32).flatMap (fun o => cellsBytes (s.gl k).sp (slotEa (s.gl k) x 4 + 16 * o.toNat) 16)))]
          [byteMask (s.gl k) x.pred])) := by
  have hgo : gathWaits (s.gl k) = false := by
    simp only [gathWaits, Bool.and_eq_false_iff, decide_eq_false_iff_not, Nat.not_lt, Classical.not_not]
    exact hready
  have hin : ((s.gl k).gq.take 32).any (fun o => decide (2 ^ 20 < slotEa (s.gl k) x 4 + 16 * o.toNat + 16)) = false :=
    List.any_eq_false.2 fun o ho => by simpa using hoffs o ho
  have hend : slotEa (s.gl k) x 4 + 0 ≤ 2 ^ 20 := Nat.le_of_lt hea
  show execGath x s = _
  simp only [execGath, onGlaze_of_cur h, memEa_eq, hgo, Bool.false_eq_true, if_false, withSp_own _ hea hend, hin]
  simp only [List.any_eq_true]
  rfl

theorem exec_fetch (hroom : (s.gl k).fetches.length < 16) (hlen : (tgetD (s.gl k).a x.a.toNat 0).toNat / 32 * 32 + x.imm.toNat ≤ 2 ^ 20)
    (hdst : (tgetD (s.gl k).a x.a.toNat 0).toNat / 32 * 32 < 2 ^ 20) :
    exec (.fetch x) s = .next { s.modGl k (fun g => { g with fetches := g.fetches ++ [{
      m1 := slot == 8, src := (s.gl k).ctx.srcbase.toNat + (tgetD (s.gl k).a (x.d.toNat % 32) 0).toNat, dst := (tgetD (s.gl k).a x.a.toNat 0).toNat / 32 * 32
      len := x.imm.toNat, zeros := (s.gl k).ctx.gen == 0, asid := (s.gl k).ctx.asid, shift := (s.gl k).ctx.shift, frame := (s.gl k).roundFrame, round := (s.gl k).round
      left := List.range ((x.imm.toNat + 31) / 32), due := s.time + 55 * (1 + Config.fetchDelay s.free) }] }) with free := s.free + 1 } := by
  show execFetch x s = _
  simp only [execFetch, onGlaze_of_cur h, if_neg (Nat.not_le.2 hroom), withSp_own _ hdst hlen]
  rfl

theorem exec_lineout {line : Nat} (hline : (tgetD (s.gl k).a (x.d.toNat % 32) 0).toNat = line) (hnext : line = (s.gl k).nextLine)
    (hband : line < (s.gl k).ctx.line0 + (s.gl k).ctx.nlines)
    (hlen : slotEa (s.gl k) x 6 + 8 * (s.head (s.gl k).ctx.head).timing.hactive.toNat ≤ 2 ^ 20) (hea : slotEa (s.gl k) x 6 < 2 ^ 20)
    (hgo : lineWaits s (s.gl k) (slotEa (s.gl k) x 6) = false) :
    exec (.lineout x) s = .next (if anyBad (s.gl k).spBad (slotEa (s.gl k) x 6) (8 * (s.head (s.gl k).ctx.head).timing.hactive.toNat) = true
      then abortBand s k tMACHINE_CHECK
      else deliverLine (s.modGl k (fun g => { g with nextLine := g.nextLine + 1 })) (s.gl k).ctx line (words64 (s.head (s.gl k).ctx.head).timing.hactive.toNat
        (cellsBytes (s.gl k).sp (slotEa (s.gl k) x 6) (8 * (s.head (s.gl k).ctx.head).timing.hactive.toNat)))) := by
  subst hline
  have hwhich : ¬((tgetD (s.gl k).a (x.d.toNat % 32) 0).toNat ≠ (s.gl k).nextLine ∨
      (s.gl k).ctx.line0 + (s.gl k).ctx.nlines ≤ (tgetD (s.gl k).a (x.d.toNat % 32) 0).toNat) :=
    not_or.2 ⟨Classical.not_not.2 hnext, Nat.not_le.2 hband⟩
  show execLineout x s = _
  simp only [execLineout, onGlaze_of_cur h, memEa_eq, withSp_own _ hea hlen, if_neg hwhich, hgo, Bool.false_eq_true, if_false]
  rfl

theorem exec_poseget {p : List Byte} (hp : bandPose s (s.gl k) = some p) :
    exec (.poseget x) s = .next (flyG s k slot 3 (.w x.d.toNat [BitVec.ofNat 4096 (leNat (p.take 64))] [BitVec.allOnes 4096])) := by
  show execPoseget x s = _
  simp only [execPoseget, onGlaze_of_cur h, hp]

theorem exec_srcgen :
    exec (.srcgen x) s = .next (flyG (flyG s k slot 1 (.a (x.d.toNat % 32) ((s.gl k).ctx.gen.setWidth 32))) k slot 1
      (.a (x.d.toNat % 32 + 1) (BitVec.ofNat 32 ((s.gl k).ctx.gen.toNat / 2 ^ 32)))) := by
  show execSrcgen x s = _
  simp only [execSrcgen, onGlaze_of_cur h, BitVec.ofNat_toNat]

theorem exec_mxl (hlen : slotEa (s.gl k) x 6 + 4096 * latchBytes x ≤ 2 ^ 20) :
    exec (.mxl x) s = .next (if anyBad (s.gl k).spBad (slotEa (s.gl k) x 6) (4096 * latchBytes x) = true then abortBand s k tMACHINE_CHECK
      else flyG s k slot 4 (.latch (x.d.toNat % 4) (x.d.getLsbD 2) ((List.range 4096).map (fun i =>
        BitVec.ofNat 16 (leNat (cellsBytes (s.gl k).sp (slotEa (s.gl k) x 6 + latchBytes x * i) (latchBytes x))))))) := by
  have hpos : 1 ≤ latchBytes x := by
    unfold latchBytes
    split <;> decide
  have hea : slotEa (s.gl k) x 6 < 2 ^ 20 := by omega
  have hfp8 : bit x.d.toNat 2 = x.d.getLsbD 2 := bit_eq_testBit ..
  show execMxl x s = _
  simp only [execMxl, onGlaze_of_cur h, memEa_eq, hfp8]
  rw [readSp_own _ hea hlen]

theorem exec_sixcfg (hlen : slotEa (s.gl k) x 4 + 16 ≤ 2 ^ 20) :
    exec (.sixcfg x) s = .next (if anyBad (s.gl k).spBad (slotEa (s.gl k) x 4) 16 = true then abortBand s k tMACHINE_CHECK
      else flyG s k slot 1 (.six (streamOf (s.gl k) x (slotEa (s.gl k) x 4)))) := by
  have hea : slotEa (s.gl k) x 4 < 2 ^ 20 := by omega
  show execSixcfg x s = _
  simp only [execSixcfg, onGlaze_of_cur h, memEa_eq]
  rw [readSp_own _ hea hlen]

end Slots

/-! ## The SYNC field (R403, R437) -/

section Sync
variable {s : State} {k slot : Nat} (h : OnGlaze s k slot) {n : BitVec 2} {f : BitVec 4}
include h

theorem exec_fwait_passes (hf : n.toNat + 1 ≤ (tgetD (s.gl k).f f.toNat 0).toNat) :
    exec (.fwait n f) s = .next (flyG s k slot 1 (.sub f.toNat (n.toNat + 1))) := by
  show execFwait n f s = _
  simp only [execFwait, onGlaze_of_cur h, if_neg (Nat.not_lt.2 hf)]

theorem exec_fwait_waits (hf : (tgetD (s.gl k).f f.toNat 0).toNat < n.toNat + 1) : exec (.fwait n f) s = .next s := by
  show execFwait n f s = _
  simp only [execFwait, onGlaze_of_cur h, if_pos hf]

end Sync

/-- Settles O41: each slot on an address that it reaches by its own lemma; the bytes of `SPLD` and `GATH` are their elements by `elementsAre_bytes`. -/
theorem glazeMemoryResults : Obligations.GlazeMemoryResults := by
  intro s k slot x h g ea line width dst e
  refine ⟨rfl, rfl, ?reached, ?unreached, ?gath, exec_fetch x h, exec_lineout x h rfl, fun p => exec_poseget x h, exec_srcgen x h, exec_mxl x h, ?sixcfg, ?sync⟩
  case reached => exact fun w hw => ⟨⟨_, _, exec_spld_some x h hw, elementsAre_bytes ..⟩, exec_spst_some x h hw⟩
  case unreached => exact fun hw => ⟨exec_spld_none x h hw, exec_spst_none x h hw⟩
  case gath => exact fun hready hea hoffs => ⟨_, _, exec_gath x h hready hea hoffs, elementsAre_bytes ..⟩
  case sixcfg => exact fun hlen => ⟨_, exec_sixcfg x h hlen, streamOf_eq ..⟩
  case sync =>
    exact fun n f => ⟨exec_fwait_passes h, exec_fwait_waits h, congrArg Host.Outcome.next (onGlaze_of_cur h _), congrArg Host.Outcome.next (onGlaze_of_cur h _)⟩

end Sys2Proof.GlazeProofs
end

section
/-! PROOF. The rows of the display (R163 to R169, R183, R186, R188, R408, R432): the bands that a head records, the start of a round, and each event of a row and of
its cores under its condition. -/
namespace Sys2Proof.RowProofs
open Sys2Proof.Machine Sys2Proof.Laws

/-! ## The bands that a head records -/

/-- What a change does depends on the head as it stands alone. -/
theorem modHead_congr {s : State} {h : Nat} {f f' : Head → Head} (e : f (s.head h) = f' (s.head h)) : s.modHead h f = s.modHead h f' := by
  simp only [State.modHead, tmod]
  rw [show f (tgetD s.dpy.heads h {}) = f' (tgetD s.dpy.heads h {}) from e]

section Bands
variable (d : Head) (f : Nat) {b c : Nat}

theorem touch_bandOf_isSome (b : Nat) : ((d.touch f b).bandOf f b).isSome = true := by
  unfold Head.touch
  split
  · assumption
  · simp [Head.bandOf, List.find?_append]

theorem touch_bandOf_other (hne : b ≠ c) : (d.touch f c).bandOf f b = d.bandOf f b := by
  unfold Head.touch
  split
  · rfl
  · simp [Head.bandOf, List.find?_append, hne.symm]

variable {g : Band → Band} (hkey : ∀ x, (g x).frame = x.frame ∧ (g x).band = x.band)
include hkey

/-- After a change of the bands of one name, a band is found where it was, changed if it has that name. -/
theorem modBand_bandOf (b c : Nat) : (d.modBand f c g).bandOf f b = (d.bandOf f b).map (fun x => if x.frame = f ∧ x.band = c then g x else x) := by
  simp only [Head.bandOf, Head.modBand, List.find?_map]
  congr 2
  funext x
  dsimp only [Function.comp_apply]
  split
  · rw [(hkey x).1, (hkey x).2]
  · rfl

omit hkey in
/-- A band that is found has the name that was looked for. -/
theorem bandOf_name {x : Band} (h : d.bandOf f b = some x) : x.frame = f ∧ x.band = b := by simpa using List.find?_some h

theorem modBand_bandOf_same (b : Nat) : (d.modBand f b g).bandOf f b = (d.bandOf f b).map g := by
  rw [modBand_bandOf d f hkey]
  exact Option.map_congr fun x hx => if_pos (bandOf_name d f hx)

theorem modBand_bandOf_other (hne : b ≠ c) : (d.modBand f c g).bandOf f b = d.bandOf f b := by
  rw [modBand_bandOf d f hkey]
  exact (Option.map_congr fun x hx => if_neg fun h => hne ((bandOf_name d f hx).2.symm.trans h.2)).trans Option.map_id'

end Bands

/-! ## A round starts (R163, R164) -/

/-- The band of rank `k` of a round given to its core. -/
def assignBand (first : Nat) (d : Head) (k : Nat) : Head :=
  (d.touch d.row.frame (first + k)).modBand d.row.frame (first + k) (fun b => { b with core := d.row.members[k]? })

/-- A rank's band given to its core changes the record of bands alone. -/
theorem assignBand_eq (first : Nat) (d : Head) (k : Nat) : assignBand first d k = { d with bands := (assignBand first d k).bands } := by
  unfold assignBand Head.touch
  split <;> rfl

theorem foldl_assignBand_eq (first : Nat) (l : List Nat) (d : Head) : l.foldl (assignBand first) d = { d with bands := (l.foldl (assignBand first) d).bands } := by
  induction l generalizing d with
  | nil => rfl
  | cons k l ih =>
    rw [List.foldl_cons, ih, assignBand_eq]

theorem assignBand_bandOf_same (first : Nat) (d : Head) (k : Nat) :
    ((assignBand first d k).bandOf d.row.frame (first + k)).map (·.core) = some d.row.members[k]? := by
  obtain ⟨x, hx⟩ := Option.isSome_iff_exists.1 (touch_bandOf_isSome d d.row.frame (first + k))
  rw [assignBand, modBand_bandOf_same (g := fun b => { b with core := d.row.members[k]? }) _ _ (fun _ => ⟨rfl, rfl⟩), hx]
  rfl

theorem assignBand_bandOf_other (first : Nat) (d : Head) {i k : Nat} (h : i ≠ k) :
    (assignBand first d k).bandOf d.row.frame (first + i) = d.bandOf d.row.frame (first + i) := by
  have hne : first + i ≠ first + k := fun e => h (Nat.add_left_cancel e)
  rw [assignBand, modBand_bandOf_other (g := fun b => { b with core := d.row.members[k]? }) _ _ (fun _ => ⟨rfl, rfl⟩) hne, touch_bandOf_other _ _ hne]

/-- The band of a rank is that of its core once all are given. -/
theorem foldl_assignBand_bandOf (first : Nat) (l : List Nat) (d : Head) {i : Nat}
    (h : i ∈ l ∨ (d.bandOf d.row.frame (first + i)).map (·.core) = some d.row.members[i]?) :
    ((l.foldl (assignBand first) d).bandOf d.row.frame (first + i)).map (·.core) = some d.row.members[i]? := by
  induction l generalizing d with
  | nil => exact h.resolve_left List.not_mem_nil
  | cons k l ih =>
    have hrow : (assignBand first d k).row = d.row := by rw [assignBand_eq]
    rw [List.foldl_cons, ← hrow]
    refine ih (assignBand first d k) ?_
    rw [hrow]
    by_cases hik : i = k
    · subst hik
      exact Or.inr (assignBand_bandOf_same first d i)
    · rw [assignBand_bandOf_other first d hik]
      exact h.imp_left fun hm => (List.mem_cons.1 hm).resolve_left hik

section Start
variable {s : State} {head : Nat}

/-- The state in which what was written has come into force for the next round. -/
def adopted (s : State) (head : Nat) : State :=
  (adoptMap s head).modHead head (fun d =>
    if d.row.first ≠ 0 then d
    else
      { d with
        cfgs := (d.cfgs.filter (fun e => decide (d.frame ≤ e.1 + 8))).filter (fun e => decide (e.1 ≠ d.row.frame)) ++ [(d.row.frame, d.cfg)]
        row := { d.row with kernel := d.kernel.getD d.row.kernel }
        kernel := none })

/-- The first band of the round that starts: the next multiple of the bands of a round. -/
abbrev startBand (e : Head) : Nat := (e.row.first + roundSize e - 1) / roundSize e * roundSize e

/-- A head as its round begins, before its bands are given to the cores. -/
def beginRound (now first : Nat) (d : Head) : Head :=
  { d with
    roundLate := d.roundLate || decide (d.dueAt d.row.frame first < (d.row.endAt : Int) * 256)
    row := { d.row with active := true, first, bundle := 0, syncWait := false, syncNo := 0, startAt := now } }

/-- The ranks of a round that have a band. -/
abbrev ranksOf (n first : Nat) (d : Head) : List Nat := (List.range n).filter (fun k => first + k < d.nbands d.row.frame)

/-- A head as its round begins, its bands given to the cores. -/
abbrev roundBegun (now n first : Nat) (d : Head) : Head :=
  (ranksOf n first (beginRound now first d)).foldl (assignBand first) (beginRound now first d)

/-- What comes into force at a round start takes no time. -/
theorem adoptMap_time (s : State) (h : Nat) : (adoptMap s h).time = s.time := by
  have hfold (f : Nat → Glaze → Glaze) (l : List Nat) (t : State) : (l.foldl (fun t k => t.modGl k (f k)) t).time = t.time :=
    List.foldlRecOn (motive := fun u : State => u.time = t.time) _ _ rfl (fun _ hu _ _ => hu)
  simp only [adoptMap, modHead_time, hfold]
  split
  · exact hfold _ _ _
  · exact (hfold _ _ _).trans (hfold _ _ _)

/-- The condition under which a round starts. -/
structure RoundDue (s : State) (d : Head) : Prop where
  runs : displayRuns s = true
  on : d.on = true
  inactive : d.row.active = false
  going : d.row.stopped = false
  mode : d.row.first = 0 → d.mode = none ∨ d.trains = false
  due : d.dueAt d.row.frame d.row.first ≤ s.time * 256

theorem exec_roundStart (h : RoundDue s (s.head head)) :
    exec (.roundStart head) s = .next (
      let t := adopted s head
      let e := t.head head
      if startBand e ≠ e.row.first then t.modHead head (fun d => d.nextRound (startBand e))
      else if (!e.synth) = true ∨ e.row.members.isEmpty = true then endRound t head
      else t.modHead head (roundBegun s.time (roundSize e) (startBand e))) := by
  have hmode : ¬((s.head head).row.first = 0 ∧ (s.head head).modeComes = true) := by
    rintro ⟨hfirst, hcomes⟩
    simp only [Head.modeComes, Bool.and_eq_true] at hcomes
    rcases h.mode hfirst with hnone | hno
    · rw [hnone] at hcomes
      exact Bool.noConfusion hcomes.1
    · rw [hno] at hcomes
      exact Bool.noConfusion hcomes.2
  have hdue : reached s ((s.head head).dueAt (s.head head).row.frame (s.head head).row.first) = true := decide_eq_true h.due
  show execRoundStart head s = _
  simp only [execRoundStart, h.runs, h.on, h.inactive, h.going, hmode, hdue, Bool.not_true, Bool.false_eq_true, or_self, if_false, modHead_time, adoptMap_time]
  rfl

variable (h : RoundDue s (s.head head))
include h

/-- A round whose first band is no multiple of the members starts at the next one (log 37). -/
theorem exec_roundStart_skips (hne : startBand ((adopted s head).head head) ≠ ((adopted s head).head head).row.first) :
    exec (.roundStart head) s = .next ((adopted s head).modHead head (fun d => d.nextRound (startBand ((adopted s head).head head)))) :=
  (exec_roundStart h).trans (congrArg _ (if_pos hne))

variable (heq : startBand ((adopted s head).head head) = ((adopted s head).head head).row.first)
include heq

theorem exec_roundStart_empty (hno : ((adopted s head).head head).synth = false ∨ ((adopted s head).head head).row.members = []) :
    exec (.roundStart head) s = .next (endRound (adopted s head) head) := by
  refine (exec_roundStart h).trans (congrArg _ ((if_neg (Classical.not_not.2 heq)).trans (if_pos (hno.imp (fun hoff => ?_) List.isEmpty_iff.2))))
  rw [hoff, Bool.not_false]

theorem exec_roundStart_begins (hsyn : ((adopted s head).head head).synth = true) (hmem : ((adopted s head).head head).row.members ≠ []) :
    exec (.roundStart head) s = .next ((adopted s head).modHead head
      (roundBegun s.time (roundSize ((adopted s head).head head)) (startBand ((adopted s head).head head)))) := by
  refine (exec_roundStart h).trans (congrArg _ ((if_neg (Classical.not_not.2 heq)).trans (if_neg (not_or.2 ⟨?_, fun hnil => hmem (List.isEmpty_iff.1 hnil)⟩))))
  rw [hsyn, Bool.not_true]
  exact Bool.false_ne_true

end Start

/-! ## Row time (R165 to R167, R188) -/

section Time
variable {s : State} {head : Nat}

theorem rowFull_iff : rowFull s head = true ↔ ∃ k ∈ (s.head head).row.members, 2048 ≤ fifoCount s head k := by
  simp only [rowFull, List.any_eq_true, decide_eq_true_eq]

theorem exec_rowBundleIssue (hgo : (s.head head).row.stopped = false) (hroom : rowFull s head = false) :
    exec (.rowBundleIssue head) s = .next (
      let t := s.modHead head (fun d => { d with row := { d.row with time := d.row.time + 1 } })
      if (s.head head).row.active = true ∧ (s.head head).row.syncWait = false then issueBundle t head else t) := by
  show execRowBundleIssue head s = _
  simp only [execRowBundleIssue, hgo, hroom, Bool.false_eq_true, or_self, if_false, Bool.not_eq_true']

theorem exec_rowStop (hgo : (s.head head).row.stopped = false) (hfull : ∃ k ∈ (s.head head).row.members, 2048 ≤ fifoCount s head k) :
    exec (.rowStop head) s = .next (s.modHead head (fun d => { d with overrun := true, row := { d.row with stopped := true } })) := by
  show execRowStop head s = _
  simp only [execRowStop, hgo, rowFull_iff.2 hfull, Bool.not_false, and_self, if_true]

theorem exec_rowResume (hstop : (s.head head).row.stopped = true) (hroom : ∀ k ∈ (s.head head).row.members, fifoCount s head k < 2048) :
    exec (.rowResume head) s = .next (s.modHead head (fun d => { d with row := { d.row with stopped := false } })) := by
  have hnot : rowFull s head = false := by
    rw [← Bool.not_eq_true, rowFull_iff]
    rintro ⟨k, hk, hfull⟩
    exact Nat.not_lt.2 hfull (hroom k hk)
  show execRowResume head s = _
  simp only [execRowResume, hstop, hnot, Bool.not_false, and_self, if_true]

theorem exec_syncRelease (hwait : (s.head head).row.syncWait = true)
    (hall : ∀ r k, (s.head head).row.members[r]? = some k → syncArrived s head r k = true) :
    exec (.syncRelease head) s = .next (((s.head head).row.members.foldl (fun t k => t.modGl k (fun g => { g with inSync := false })) s).modHead head (fun e =>
      { e with row := { e.row with syncWait := false, syncNo := e.row.syncNo + 1 } })) := by
  have harrived : (List.range (s.head head).row.members.length).all
      (fun r => syncArrived s head r (((s.head head).row.members[r]?).getD 0)) = true := by
    refine List.all_eq_true.2 fun r hr => hall r _ ?_
    rw [List.getElem?_eq_getElem (List.mem_range.1 hr), Option.getD_some]
  show execSyncRelease head s = _
  simp only [execSyncRelease, hwait, harrived, and_self, if_true]

theorem exec_roundTimeout {last : Nat}
    (hlast : last = min ((s.head head).row.first + (s.head head).row.members.length) ((s.head head).nbands (s.head head).row.frame) - 1)
    (hact : (s.head head).row.active = true) (hstart : ((s.head head).row.startAt : Int) * 256 ≤ (s.head head).deadlineAt (s.head head).row.frame last)
    (hat : (s.head head).deadlineAt (s.head head).row.frame last < (s.time + 55) * 256) :
    exec (.roundTimeout head) s = .next (abandonRound s head) := by
  subst hlast
  exact congrArg Host.Outcome.next (if_pos ⟨hact, hstart, decide_eq_true hat⟩)

end Time

/-! ## Bands of a core (R164, R168, R183) -/

section Band
variable {s : State} {core : Nat}

/-- The state in which a core has begun a band: its context, and the band as started. -/
abbrev bandBegun (t : State) (core h : Nat) (e : FifoEntry) (rank : Nat) : State :=
  let d := t.head h
  let b := e.round + rank
  let r := sampleSource t h
  let c : BandCtx :=
    { rank, head := h, band := b, line0 := d.line0 e.frame b, nlines := d.nlines e.frame b, gen := r.1.gen, srcbase := r.1.srcbase,
      shift := r.1.shift, members := e.cores.length, cores := e.cores, frame := e.frame, asid := d.src.asid }
  (r.2.modGl core (fun g =>
    let g : Glaze := if g.clearNext = true then { row := some h, fifo := g.fifo, vc := g.vc } else g
    { g with
      ctx := c, phase := .running, syncs := 0, inSync := false, nextLine := c.line0, seqNext := 0, round := e.round, roundFrame := e.frame
      begun := true, served := 0, sixDone := false })).modHead h (fun d =>
    (d.touch e.frame b).modBand e.frame b (fun x =>
      if x.deadline then { x with started := true, core := some core }
      else { x with started := true, core := some core, gen := c.gen, srcbase := c.srcbase, shift := c.shift, src := d.src }))

theorem exec_bandStart {t : State} (ht : t = s.modGl core dropStale) {h rank : Nat} {e : FifoEntry} {rest : List FifoEntry} (hrow : (t.gl core).row = some h)
    (hfifo : (t.gl core).fifo = e :: rest) (hrank : e.cores.findIdx? (· = core) = some rank) (hidle : (t.gl core).phase = .idle)
    (hdue : e.due ≤ (t.head h).row.time) : exec (.bandStart core) s = .next (bandBegun t core h e rank) := by
  subst ht
  have hgo : ¬((s.modGl core dropStale).gl core).phase ≠ .idle ∧ ¬((s.modGl core dropStale).head h).row.time < e.due := ⟨Classical.not_not.2 hidle, Nat.not_lt.2 hdue⟩
  show execBandStart core s = _
  simp only [execBandStart, hrow, hfifo, hrank, hgo.1, hgo.2, or_self, if_false]
  rfl

theorem exec_bandDrainEnd (hphase : (s.gl core).phase = .draining) (hdry : (s.gl core).flight = []) :
    exec (.bandDrainEnd core) s = .next (s.modGl core (fun g => { g with phase := .idle })) :=
  congrArg Host.Outcome.next (if_pos ⟨hphase, List.isEmpty_iff.2 hdry⟩)

end Band

/-! ## Fetches and offsets (R186, R432, R435) -/

section Fetches
variable {s : State} {core : Nat} {f : Fetch}

theorem exec_fetchComplete {m1 : Bool} (hf : (s.gl core).fetches.find? (fun f => f.m1 = m1) = some f) :
    exec (.fetchComplete core m1) s = .next (if f.left.isEmpty = true
      then s.modGl core (fun g => { g with fetches := g.fetches.erase f, f := flagUp g.f (if m1 then 15 else 14) 1 }) else s) := by
  show execFetchComplete core m1 s = _
  simp only [execFetchComplete, hf]

/-- The state in which a piece of a fetch has landed. -/
abbrev pieceLanded (t : State) (core : Nat) (f : Fetch) (i : Nat) (bs : List Byte) : State :=
  { (useBanks t core (f.dst + 32 * i) (f.pieceLen i)).modGl core (fun g => { g with
      fetches := g.fetches.replace f { f with left := f.left.erase i, due := t.time + 55 * (1 + Config.fetchDelay t.free) }
      sp := cellsWrite g.sp (f.dst + 32 * i) bs, spBad := spSound g.spBad (f.dst + 32 * i) (bs.map some) }) with free := t.free + 1 }

section Piece
variable {i : Nat} (hi : f.left[Config.fetchPiece s.free % f.left.length]? = some i)
include hi

theorem landPiece_waits (hwait : s.time < f.due ∨ bankLocked (s.gl core) (f.dst + 32 * i) (f.pieceLen i) = true ∨
    bankUsed s (s.gl core) (f.dst + 32 * i) (f.pieceLen i) = true) : landPiece s core f = s := by
  simp only [landPiece, hi]
  exact if_pos hwait

variable (hdue : f.due ≤ s.time) (hlock : bankLocked (s.gl core) (f.dst + 32 * i) (f.pieceLen i) = false)
  (hused : bankUsed s (s.gl core) (f.dst + 32 * i) (f.pieceLen i) = false)
include hdue hlock hused

theorem landPiece_zeros (hz : f.zeros = true) : landPiece s core f = pieceLanded s core f i (List.replicate (f.pieceLen i) 0) := by
  simp only [landPiece, hi, Nat.not_lt.2 hdue, hlock, hused, Bool.false_eq_true, or_self, if_false, if_pos hz]
  rfl

variable (hz : ¬f.zeros = true)
include hz

theorem landPiece_bytes {bs : List Byte} (hbs : sourceBytes s f.asid.toNat f.shift (f.src + 32 * i) (f.pieceLen i) = .ok bs) :
    landPiece s core f = pieceLanded (chargeSource s f.asid.toNat f.shift (f.src + 32 * i) (f.pieceLen i)) core f i bs := by
  simp only [landPiece, hi, Nat.not_lt.2 hdue, hlock, hused, if_neg hz, hbs, Bool.false_eq_true, or_self, if_false]
  rfl

theorem landPiece_error {e : Nat} (he : sourceBytes s f.asid.toNat f.shift (f.src + 32 * i) (f.pieceLen i) = .error e) :
    landPiece s core f =
      let gone := s.modGl core (fun g => { g with fetches := g.fetches.erase f })
      if (s.gl core).roundFrame = f.frame ∧ (s.gl core).round = f.round then abortBand gone core e else gone := by
  simp only [landPiece, hi, Nat.not_lt.2 hdue, hlock, hused, if_neg hz, he, Bool.false_eq_true, or_self, if_false]

end Piece

theorem exec_gqPush (hfree : bankUsed s (s.gl core) (metaAt (s.gl core).sparse) 1 = false) :
    exec (.gqPush core) s = .next (
      let g := s.gl core
      let t := pushOffsets core g.sparse.rate s
      if (t.gl core).gq = g.gq then t
      else useBanks t core (metaAt g.sparse) (min (metaAt (t.gl core).sparse + 1) (2 ^ 20) - metaAt g.sparse)) := by
  show execGqPush core s = _
  simp only [execGqPush, hfree, Bool.false_eq_true, if_false]

end Fetches

/-- Settles O54: a round by what the members and their number make of it (`exec_roundStart_skips`, `exec_roundStart_empty`, `exec_roundStart_begins`), its
bands by `foldl_assignBand_bandOf`; every other event by its own lemma. -/
theorem rowResults : Obligations.RowResults := by
  intro s
  refine ⟨?round, fun head => exec_rowBundleIssue, fun head => exec_rowStop, fun head => exec_rowResume, fun head => exec_syncRelease,
    fun core h e rest rank => exec_bandStart rfl, fun core => exec_bandDrainEnd, fun head => exec_roundTimeout rfl, ?complete, ?piece,
    fun core => exec_gqPush⟩
  case round =>
    intro head d hruns hon hinact hgo hmode hdue t e n first
    have hround : RoundDue s d := ⟨hruns, hon, hinact, hgo, hmode, hdue⟩
    refine ⟨fun hne => exec_roundStart_skips hround hne, fun heq => exec_roundStart_empty hround heq, fun heq hsyn hmem =>
      ⟨_, exec_roundStart_begins hround heq hsyn hmem, ?others, fun i hi hband => ?cores, ?only⟩⟩ <;> rw [modHead_head_same]
    case others => exact foldl_assignBand_eq first _ (beginRound s.time first e)
    case cores => exact foldl_assignBand_bandOf first _ (beginRound s.time first e) (.inl (List.mem_filter.2 ⟨List.mem_range.2 hi, decide_eq_true hband⟩))
    case only => exact modHead_congr rfl
  case complete =>
    intro core m1 f hf
    exact ⟨fun hleft => (exec_fetchComplete hf).trans (congrArg _ (if_pos (List.isEmpty_iff.2 hleft))), fun hleft =>
      (exec_fetchComplete hf).trans (congrArg _ (if_neg (fun h => hleft (List.isEmpty_iff.1 h))))⟩
  case piece =>
    intro core f i hi g n to_ bytes land gone
    exact ⟨landPiece_waits hi, fun hdue hlock hused => ⟨landPiece_zeros hi hdue hlock hused, fun hz bs => landPiece_bytes hi hdue hlock hused (Bool.eq_false_iff.1 hz),
      fun hz e => landPiece_error hi hdue hlock hused (Bool.eq_false_iff.1 hz)⟩⟩

end Sys2Proof.RowProofs
end

section
/-! PROOF. The display heads (R175 to R180, R192, R193): requests and commands, poses and deadlines, the lines that scan out and the end of a frame. What a head
writes to memory, charges and reports leaves what every head scans out. -/
namespace Sys2Proof.HeadProofs
open Sys2Proof.Machine Sys2Proof.Laws Sys2Proof.QueueProofs Sys2Proof.RowProofs

/-! ## What leaves the display as it was -/

@[simp] theorem recallLines_dpy (s : State) (k pa n : Nat) : (recallLines s k pa n).dpy = s.dpy :=
  List.foldlRecOn (motive := fun t : State => t.dpy = s.dpy) _ _ rfl (fun _ h _ _ => h)

@[simp] theorem chargeDisplay_dpy (s : State) (pa n : Nat) : (chargeDisplay s pa n).dpy = s.dpy := by
  unfold chargeDisplay
  split <;> rfl

@[simp] theorem chargeSource_dpy (s : State) (asid shift va n : Nat) : (chargeSource s asid shift va n).dpy = s.dpy := by
  refine List.foldlRecOn (motive := fun t : State => t.dpy = s.dpy) _ _ rfl (fun t h i _ => ?_)
  dsimp only
  split
  · split
    · rw [recallLines_dpy, chargeDisplay_dpy, h]
    · exact h
  · exact h

@[simp] theorem chargeLine_dpy (s : State) (x : Band) (line n : Nat) : (chargeLine s x line n).dpy = s.dpy :=
  List.foldlRecOn (motive := fun t : State => t.dpy = s.dpy) _ _ rfl (fun t h _ _ => (chargeSource_dpy t ..).trans h)

@[simp] theorem postEvent_dpy (s : State) (q : Nat) (r : BitVec 128) : (postEvent s q r).dpy = s.dpy := by
  unfold postEvent
  dsimp only
  split
  · split <;> rfl
  · split
    · rfl
    · split
      · rfl
      · split <;> rfl

@[simp] theorem postHeadev_dpy (s : State) (kind unit : Nat) (named : List Nat) : (postHeadev s kind unit named).dpy = s.dpy := postEvent_dpy ..

@[simp] theorem reportReads_dpy (s : State) (h : Nat) : ∀ n, (reportReads s h n).dpy = s.dpy
  | 0 => rfl
  | n + 1 => by rw [reportReads, reportReads_dpy, postHeadev_dpy]

theorem head_of_dpy {s t : State} (h : t.dpy = s.dpy) (head : Nat) : t.head head = s.head head := by
  rw [State.head, State.head, h]

/-! ## What a write of memory leaves of a scan-out -/

/-- What a head scans out: its timing, its frame, its line, and the last line sent down its link. -/
abbrev scanOf (s : State) (h : Nat) : Timing × Nat × Nat × Option (Nat × Nat × List (Nat × Nat × Nat)) :=
  ((s.head h).timing, (s.head h).frame, (s.head h).line, (s.head h).shown)

theorem scanOf_of_dpy {s t : State} (h : t.dpy = s.dpy) (head : Nat) : scanOf t head = scanOf s head := by
  rw [scanOf, head_of_dpy h]

/-- A write of a mailbox reaches a head in its mailbox and its pose alone (R175). -/
theorem putPhys_scanOf (s : State) (pa : Nat) (bs : List Byte) (h : Nat) : scanOf (putPhys s pa bs) h = scanOf s h := by
  unfold putPhys
  dsimp only
  split
  · split
    · rw [snapshotPose, scanOf, modHead_head]
      split
      · next e => rw [e]
      · rfl
    · rw [scanOf, modHead_head]
      split
      · next e => rw [e]
      · rfl
  · rfl

theorem physWrite_scanOf (s : State) (pa : Nat) (bs : List Byte) (h : Nat) : scanOf (physWrite s pa bs) h = scanOf s h := putPhys_scanOf s pa bs h

theorem recallOwners_scanOf (s : State) (k line h : Nat) : scanOf (recallOwners s k line) h = scanOf s h := rfl

theorem mergeBytes_scanOf (s : State) (line : Nat) (d : DirtyLine) (h : Nat) : ∀ n, scanOf (mergeBytes s line d n) h = scanOf s h
  | 0 => rfl
  | n + 1 => by
    simp only [mergeBytes]
    split
    · rw [physWrite_scanOf, mergeBytes_scanOf s line d h n]
    · exact mergeBytes_scanOf s line d h n

theorem regionWriteBack_scanOf (s : State) (r line h : Nat) : scanOf (regionWriteBack s r line) h = scanOf s h := by
  unfold regionWriteBack
  split
  · exact mergeBytes_scanOf (recallOwners s 192 line) line _ h 128
  · rfl

theorem recallRegions_scanOf (s : State) (line h : Nat) : scanOf (recallRegions s line) h = scanOf s h :=
  List.foldlRecOn (motive := fun t => scanOf t h = scanOf s h) _ _ rfl (fun t e r _ => (regionWriteBack_scanOf t r line h).trans e)

theorem deviceWrite_scanOf (s : State) (k pa : Nat) (bs : List Byte) (h : Nat) : scanOf (deviceWrite s k pa bs) h = scanOf s h := by
  rw [deviceWrite, physWrite_scanOf, recallOwners_scanOf, recallRegions_scanOf]

theorem mhWords_scanOf (h : Nat) : ∀ (ws : List W64) (s : State) (a : Nat), scanOf (mhWords s a ws) h = scanOf s h
  | [], _, _ => rfl
  | w :: ws, s, a => by
    rw [mhWords, mhWords_scanOf h ws]
    split
    · rw [scanOf_of_dpy (chargeDisplay_dpy ..), deviceWrite_scanOf]
    · rfl

theorem mhWrite_scanOf (s : State) (a : Nat) (ws : List W64) (h : Nat) : scanOf (mhWrite s a ws) h = scanOf s h := mhWords_scanOf h ws s a

theorem memoryLine_scanOf (s : State) (d : Head) (px : List W64) (h : Nat) : scanOf (memoryLine s d px) h = scanOf s h := by
  rw [memoryLine, mhWrite_scanOf]
  split
  · rw [mhWrite_scanOf]
  · rfl

/-! ## Requests and commands (R192, R193) -/

section Commands
variable {s : State} {head : Nat}

theorem postRequest_busy {op : Nat} (h : (s.head head).hreqState = 1) : postRequest s head op = s.modHead head (fun d => { d with hreqBusy := true }) := if_pos h

theorem postRequest_posted {op : Nat} (h : (s.head head).hreqState ≠ 1) :
    postRequest s head op = postHeadev (s.modHead head (fun d => { d with hreqState := 1, hreqOp := op })) 0x10 head [op] := if_neg h

/-- The command that a write of HEAD_CMD asks for. -/
abbrev cmdOf (val : W64) (cmd : Nat) : HeadCmd :=
  { cmd, hostReq := val.getLsbD 5, recd := val.toNat / 2 ^ 6 % 2 ^ 46 * 64, code := val.toNat / 2 ^ 52 % 16 }

theorem headCmd_eq {val : W64} {cmd : Nat} (hhead : val.toNat / 2 ^ 3 % 4 = head) (hcmd : val.toNat % 8 = cmd) :
    headCmd val cmd s = if val.getLsbD 5 = true ∧ (s.head head).hreqState ≠ 1 then setBadIo s 3
      else
        let t := s.modHead head (fun d => { d with cmds := d.cmds ++ [cmdOf val cmd] })
        if (s.head head).cmds = [] then beginCmd t head else t := by
  have hh : field val.toNat 3 2 = head := hhead
  have hc : field val.toNat 0 3 = cmd := (field_zero ..).trans hcmd
  have hreq : bit val.toNat 5 = val.getLsbD 5 := bit_eq_testBit ..
  simp only [headCmd, hh, hc, hreq, ne_eq, not_true_eq_false, if_false, List.isEmpty_iff]
  rfl

theorem exec_headCmdComplete {c : HeadCmd} {rest : List HeadCmd} {r : Nat} (hcmds : (s.head head).cmds = c :: rest) (hres : (s.head head).result = some r) :
    exec (.headCmdComplete head) s = .next (beginCmd ((postHeadev s 0x11 head
        (if r = 5 then [c.cmd, r, (s.head head).badEntry.toNat % 256, (s.head head).badEntry.toNat / 256] else [c.cmd, r])).modHead head (fun e =>
      if c.hostReq then
        { e with cmds := rest, result := none, hreqState := if r = 0 then 2 else 3, hreqCode := BitVec.ofNat 4 r
                 hreqEntry := if r = 5 then (s.head head).badEntry else 0 }
      else { e with cmds := rest, result := none })) head) := by
  show execHeadCmdComplete head s = _
  simp only [execHeadCmdComplete, hcmds, hres]
  refine congrArg (fun t => Host.Outcome.next (beginCmd t head)) (modHead_congr ?_)
  rw [head_of_dpy (postHeadev_dpy ..)]

end Commands

/-! ## Poses and deadlines (R177, R178) -/

section Moments
variable {s : State} {head band f : Nat}

theorem exec_poseLatch (hon : (s.head head).on = true)
    (hf : (framesAhead (s.head head)).find? (fun f => (s.head head).awaits f band && (((s.head head).bandOf f band).bind (·.pose)).isNone) = some f)
    (hat : (s.head head).latchAt f band < (s.time + 55) * 256) :
    exec (.poseLatch head band) s = .next (formHomography (s.modHead head (fun d =>
      (d.touch f band).modBand f band (fun x => { x with pose := some (poseAtStart s d) }))) head f band) := by
  have hdue : reachedDc s ((s.head head).latchAt f band) = true := decide_eq_true hat
  show execPoseLatch head band s = _
  simp only [execPoseLatch, hon, hf, hdue, Bool.not_true, Bool.false_eq_true, if_false]

theorem find?_of_forall_eq {α : Type} {p q : α → Bool} {l : List α} (h : ∀ x, p x = q x) : l.find? p = l.find? q := by rw [funext h]

/-- The state in which the deadline of a band has sampled the source, if the band has not started. -/
abbrev deadlineSampled (s : State) (head f band : Nat) : State :=
  let d := s.head head
  let t := s.modHead head (fun d => d.touch f band)
  let r := sampleSource t head
  if ((d.bandOf f band).map (·.started)).getD false = true then t
  else r.2.modHead head (fun d => d.modBand f band (fun x => { x with gen := r.1.gen, srcbase := r.1.srcbase, shift := r.1.shift, src := d.src }))

theorem exec_bandDeadline (hon : (s.head head).on = true)
    (hf : (framesAhead (s.head head)).find? (fun f => (s.head head).awaits f band && !((((s.head head).bandOf f band).map (·.deadline)).getD false)) = some f)
    (hat : (s.head head).deadlineAt f band < (s.time + 55) * 256) :
    exec (.bandDeadline head band) s = .next (formHomography ((deadlineSampled s head f band).modHead head (fun d =>
      d.modBand f band (fun x => { x with deadline := true }))) head f band) := by
  have hdue : reachedDc s ((s.head head).deadlineAt f band) = true := decide_eq_true hat
  show execBandDeadline head band s = _
  simp only [execBandDeadline, hon, Bool.not_true, Bool.false_eq_true, if_false]
  rw [find?_of_forall_eq ?same, hf]
  case same =>
    intro n
    cases (s.head head).bandOf n band <;> rfl
  simp only [hdue, Bool.not_true, Bool.false_eq_true, if_false]

end Moments

/-! ## Lines (R179, R180) -/

section Lines
variable {s : State} {head : Nat}

/-- A head whose present line, as `d` has it, has gone out with pixels `px`. -/
def lineGone (d : Head) (px : List W64) (e : Head) : Head :=
  { e with
    fifo := e.fifo.filter (fun q => !(decide (q.1 = d.frame) && decide (q.2.2.1 = d.line))), scanning := true, blank := false
    shown := if d.timing.iface = 3 then d.shown else some (d.frame, d.line, px.map (linkPixel d.timing.outBits.toNat)) }

/-- The state in which the present line of a head goes out with pixels `px`: to memory or down its link. -/
abbrev lineShows (d : Head) (head : Nat) (t : State) (px : List W64) : State :=
  (if d.timing.iface = 3 then memoryLine t d px else t).modHead head (lineGone d px)

/-- The line that goes out is that of the head as it was before it was written to memory. -/
theorem lineGone_self {t : State} (px : List W64) (h : scanOf t head = scanOf s head) :
    t.modHead head (fun e => lineGone e px e) = t.modHead head (lineGone (s.head head) px) := by
  refine modHead_congr ?_
  simp only [scanOf, Prod.mk.injEq] at h
  obtain ⟨htiming, hframe, hline, hshown⟩ := h
  simp only [lineGone, htiming, hframe, hline, hshown]

theorem lineShows_self {t : State} (px : List W64) (h : scanOf t head = scanOf s head) :
    (if (s.head head).timing.iface = 3 then memoryLine t (s.head head) px else t).modHead head (fun e => lineGone e px e) = lineShows (s.head head) head t px := by
  refine lineGone_self px ?_
  split
  · rw [memoryLine_scanOf, h]
  · exact h

theorem beginLine_fifo (x : Band) {e : Nat × Nat × Nat × List W64}
    (he : (s.head head).fifo.find? (fun e => e.1 = (s.head head).frame && e.2.2.1 = (s.head head).line) = some e) :
    beginLine s head x = lineShows (s.head head) head s e.2.2.2 := by
  simp only [beginLine, he]
  exact lineShows_self _ rfl

theorem beginLine_bisque (x : Band) (he : (s.head head).fifo.find? (fun e => e.1 = (s.head head).frame && e.2.2.1 = (s.head head).line) = none) :
    let n := (s.head head).timing.hactive.toNat
    let r := bisqueLine s x (s.head head).line n
    let t := s.modHead head (fun d => { d with bisque := d.bisque + 1 })
    beginLine s head x = lineShows (s.head head) head (reportReads (chargeLine t x (s.head head).line n) head r.2) r.1 := by
  intro n r t
  have hscan : scanOf (reportReads (chargeLine t x (s.head head).line n) head r.2) head = scanOf s head := by
    rw [scanOf_of_dpy (reportReads_dpy ..), scanOf_of_dpy (chargeLine_dpy ..), scanOf, modHead_head_same]
  simp only [beginLine, he]
  exact lineShows_self _ hscan

theorem exec_lineScanout_begins {x : Band} (hruns : displayRuns s = true) (hon : (s.head head).on = true) (hidle : (s.head head).scanning = false)
    (hline : (s.head head).line < (s.head head).timing.vactive.toNat) (hat : (s.head head).lineAt (s.head head).frame (s.head head).line ≤ s.time * 256)
    (hband : (s.head head).bandOf (s.head head).frame ((s.head head).line / ((s.head head).cfgFor (s.head head).frame).bandLines) = some x)
    (hdead : x.deadline = true) : exec (.lineScanout head) s = .next (beginLine s head x) := by
  have hcome : reached s ((s.head head).lineAt (s.head head).frame (s.head head).line) = true := decide_eq_true hat
  show execLineScanout head s = _
  simp only [execLineScanout, hruns, hon, hidle, Nat.not_le.2 hline, hcome, hband, hdead, Bool.not_true, Bool.false_eq_true, or_self, if_false, if_true]

theorem exec_lineScanout_scanning (hruns : displayRuns s = true) (hon : (s.head head).on = true) (hscan : (s.head head).scanning = true) :
    exec (.lineScanout head) s =
      .next (if (s.head head).lineAt (s.head head).frame ((s.head head).line + 1) ≤ s.time * 256 then endLine s head else s) := by
  show execLineScanout head s = _
  simp only [execLineScanout, hruns, hon, hscan, reached, Bool.not_true, Bool.false_eq_true, or_self, if_false, if_true, decide_eq_true_eq]

end Lines

/-! ## The end of a frame (R192) -/

section FrameEnd
variable {s : State} {head : Nat}

theorem applyMode_untrained (t : Timing) (h : (s.head head).trains = false) :
    applyMode s head t = setResult (s.modHead head (fun d => { d with mode := none })) head 4 := by
  simp only [applyMode, h, Bool.not_false, if_true]

theorem exec_headFrameEnd_off_mode {t : Timing} (hoff : (s.head head).on = false) (hmode : (s.head head).mode = some t) :
    exec (.headFrameEnd head) s = .next (applyMode s head t) := by
  show execHeadFrameEnd head s = _
  simp only [execHeadFrameEnd, hoff, hmode, Bool.not_false, if_true]

theorem exec_headFrameEnd_off (hoff : (s.head head).on = false) (hmode : (s.head head).mode = none) (hpend : (s.head head).offPending = true) :
    exec (.headFrameEnd head) s = .next (setResult (s.modHead head (fun d => { d with offPending := false })) head 0) := by
  show execHeadFrameEnd head s = _
  simp only [execHeadFrameEnd, hoff, hmode, hpend, Bool.not_false, if_true]

/-- The state in which the next frame of a head begins. -/
abbrev nextFrame (s : State) (head : Nat) : State :=
  s.modHead head (fun d => { d with frameStart := (d.lineAt (d.frame + 1) 0).toNat, frame := d.frame + 1, line := 0 })

section On
variable (hon : (s.head head).on = true) (hlast : (s.head head).timing.vactive.toNat ≤ (s.head head).line)
  (hat : (s.head head).lineAt ((s.head head).frame + 1) 0 ≤ s.time * 256)
include hon hlast hat

theorem exec_headFrameEnd_mode {t : Timing} (hmode : (s.head head).mode = some t) :
    exec (.headFrameEnd head) s = .next (applyMode (nextFrame s head) head t) := by
  have hcome : reached s ((s.head head).lineAt ((s.head head).frame + 1) 0) = true := decide_eq_true hat
  show execHeadFrameEnd head s = _
  simp only [execHeadFrameEnd, hon, Nat.not_lt.2 hlast, hcome, hmode, Bool.not_true, Bool.false_eq_true, or_self, if_false]

theorem exec_headFrameEnd_noMode (hmode : (s.head head).mode = none) :
    exec (.headFrameEnd head) s = .next (if (s.head head).offPending = true
      then setResult ((clearFrames (nextFrame s head) head).modHead head (fun d => { d with offPending := false, timing := { d.timing with iface := 0 } })) head 0
      else nextFrame s head) := by
  have hcome : reached s ((s.head head).lineAt ((s.head head).frame + 1) 0) = true := decide_eq_true hat
  show execHeadFrameEnd head s = _
  simp only [execHeadFrameEnd, hon, Nat.not_lt.2 hlast, hcome, hmode, Bool.not_true, Bool.false_eq_true, or_self, if_false]

end On

end FrameEnd

/-- Settles O55: each request, command and event by its own lemma; a line goes out as the head stood before it because what it writes, charges and reports
leaves `scanOf`. -/
theorem headResults : Obligations.HeadResults := by
  intro s head
  refine ⟨?requests, ?commands, fun c rest r => exec_headCmdComplete, fun seq => rfl, fun band f => exec_poseLatch, fun band f => exec_bandDeadline, ?begins,
    ?scanning, fun t => applyMode_untrained t, fun hoff => ⟨fun t => exec_headFrameEnd_off_mode hoff, exec_headFrameEnd_off hoff⟩, ?on⟩
  case requests =>
    intro e he
    have hexec : exec e.1 s = .next (postRequest s head e.2) := by
      revert e
      simp only [List.forall_mem_cons]
      exact ⟨rfl, rfl, rfl, fun _ h => absurd h List.not_mem_nil⟩
    exact ⟨fun h => hexec.trans (congrArg _ (postRequest_busy h)), fun h => hexec.trans (congrArg _ (postRequest_posted h))⟩
  case commands =>
    intro val hhead e he hcmd
    have hexec : exec e.1 s = .next (headCmd val e.2 s) := by
      clear hcmd
      revert e
      simp only [List.forall_mem_cons]
      exact ⟨rfl, rfl, rfl, rfl, fun _ h => absurd h List.not_mem_nil⟩
    have heq := hexec.trans (congrArg _ (headCmd_eq hhead hcmd))
    refine ⟨fun hreq hno => heq.trans (congrArg _ (if_pos ⟨hreq, hno⟩)), fun hok => heq.trans (congrArg _ (if_neg ?_))⟩
    rintro ⟨hreq, hno⟩
    exact hok.elim (fun h => Bool.noConfusion (h.symm.trans hreq)) hno
  case begins =>
    intro x hruns hon hidle hline hat hband hdead n shows
    have hexec := exec_lineScanout_begins hruns hon hidle hline hat hband hdead
    exact ⟨fun e he => hexec.trans (congrArg _ (beginLine_fifo x he)), fun he => hexec.trans (congrArg _ (beginLine_bisque x he))⟩
  case scanning =>
    intro hruns hon hscan b t
    have hexec := exec_lineScanout_scanning hruns hon hscan
    exact ⟨fun h => hexec.trans (congrArg _ (if_neg (Int.not_le.2 h))), fun h => hexec.trans (congrArg _ (if_pos h))⟩
  case on =>
    intro hon hlast hat u
    have hexec := exec_headFrameEnd_noMode hon hlast hat
    refine ⟨fun t => exec_headFrameEnd_mode hon hlast hat, fun hmode hpend => (hexec hmode).trans (congrArg _ (if_pos hpend)), fun hmode hpend =>
      (hexec hmode).trans (congrArg _ (if_neg (Bool.eq_false_iff.1 hpend)))⟩

end Sys2Proof.HeadProofs
end
